-- ==== Sys2Proof/Word.lean ====
section
/-! DEFINITION. The word types of the DF7440 (spec/00_scope.md R4, spec/03_numbers.md R68). -/

namespace Sys2Proof

/-- One byte. -/
abbrev Byte := BitVec 8
/-- One vector lane element (R68). -/
abbrev Word32 := BitVec 32
/-- One scalar register or instruction word (R68, R179). -/
abbrev Word64 := BitVec 64
/-- A set of lanes, bit i for lane i: predicates (R29), executing sets (R209). -/
abbrev Mask := BitVec 32
/-- A register field of an instruction word (R189). -/
abbrev R8 := BitVec 8
/-- A format tag (R73, Table 3.2). -/
abbrev Tag := BitVec 4
/-- A cause code (Table 16.1) or an abort cause (Table 5.6). -/
abbrev Code8 := BitVec 8

/-- The 32 lane values of one vector register. -/
abbrev Lanes := Vector Word32 32

end Sys2Proof
end

