-- ==== Sys2Proof/Machine/Bits.lean ====
section
/-! DEFINITION. Bits, masks, lanes, bytes and the CRC-32C (R138). -/

namespace Sys2Proof.Machine

/-- The `w`-bit word whose bit i is `f i`. -/
def bitsOf (w : Nat) (f : Nat → Bool) : BitVec w := (BitVec.ofBoolListLE ((List.range w).map f)).setWidth w

/-- The lane set of the lanes i with `f i`. -/
def maskOf (f : Nat → Bool) : Mask := bitsOf 32 f

/-- Lane i is in the set. -/
def has (m : Mask) (i : Nat) : Bool := m.getLsbD i

/-- The lanes of a set, ascending. -/
def lanesOf (m : Mask) : List Nat := (List.range 32).filter (has m)

/-- Lanes in a set. -/
def count (m : Mask) : Nat := (lanesOf m).length

/-- The lowest lane of a set, 0 for none. -/
def lowest (m : Mask) : Nat := (lanesOf m).headD 0

/-- Value of lane i. -/
def Lanes.get (x : Lanes) (i : Nat) : Word32 := if h : i < 32 then x[i] else 0

/-- The lane values `f i`. -/
def Lanes.of (f : Nat → Word32) : Lanes := Vector.ofFn fun i : Fin 32 => f i.val

/-- Lanes of `m` from `new`, the others from `old`. -/
def Lanes.merge (m : Mask) (new old : Lanes) : Lanes := Lanes.of fun i => if has m i then Lanes.get new i else Lanes.get old i

/-- Value of lane i of a vector of lane addresses. -/
def lane64 (x : Vector Word64 32) (i : Nat) : Word64 := if h : i < 32 then x[i] else 0

/-- Lane addresses `f i`. -/
def of64 (f : Nat → Word64) : Vector Word64 32 := Vector.ofFn fun i : Fin 32 => f i.val

/-- The bytes of a number, lowest first. -/
def bytesOf (n x : Nat) : List Byte := (List.range n).map fun i => BitVec.ofNat 8 (x / 2 ^ (8 * i))

/-- The number that little-endian bytes hold. -/
def ofBytes : List Byte → Nat
  | [] => 0
  | b :: r => b.toNat + 256 * ofBytes r

/-- A byte list's 32-bit words, little-endian. -/
def wordsOf (n : Nat) (l : List Byte) : List Word32 :=
  (List.range n).map fun i => BitVec.ofNat 32 (ofBytes ((l.drop (4 * i)).take 4))

/-- A byte list's 64-bit words, little-endian. -/
def dwordsOf (n : Nat) (l : List Byte) : List Word64 :=
  (List.range n).map fun i => BitVec.ofNat 64 (ofBytes ((l.drop (8 * i)).take 8))

/-- One bit step of the reflected CRC with polynomial 0x1EDC_6F41. -/
def crcStep (c : Word32) : Word32 := if c.getLsbD 0 then (c >>> 1) ^^^ 0x82F63B78 else c >>> 1

/-- One byte of the CRC. -/
def crcByte (c : Word32) (b : Byte) : Word32 :=
  crcStep (crcStep (crcStep (crcStep (crcStep (crcStep (crcStep (crcStep (c ^^^ b.setWidth 32))))))))

/-- CRC-32C of a byte string (R138). -/
def crc32c (l : List Byte) : Word32 := l.foldl crcByte 0xFFFFFFFF ^^^ 0xFFFFFFFF

/-- Field [hi:lo] of a 64-bit word as a number. -/
def fld (w : Word64) (hi lo : Nat) : Nat := (w.extractLsb' lo (hi + 1 - lo)).toNat

/-- A number placed at a bit position. -/
def at_ (x lo : Nat) : Word64 := BitVec.ofNat 64 (x * 2 ^ lo)

/-- 1 for true. -/
def b2n (b : Bool) : Nat := if b then 1 else 0

/-- Replace the first element that satisfies `p`, or append when none does. -/
def upsert {α : Type} (p : α → Bool) (x : α) : List α → List α
  | [] => [x]
  | y :: r => if p y then x :: r else y :: upsert p x r

/-- Update every element that satisfies `p`. -/
def updIf {α : Type} (p : α → Bool) (f : α → α) (l : List α) : List α := l.map fun x => if p x then f x else x

/-- Insert by ascending key. -/
def insertBy {α : Type} (key : α → Nat) (x : α) : List α → List α
  | [] => [x]
  | y :: r => if key x < key y then x :: y :: r else y :: insertBy key x r

/-- Stable ascending order by key. -/
def sortBy {α : Type} (key : α → Nat) (l : List α) : List α := l.foldl (fun acc x => insertBy key x acc) []

/-- Signed value of a 16-bit offset at 64 bits. -/
def sext16 (x : BitVec 16) : Word64 := x.signExtend 64

/-- The bit pattern of a Boolean in a 64-bit word. -/
def bool64 (b : Bool) : Word64 := if b then 1 else 0

end Sys2Proof.Machine
end

