-- ==== Sys2Proof/Config.lean ====
section
/-! DEFINITION. What each part fuses or the manual leaves open: constants with no body. A claim that mentions one
holds for every value it could have. The log entry of each is named. -/

namespace Sys2Proof.Config

/-- Fused serial number (R1, R430), log entry 5. -/
opaque serial : BitVec 64
/-- Fused SHA-256 hash of the operator public key (R428), log entry 5. -/
opaque operatorKeyHash : BitVec 256
/-- The Resihorn firmware key, whose SHA-256 hash is fused (R434), log entry 5. -/
opaque firmwareKey : BitVec 512
/-- Fused anti-rollback minimum (R434), log entry 5. -/
opaque minFirmware : Nat
/-- Public half of the fused identity key, x then y (R434), log entry 5. -/
opaque identityKey : BitVec 512
/-- The exchange key pair's public half drawn at start number `n` (R434), log entry 5. -/
opaque exchangeKey : Nat → BitVec 512
/-- The start nonce drawn at start number `n` (R428), log entry 5. -/
opaque startNonce : Nat → BitVec 256
/-- Version, SHA-256 hash and signature of the firmware image in place at manufacture (R434), log entry 5. -/
opaque factoryFirmware : Nat × BitVec 256 × BitVec 512
/-- Base and size of the save reserve that Zuilaner sets aside (R412), log entry 5. -/
opaque saveReserve : Nat × Nat
/-- What the MAC addresses of ports 0 to 15 are drawn from (R427), log entry 5. -/
opaque macSeed : Nat → BitVec 48
/-- The link-local addresses of ports 0 to 15 (Table 13.1), log entry 21. -/
opaque linkLocal : Nat → BitVec 128
/-- The device's queue pair number of the connection of a mapped queue (R345 gives the other end's), log entry 15. -/
opaque queuePair : Nat → Nat
/-- Whether a peer device carries a `GT.SYSID` in a context (R360), by context, identifier and device, log entry 18. -/
opaque peerCarries : Nat → Nat → Nat → Bool

/-- x operands that the staging store of a stack's logic die holds, after the first (R401), log entry 56. -/
opaque stagingMore : Nat

/-- SHA-256 of a byte string (R428, R434), log entry 6. -/
opaque sha256 : List Byte → BitVec 256
/-- Whether an ECDSA P-256 signature of a digest verifies under a public key (R428, R434), log entry 6. -/
opaque ecdsaVerify : BitVec 512 → BitVec 256 → BitVec 512 → Bool
/-- The identity key's ECDSA signature of a digest (R430, Table 13.4), log entry 6. -/
opaque identitySign : BitVec 256 → BitVec 512
/-- The key pair that AES-256 key unwrap gives for a start number, a host public key and a wrapped pair; none when the
wrap's own check fails (R433), log entry 6. -/
opaque keyUnwrap : Nat → BitVec 512 → BitVec 576 → Option (BitVec 512)
/-- The key that a start draws for slot 4095, under which packet rings and saved images stand (R337, R412, Table 13.6), log
entry 5. -/
opaque deviceKey : Nat → BitVec 512
/-- What a 32-byte sector written under key `kOld` holds when read under `kNew`, at its XTS tweak (R131, R132),
log entry 6. -/
opaque foreignSector : (kOld kNew : BitVec 512) → (tweak : Nat) → BitVec 256 → BitVec 256
/-- Version of a Zuilaner image and the signature it carries; none when the bytes are no image (R434): the image format is
not given, log entry 6. -/
opaque imageFields : List Byte → Option (Nat × BitVec 512)
/-- What the self test of start number `n` finds in a core (Table 13.6 step 6): the failed physical lanes of its four vector pipes, 33 bits each,
of which bit 32 is the spare, and whether any other unit of it fails, log entry 5. -/
opaque selfTest : Nat → Nat → BitVec 132 × Bool

/-- Free bit pattern number `n` for a value the manual leaves open: byte (log entry 4). -/
opaque freeByte : Nat → Byte
/-- Free choice number `n` between two outcomes the manual allows (log entry 4). -/
opaque freeBool : Nat → Bool
/-- Free word number `n` (log entry 4). -/
opaque freeWord : Nat → BitVec 64

end Sys2Proof.Config
end

