-- ==== Sys2Proof/Syntax.lean ====
section
/-! DEFINITION. Syntax: one constructor of `Instr` for each row of spec/opcode_table.json. Rows NOP to CKPT are
instruction words (spec/06 to spec/09); rows SCHEDULER_PICK to PFC_PAUSE are the events of the machine, each with the
inputs that say which one happens. -/

namespace Sys2Proof

/-- Guard predicate and negate bit (R185, R186). -/
structure Guard where
  p : BitVec 4
  neg : Bool
  deriving DecidableEq, Repr

/-- Second operand of a scalar instruction: a register, or the 24-bit immediate of the VI form (R223). -/
inductive SB
  | reg (b : R8)
  | imm (v : BitVec 24)
  deriving DecidableEq, Repr

/-- SCMP conditions (R225). -/
inductive SCond
  | eq | ne | lt | le | gt | ge | ltu | leu | gtu | geu
  deriving DecidableEq, Repr

/-- Integer types `.i32` and `.u32` (R226). -/
inductive ITy
  | i32 | u32
  deriving DecidableEq, Repr

/-- Packed element select of integer instructions (R226). -/
inductive Pack
  | none | p16 | p8
  deriving DecidableEq, Repr

/-- VCMP conditions (R229). -/
inductive VCond
  | eq | ne | lt | le | gt | ge
  deriving DecidableEq, Repr

/-- VMOVI types (R230). -/
inductive MovTy
  | i32 | u32 | b32 | f32
  deriving DecidableEq, Repr

/-- Floating-point types of Table 7.6. -/
inductive FTy
  | f32 | f64 | h2 | bf2
  deriving DecidableEq, Repr

/-- VFCMP conditions (Table 7.7). -/
inductive FCond
  | eq | ne | lt | le | gt | ge | un | or
  deriving DecidableEq, Repr

/-- Rounding select of VFRND, VCVT and VPACK (R237). -/
inductive Rnd
  | dyn | rne | rtz | rdn | rup
  deriving DecidableEq, Repr

/-- Destination and source types of VCVT, destination first (R241). -/
inductive Cvt
  | f32i32 | f32u32 | f64i32 | f64u32 | i32f32 | u32f32 | f64f32 | i32f64 | u32f64 | f32f64
  deriving DecidableEq, Repr

/-- Packed formats of VPACK and VUNPACK (Table 7.8). -/
inductive PackFmt
  | h2 | bf2 | e4 | e5 | i8 | i16
  deriving DecidableEq, Repr

/-- Block formats of VBXQ and VBXD (R243). -/
inductive BxFmt
  | x8 | x6 | x4
  deriving DecidableEq, Repr

/-- Bit-plane formats of VPLANE, VUNPLANE and LDP (R245, R266). -/
inductive PlFmt
  | x6 | x4 | i4
  deriving DecidableEq, Repr

/-- VVOTE modes (R249). -/
inductive VoteMd
  | all | any | eq
  deriving DecidableEq, Repr

/-- VSHFL modes (Table 7.10). -/
inductive ShflMd
  | idx | xor | up | dn
  deriving DecidableEq, Repr

/-- Source of VBCAST: a lane of a vector register, or a scalar register (R252). -/
inductive BcSrc
  | lane (a : R8) (l : BitVec 5)
  | scal (a : R8)
  deriving DecidableEq, Repr

/-- Operation and type of VREDUCE and VSCAN (Table 7.11). -/
inductive RedOp
  | addI | addU | addF | minI | minU | minF | maxI | maxU | maxF | and | or | xor
  deriving DecidableEq, Repr

/-- Operations of a compact half (Table 6.9). -/
inductive COp
  | vadd | vsub | vadds | vsubs | vmul | vmulh | vmin | vmax | vand | vor | vxor | vnot | vshl | vshr | vsra | vrot
  | vabs | vneg | vmov | vclz | vpopc | vbrev | vfadd | vfsub | vfmul | vfmin | vfmax
  | vfrcp | vfrsq | vfexp2 | vflog2 | vfsinp | vfcosp | vffrac | vfrnd | vshfl
  deriving DecidableEq, Repr

/-- Types of a compact half (R191). -/
inductive CTy
  | i32 | u32 | b32 | f32
  deriving DecidableEq, Repr

/-- One half of a paired word (R191): no operation, or a compact operation with destination and sources. -/
inductive Compact
  | nop
  | op (o : COp) (t : CTy) (d a b : R8)
  deriving DecidableEq, Repr

/-- Type codes (Table 6.7). -/
inductive Ty
  | i32 | u32 | b32 | b64 | f32 | f64 | h2 | bf2 | e4 | e5 | x8 | x6 | x4 | i8 | i4 | b1
  deriving DecidableEq, Repr

/-- Types of byte and halfword accesses (Table 8.2). -/
inductive BTy
  | i32 | u32 | b32
  deriving DecidableEq, Repr

/-- Variant and type of LD, ST, LDS and STS (Table 8.2): full, byte, halfword or quad. -/
inductive LdW
  | full (t : Ty)
  | w8 (t : BTy)
  | w16 (t : BTy)
  | quad (t : Ty)
  deriving DecidableEq, Repr

/-- Orders of a memory word (Table 6.5). -/
inductive Ord
  | none | acq | rel | ar | sc
  deriving DecidableEq, Repr

/-- Scopes (Table 6.5). -/
inductive Scope
  | dv | wg | cl | sy
  deriving DecidableEq, Repr

/-- Memory operand: scalar base and offset, vector base pair and offset, or scalar base and vector offset (R188). -/
inductive MAddr
  | so (a : R8) (off : BitVec 16)
  | vo (a : R8) (off : BitVec 16)
  | sv (a v : R8)
  deriving DecidableEq, Repr

/-- Memory operand of an atomic, which takes no offset (R188). -/
inductive AAddr
  | s (a : R8)
  | v (a : R8)
  | sv (a v : R8)
  deriving DecidableEq, Repr

/-- Atomic operations (Table 6.8). -/
inductive AOp
  | add | sub | smin | smax | umin | umax | and | or | xor | exch | incw | decw | fadd
  deriving DecidableEq, Repr

/-- PHASE contribution operations (R291). -/
inductive POp
  | none | add | umin | umax | or | and | xor
  deriving DecidableEq, Repr

/-- GRPQ queries (Table 8.11). -/
inductive GQ
  | phase | size | rank | val
  deriving DecidableEq, Repr

/-- Step count of MLOOP: an immediate or a scalar register (R303). -/
inductive MCnt
  | imm (n : Byte)
  | reg (a : R8)
  deriving DecidableEq, Repr

/-- MZERO types (R306). -/
inductive MzTy
  | f32 | f64 | i32
  deriving DecidableEq, Repr

/-- Accumulator move forms (Table 9.4). -/
inductive MForm
  | one | oct | f64
  deriving DecidableEq, Repr

/-- MSTA types (R308). -/
inductive MsTy
  | i32 | f32 | f64 | h2 | bf2 | e4 | e5
  deriving DecidableEq, Repr

/-- BSTAT queries (Table 9.9). -/
inductive BQ
  | busy | rows | rayinv | rays
  deriving DecidableEq, Repr

/-- FSOUT colour types (Table 9.14). -/
inductive FsTy
  | f32 | h2 | e4
  deriving DecidableEq, Repr

/-- Special registers (Table 6.10). -/
inductive Special
  | idLane | idWarp | idWg | idSheaf | idCore | idCluster | idDie | idDevice | role | timebase | clock | fmode
  | fflags | tcause | taddr | tlanes | tvec | mprog | rangeLo | rangeHi | lanemap | gazeAz | gazeEl | gazeTime
  | gazeSeq | vpc
  deriving DecidableEq, Repr

/-- The instructions and events of spec/opcode_table.json, in its order; each names its row and the rule of it. -/
inductive Instr
  /-- NOP (R214). -/
  | nop (g : Guard)
  /-- BRA (R215). -/
  | bra (g : Guard) (disp : BitVec 32)
  /-- BRX (R215). -/
  | brx (g : Guard) (a : R8)
  /-- CALL (R215). -/
  | call (g : Guard) (d : R8) (disp : BitVec 32)
  /-- RET (R215). -/
  | ret (g : Guard) (a : R8)
  /-- EXIT (R216). -/
  | exit (g : Guard)
  /-- WAIT (R217). -/
  | wait (g : Guard) (m : BitVec 6)
  /-- YIELD (R217). -/
  | yield (g : Guard)
  /-- SLEEP (R217). -/
  | sleep (g : Guard) (a : R8)
  /-- BRK (R218). -/
  | brk (g : Guard) (code : Byte)
  /-- IPREF (R219). -/
  | ipref (g : Guard) (l1 : Bool) (a b : R8)
  /-- IPIN (R219). -/
  | ipin (g : Guard) (l1 : Bool) (a b : R8)
  /-- IUNPIN (R219). -/
  | iunpin (g : Guard) (l1 : Bool) (a b : R8)
  /-- SADD (R223). -/
  | sadd (g : Guard) (d a : R8) (b : SB)
  /-- SSUB (R223). -/
  | ssub (g : Guard) (d a : R8) (b : SB)
  /-- SMUL (R223). -/
  | smul (g : Guard) (d a : R8) (b : SB)
  /-- SMULH (R223). -/
  | smulh (g : Guard) (u : Bool) (d a b : R8)
  /-- SAND (R223). -/
  | sand (g : Guard) (d a : R8) (b : SB)
  /-- SOR (R223). -/
  | sor (g : Guard) (d a : R8) (b : SB)
  /-- SXOR (R223). -/
  | sxor (g : Guard) (d a : R8) (b : SB)
  /-- SSHL (R223). -/
  | sshl (g : Guard) (d a : R8) (b : SB)
  /-- SSHR (R223). -/
  | sshr (g : Guard) (d a : R8) (b : SB)
  /-- SSRA (R223). -/
  | ssra (g : Guard) (d a : R8) (b : SB)
  /-- SMOV (R223). -/
  | smov (g : Guard) (d a : R8)
  /-- SMOVI (R224). -/
  | smovi (g : Guard) (d : R8) (imm : BitVec 24)
  /-- SMOVI_MID (R224). -/
  | smoviMid (g : Guard) (d : R8) (imm : BitVec 24)
  /-- SMOVI_HI (R224). -/
  | smoviHi (g : Guard) (d : R8) (imm : BitVec 16)
  /-- SCMP (R225). -/
  | scmp (g : Guard) (cc : SCond) (d a b : R8)
  /-- SSEL (R223). -/
  | ssel (g : Guard) (d a b c : R8)
  /-- SCLZ (R223). -/
  | sclz (g : Guard) (d a : R8)
  /-- SPOPC (R223). -/
  | spopc (g : Guard) (d a : R8)
  /-- VADD (R227). -/
  | vadd (g : Guard) (t : ITy) (pk : Pack) (d a b : R8)
  /-- VSUB (R227). -/
  | vsub (g : Guard) (t : ITy) (pk : Pack) (d a b : R8)
  /-- VADDC (R228). -/
  | vaddc (g : Guard) (t : ITy) (d a b ci : R8) (co : BitVec 4)
  /-- VSUBB (R228). -/
  | vsubb (g : Guard) (t : ITy) (d a b ci : R8) (co : BitVec 4)
  /-- VADDS (R227). -/
  | vadds (g : Guard) (t : ITy) (pk : Pack) (d a b : R8)
  /-- VSUBS (R227). -/
  | vsubs (g : Guard) (t : ITy) (pk : Pack) (d a b : R8)
  /-- VMUL (R227). -/
  | vmul (g : Guard) (t : ITy) (pk : Pack) (d a b : R8)
  /-- VMULH (R227). -/
  | vmulh (g : Guard) (t : ITy) (d a b : R8)
  /-- VMAD (R227). -/
  | vmad (g : Guard) (t : ITy) (d a b c : R8)
  /-- VMIN (R227). -/
  | vmin (g : Guard) (t : ITy) (pk : Pack) (d a b : R8)
  /-- VMAX (R227). -/
  | vmax (g : Guard) (t : ITy) (pk : Pack) (d a b : R8)
  /-- VABS (R227). -/
  | vabs (g : Guard) (pk : Pack) (d a : R8)
  /-- VNEG (R227). -/
  | vneg (g : Guard) (pk : Pack) (d a : R8)
  /-- VAND (R227). -/
  | vand (g : Guard) (d a b : R8)
  /-- VOR (R227). -/
  | vor (g : Guard) (d a b : R8)
  /-- VXOR (R227). -/
  | vxor (g : Guard) (d a b : R8)
  /-- VNOT (R227). -/
  | vnot (g : Guard) (d a : R8)
  /-- VSHL (R227). -/
  | vshl (g : Guard) (d a b : R8)
  /-- VSHR (R227). -/
  | vshr (g : Guard) (d a b : R8)
  /-- VSRA (R227). -/
  | vsra (g : Guard) (d a b : R8)
  /-- VROT (R227). -/
  | vrot (g : Guard) (d a b : R8)
  /-- VFUNL (R227). -/
  | vfunl (g : Guard) (d a b c : R8)
  /-- VCMP (R229). -/
  | vcmp (g : Guard) (cc : VCond) (t : ITy) (d a b : R8)
  /-- VSEL (R229). -/
  | vsel (g : Guard) (d a b c : R8)
  /-- VMOV (R227). -/
  | vmov (g : Guard) (wide : Bool) (d a : R8)
  /-- VMOVI (R230). -/
  | vmovi (g : Guard) (t : MovTy) (d : R8) (imm : BitVec 24)
  /-- VMOVI_HI (R230). -/
  | vmoviHi (g : Guard) (t : MovTy) (d : R8) (imm : BitVec 16)
  /-- VMOVI_LO (R230). -/
  | vmoviLo (g : Guard) (t : MovTy) (d : R8) (imm : BitVec 16)
  /-- VDOT4 (R231). -/
  | vdot4 (g : Guard) (d a b c : R8)
  /-- VCLZ (R227). -/
  | vclz (g : Guard) (d a : R8)
  /-- VPOPC (R227). -/
  | vpopc (g : Guard) (d a : R8)
  /-- VBREV (R227). -/
  | vbrev (g : Guard) (d a : R8)
  /-- VBFE (R232). -/
  | vbfe (g : Guard) (sgn : Bool) (d a b : R8)
  /-- VBFI (R232). -/
  | vbfi (g : Guard) (d a b c : R8)
  /-- VBITIL (R233). -/
  | vbitil (g : Guard) (w3 : Bool) (d a b c : R8)
  /-- VBITDL (R233). -/
  | vbitdl (g : Guard) (w3 : Bool) (d a : R8) (k : BitVec 2)
  /-- VFADD (R234). -/
  | vfadd (g : Guard) (t : FTy) (d a b : R8)
  /-- VFSUB (R234). -/
  | vfsub (g : Guard) (t : FTy) (d a b : R8)
  /-- VFMUL (R234). -/
  | vfmul (g : Guard) (t : FTy) (d a b : R8)
  /-- VFMA (R234). -/
  | vfma (g : Guard) (t : FTy) (d a b c : R8)
  /-- VFMIN (R234). -/
  | vfmin (g : Guard) (t : FTy) (d a b : R8)
  /-- VFMAX (R234). -/
  | vfmax (g : Guard) (t : FTy) (d a b : R8)
  /-- VFCMP (R235). -/
  | vfcmp (g : Guard) (cc : FCond) (dbl : Bool) (d a b : R8)
  /-- VFCLASS (R236). -/
  | vfclass (g : Guard) (dbl : Bool) (d a : R8)
  /-- VFRND (R237). -/
  | vfrnd (g : Guard) (dbl : Bool) (m : Rnd) (x : Bool) (d a : R8)
  /-- VFSCALE (R237). -/
  | vfscale (g : Guard) (dbl : Bool) (d a b : R8)
  /-- VFFRAC (R237). -/
  | vffrac (g : Guard) (dbl : Bool) (d a : R8)
  /-- VFDIVS (R238). -/
  | vfdivs (g : Guard) (la : BitVec 4) (dbl : Bool) (d a b : R8)
  /-- VFSQRTS (R238). -/
  | vfsqrts (g : Guard) (la : BitVec 4) (dbl : Bool) (d a : R8)
  /-- VFRCP (R239). -/
  | vfrcp (g : Guard) (la : BitVec 4) (d a : R8)
  /-- VFRSQ (R239). -/
  | vfrsq (g : Guard) (la : BitVec 4) (d a : R8)
  /-- VFEXP2 (R239). -/
  | vfexp2 (g : Guard) (la : BitVec 4) (d a : R8)
  /-- VFLOG2 (R239). -/
  | vflog2 (g : Guard) (la : BitVec 4) (d a : R8)
  /-- VFSINP (R239). -/
  | vfsinp (g : Guard) (la : BitVec 4) (d a : R8)
  /-- VFCOSP (R239). -/
  | vfcosp (g : Guard) (la : BitVec 4) (d a : R8)
  /-- VSMUPD (R240). -/
  | vsmupd (g : Guard) (la : BitVec 4) (d a b : R8)
  /-- VSMFIN (R240). -/
  | vsmfin (g : Guard) (la : BitVec 4) (d a : R8)
  /-- VCVT (R241). -/
  | vcvt (g : Guard) (cv : Cvt) (m : Rnd) (d a : R8)
  /-- VPACK (R242). -/
  | vpack (g : Guard) (f : PackFmt) (m : Rnd) (d a : R8)
  /-- VUNPACK (R242). -/
  | vunpack (g : Guard) (f : PackFmt) (d a : R8)
  /-- VBXQ (R243). -/
  | vbxq (g : Guard) (f : BxFmt) (blk : BitVec 3) (d e a : R8)
  /-- VBXD (R244). -/
  | vbxd (g : Guard) (f : BxFmt) (blk : BitVec 3) (d a e : R8)
  /-- VPLANE (R245). -/
  | vplane (g : Guard) (f : PlFmt) (d a : R8)
  /-- VUNPLANE (R245). -/
  | vunplane (g : Guard) (f : PlFmt) (d a : R8)
  /-- VTAG (R246). -/
  | vtag (g : Guard) (d a : R8) (tag : Tag)
  /-- VBALLOT (R248). -/
  | vballot (g : Guard) (d a : R8) (bit : BitVec 5) (q : BitVec 4)
  /-- VVOTE (R249). -/
  | vvote (g : Guard) (md : VoteMd) (d pm ps : R8) (q : BitVec 4)
  /-- VSHFL (R250). -/
  | vshfl (g : Guard) (md : ShflMd) (d a b : R8) (q : BitVec 4)
  /-- VSHFLP (R251). -/
  | vshflp (g : Guard) (d a b : R8) (pc : BitVec 4)
  /-- VBCAST (R252). -/
  | vbcast (g : Guard) (d : R8) (src : BcSrc)
  /-- VREDUCE (R253). -/
  | vreduce (g : Guard) (op : RedOp) (d a : R8) (pm q : BitVec 4)
  /-- VSCAN (R253). -/
  | vscan (g : Guard) (op : RedOp) (ex : Bool) (d a : R8) (pm q : BitVec 4)
  /-- VMATCH (R254). -/
  | vmatch (g : Guard) (d a : R8) (pm q : BitVec 4)
  /-- PAND (R255). -/
  | pand (g : Guard) (d a b : R8)
  /-- POR (R255). -/
  | por (g : Guard) (d a b : R8)
  /-- PXOR (R255). -/
  | pxor (g : Guard) (d a b : R8)
  /-- PNOT (R255). -/
  | pnot (g : Guard) (d a : R8)
  /-- PMOV (R255). -/
  | pmov (g : Guard) (d a : R8)
  /-- PMOV_TOV (R255). -/
  | pmovTov (g : Guard) (d a : R8)
  /-- PMOV_FRV (R255). -/
  | pmovFrv (g : Guard) (d a : R8)
  /-- PMOV_TOS (R255). -/
  | pmovTos (g : Guard) (d a : R8)
  /-- PSET (R255). -/
  | pset (g : Guard) (d a : R8)
  /-- PSET_RNG (R255). -/
  | psetRng (g : Guard) (d : R8) (lo hi : BitVec 5)
  /-- PSET_AND (R255). -/
  | psetAnd (g : Guard) (d : R8) (m k : BitVec 5)
  /-- PCOUNT (R255). -/
  | pcount (g : Guard) (d a : R8)
  /-- PFIRST (R255). -/
  | pfirst (g : Guard) (d a : R8)
  /-- PAIRED_WORD (R191). -/
  | pairedWord (hi lo : Compact)
  /-- LD (R261). -/
  | ld (g : Guard) (la : BitVec 4) (w : LdW) (o : Ord) (sc : Scope) (m : MAddr) (d : R8)
  /-- ST (R262). -/
  | st (g : Guard) (w : LdW) (o : Ord) (sc : Scope) (m : MAddr) (d : R8)
  /-- LDS (R263). -/
  | lds (g : Guard) (la : BitVec 4) (w : LdW) (o : Ord) (sc : Scope) (m : MAddr) (d : R8)
  /-- STS (R263). -/
  | sts (g : Guard) (w : LdW) (o : Ord) (sc : Scope) (m : MAddr) (d : R8)
  /-- LDC (R265). -/
  | ldc (g : Guard) (la : BitVec 4) (wide acq : Bool) (sc : Scope) (a : R8) (off : BitVec 16) (d : R8)
  /-- LDP (R266). -/
  | ldp (g : Guard) (la : BitVec 4) (f : PlFmt) (v : BitVec 2) (m : MAddr) (d : R8)
  /-- LDT (R264). -/
  | ldt (g : Guard) (la : BitVec 4) (tag : Tag) (m : MAddr) (d : R8)
  /-- PREF (R267). -/
  | pref (g : Guard) (l2 : Bool) (m : MAddr)
  /-- CWB (R267). -/
  | cwb (g : Guard) (m : MAddr)
  /-- CINV (R267). -/
  | cinv (g : Guard) (m : MAddr)
  /-- ATOM (R270). -/
  | atom (g : Guard) (la : BitVec 4) (op : AOp) (wide : Bool) (o : Ord) (sc : Scope) (m : AAddr) (d b : R8)
  /-- ACAS (R272). -/
  | acas (g : Guard) (la : BitVec 4) (wide : Bool) (o : Ord) (sc : Scope) (m : AAddr) (d b : R8)
  /-- RED (R273). -/
  | red (g : Guard) (op : AOp) (wide : Bool) (o : Ord) (sc : Scope) (m : AAddr) (b : R8)
  /-- VBMIN (R274). -/
  | vbmin (g : Guard) (o : Ord) (sc : Scope) (m : AAddr) (b : R8)
  /-- FENCE (R276). -/
  | fence (g : Guard) (o : Ord) (sc : Scope)
  /-- BFENCE (R277). -/
  | bfence (g : Guard)
  /-- TBEGIN (R279). -/
  | tbegin (g : Guard) (d : R8)
  /-- TEND (R281). -/
  | tend (g : Guard)
  /-- TABORT (R282). -/
  | tabort (g : Guard) (code : Byte)
  /-- TTEST (R283). -/
  | ttest (g : Guard) (d : R8)
  /-- OSENTER (R286). -/
  | osenter (g : Guard) (cl : Bool) (a b : R8)
  /-- OSLEAVE (R287). -/
  | osleave (g : Guard) (cl : Bool) (a : R8)
  /-- OSRESET (R288). -/
  | osreset (g : Guard) (cl : Bool) (a b : R8)
  /-- OSQUERY (R289). -/
  | osquery (g : Guard) (la : BitVec 4) (cl : Bool) (d a : R8)
  /-- BAR (R290). -/
  | bar (g : Guard) (b : BitVec 2)
  /-- PHASE (R291). -/
  | phase (g : Guard) (grp : Byte) (op : POp) (a : R8)
  /-- GRPQ (R292). -/
  | grpq (g : Guard) (la : BitVec 4) (q : GQ) (d : R8) (grp : Byte)
  /-- MBINIT (R294). -/
  | mbinit (g : Guard) (a : R8) (off : BitVec 16) (d : R8)
  /-- MBEXP (R294). -/
  | mbexp (g : Guard) (a : R8) (off : BitVec 16) (d : R8)
  /-- MBARR (R294). -/
  | mbarr (g : Guard) (sc : Scope) (a : R8) (off : BitVec 16)
  /-- MBWAIT (R295). -/
  | mbwait (g : Guard) (sc : Scope) (d a : R8) (off : BitVec 16)
  /-- MBWAIT_CUR (R295). -/
  | mbwaitCur (g : Guard) (sc : Scope) (d a : R8) (off : BitVec 16)
  /-- MBTEST (R295). -/
  | mbtest (g : Guard) (sc : Scope) (d a : R8) (off : BitVec 16)
  /-- MBTEST_SNAP (R295). -/
  | mbtestSnap (g : Guard) (d a : R8) (off : BitVec 16)
  /-- MCFG_TY (R301). -/
  | mcfgTy (g : Guard) (ta tb : Ty)
  /-- MCFG_A (R301). -/
  | mcfgA (g : Guard) (a b : R8)
  /-- MCFG_B (R301). -/
  | mcfgB (g : Guard) (a b : R8)
  /-- MCFG_AX (R301). -/
  | mcfgAx (g : Guard) (a b : R8)
  /-- MCFG_BX (R301). -/
  | mcfgBx (g : Guard) (a b : R8)
  /-- MCFG_K (R301). -/
  | mcfgK (g : Guard) (a : R8)
  /-- MLOOP (R303). -/
  | mloop (g : Guard) (acc : BitVec 4) (n : MCnt) (noinc : Bool)
  /-- MZERO (R306). -/
  | mzero (g : Guard) (t : MzTy) (acc : BitVec 4)
  /-- MMOVA (R307). -/
  | mmova (g : Guard) (la : BitVec 4) (f : MForm) (d : R8) (acc : BitVec 4) (r : BitVec 5)
  /-- MMOVV (R307). -/
  | mmovv (g : Guard) (f : MForm) (acc : BitVec 4) (a : R8) (r : BitVec 5)
  /-- MSTA (R308). -/
  | msta (g : Guard) (t : MsTy) (a b : R8) (acc : BitVec 4)
  /-- MCOOP (R309). -/
  | mcoop (g : Guard) (acc : BitVec 4) (a : R8) (ti : BitVec 2) (tj : BitVec 4) (id : BitVec 3) (noinc : Bool)
  /-- MFREE (R306). -/
  | mfree (g : Guard) (acc : BitVec 4)
  /-- CKICK (R313). -/
  | ckick (g : Guard) (dc : BitVec 3) (a : R8)
  /-- ENQ (R317). -/
  | enq (g : Guard) (a b : R8)
  /-- DEQ (R318). -/
  | deq (g : Guard) (la : BitVec 4) (d a : R8)
  /-- QTRY (R319). -/
  | qtry (g : Guard) (la : BitVec 4) (d a : R8) (q : BitVec 4)
  /-- TSPAWN (R320). -/
  | tspawn (g : Guard) (dc : BitVec 3) (a b : R8)
  /-- CONT (R323). -/
  | cont (g : Guard) (a b : R8) (n : BitVec 4) (r : BitVec 2)
  /-- BGEMV (R324). -/
  | bgemv (g : Guard) (dc : BitVec 3) (acc bf : Bool) (a b : R8)
  /-- BSTAT (R328). -/
  | bstat (g : Guard) (la : BitVec 4) (q : BQ) (d : R8)
  /-- RTRACE (R333). -/
  | rtrace (g : Guard) (dc : BitVec 3) (gen : Bool) (p : BitVec 3) (a b c : R8)
  /-- RTQUERY (R333). -/
  | rtquery (g : Guard) (la : BitVec 4) (gen : Bool) (d a b : R8)
  /-- MSVTX (R334). -/
  | msvtx (g : Guard) (n : BitVec 5) (a b c : R8)
  /-- MSPRIM (R334). -/
  | msprim (g : Guard) (a b c : R8)
  /-- MSEND (R334). -/
  | msend (g : Guard) (a b : R8)
  /-- FSOUT (R334). -/
  | fsout (g : Guard) (t : FsTy) (n : BitVec 2) (a : R8)
  /-- GZREAD (R335). -/
  | gzread (g : Guard) (la : BitVec 4) (d a : R8)
  /-- SREAD (R221). -/
  | sread (g : Guard) (la : BitVec 4) (vec : Bool) (d : R8) (sp : Special)
  /-- SWRITE (R221). -/
  | swrite (g : Guard) (vec : Bool) (a : R8) (sp : Special)
  /-- TRAP (R222). -/
  | trap (g : Guard) (code : BitVec 16)
  /-- ERET (R452). -/
  | eret (g : Guard)
  /-- HALT (R222). -/
  | halt (g : Guard) (code : BitVec 16)
  /-- CKPT (R507). -/
  | ckpt (g : Guard)
  /-- SCHEDULER_PICK (R57). -/
  | schedulerPick (vw : Nat)
  /-- TURN_LIMIT (R55). -/
  | turnLimit (vw : Nat)
  /-- CLAUSE_WAIT_TIMEOUT (R56). -/
  | clauseWaitTimeout (vw : Nat)
  /-- SLEEP_WAKE (R217). -/
  | sleepWake (vw : Nat)
  /-- LOAD_LANE_COMPLETE (R258). -/
  | loadLaneComplete (vw seq : Nat) (lanes : Mask)
  /-- STORE_ACK (R258). -/
  | storeAck (vw seq : Nat) (lanes : Mask)
  /-- ATOMIC_BATCH_PERFORM (R269). -/
  | atomicBatchPerform (vw seq lane : Nat)
  /-- FAULT_BATCH_CLOSE (R463). -/
  | faultBatchClose (die : Nat)
  /-- MLOOP_STEP (R303). -/
  | mloopStep (vw seq : Nat)
  /-- COPY_CHUNK_LAND (R314). -/
  | copyChunkLand (vw seq member bytes : Nat)
  /-- BGEMV_ROW_LAND (R326). -/
  | bgemvRowLand (vw seq : Nat)
  /-- RAY_TILLER_WRITE (R333). -/
  | rayTillerWrite (vw seq lane : Nat)
  /-- BIN_TIMEOUT (R355). -/
  | binTimeout (die bin : Nat)
  /-- TASK_PIECE_REQUEST (R353). -/
  | taskPieceRequest (task core : Nat)
  /-- PHASE_COMPLETE (R49). -/
  | phaseComplete (lid grp : Nat)
  /-- TEND_COMMIT (R170). -/
  | tendCommit (vw seq : Nat)
  /-- CHECKPOINT (R507). -/
  | checkpoint (lid : Nat)
  /-- ROLLBACK (R509). -/
  | rollback (lid : Nat)
  /-- SHEAF_PLACE (R357). -/
  | sheafPlace (sid core : Nat)
  /-- LAUNCH_ADMIT (R66). -/
  | launchAdmit (lid : Nat)
  /-- FREEZE (R409). -/
  | freeze (sid : Nat)
  /-- LATE_REPLY (R410). -/
  | lateReply (vw seq : Nat) (lanes : Mask)
  /-- SHEAF_SAVE (R412). -/
  | sheafSave (sid : Nat)
  /-- SHEAF_RESUME (R414). -/
  | sheafResume (sid core : Nat)
  /-- SHEAF_RETIRE (R39). -/
  | sheafRetire (sid : Nat)
  /-- REFILL (R362). -/
  | refill (lid : Nat)
  /-- POWER_SAMPLE (R24). -/
  | powerSample (die milliwatts : Nat)
  /-- BALANCE_STEP (R365). -/
  | balanceStep
  /-- DEADLOCK_DETECT (R477). -/
  | deadlockDetect (ctx : Nat)
  /-- COMMAND_IMMEDIATE (R338). -/
  | commandImmediate (q : Nat) (imm : Word32)
  /-- HOST_RDMA_WRITE (R339): the address, with the R_Key from bit 64 (log entry 42). -/
  | hostRdmaWrite (q : Nat) (addr : Nat) (data : List Byte)
  /-- HOST_RDMA_READ (R339): the address, with the R_Key from bit 64 (log entry 42). -/
  | hostRdmaRead (q : Nat) (addr len : Nat)
  /-- CMD_EVENT_DISPATCH (R347). -/
  | cmdEventDispatch (core : Nat)
  /-- LAUNCH_PACKET (R341). -/
  | launchPacket (q : Nat)
  /-- GRAPH_ARM (R350). -/
  | graphArm (q : Nat)
  /-- SIGNAL_PACKET (R343). -/
  | signalPacket (q : Nat)
  /-- WAIT_PACKET (R343). -/
  | waitPacket (q : Nat)
  /-- COPY_PACKET (R341). -/
  | copyPacket (q : Nat)
  /-- VIEW_STREAM_CONFIGURE (R370). -/
  | viewStreamConfigure (q : Nat)
  /-- KEY_LOAD (R433). -/
  | keyLoad (q : Nat)
  /-- KEY_CLEAR (R435). -/
  | keyClear (q : Nat)
  /-- KEY_BIND (R431). -/
  | keyBind (q : Nat)
  /-- KEY_ATTEST (R433). -/
  | keyAttest (q : Nat)
  /-- TEST_PACKAGE_APPLY (R521). -/
  | testPackageApply (q : Nat)
  /-- TEST_PACKAGE_REPORT (R520). -/
  | testPackageReport (q : Nat)
  /-- TEST_CORE (R521). -/
  | testCore (core : Nat)
  /-- MAPQ (R345). -/
  | mapq (q : Nat)
  /-- UNMAPQ (R345). -/
  | unmapq (q : Nat)
  /-- CTXSET (R346). -/
  | ctxset (q : Nat)
  /-- CTXDEL (R346). -/
  | ctxdel (q : Nat)
  /-- TLBINV (R346). -/
  | tlbinv (q : Nat)
  /-- RESUME (R467). -/
  | resume (q : Nat)
  /-- CANCEL (R346). -/
  | cancel (q : Nat)
  /-- BALANCE (R364). -/
  | balance (q : Nat)
  /-- GRAPH_NODE_COMPLETE (R350). -/
  | graphNodeComplete (ctx graph node : Nat)
  /-- GRAPH_COUNTER_ERROR (R491). -/
  | graphCounterError (ctx graph : Nat)
  /-- CMD_CORE_HANG (R488). -/
  | cmdCoreHang (core : Nat)
  /-- CMD_CORE_REBOOT_DONE (R488). -/
  | cmdCoreRebootDone (core : Nat)
  /-- FALLBACK_TURN (R489). -/
  | fallbackTurn
  /-- ENGINE_STALL (R492). -/
  | engineStall (engine : Nat)
  /-- UNCORRECTABLE_ERROR (R515). -/
  | uncorrectableError (arr addr : Nat)
  /-- PATROL_SCRUB (R515). -/
  | patrolScrub
  /-- FRAME_START (R372). -/
  | frameStart (stream : Nat)
  /-- GEOMETRY_START (R373). -/
  | geometryStart (stream : Nat)
  /-- STRIP_LATCH (R376). -/
  | stripLatch (stream strip : Nat)
  /-- STRIP_RASTER_START (R373). -/
  | stripRasterStart (stream strip : Nat)
  /-- STRIP_KEY_RESET (R390). -/
  | stripKeyReset (stream strip : Nat)
  /-- LENS_CORRECTION_START (R393). -/
  | lensCorrectionStart (stream strip : Nat)
  /-- CHECK_INSTANT (R397). -/
  | checkInstant (stream strip : Nat)
  /-- TILE_DEPART (R396). -/
  | tileDepart (stream strip view tile : Nat)
  /-- DRAW_WATCHDOG (R493). -/
  | drawWatchdog (stream : Nat)
  /-- GAZE_PACKET (R375). -/
  | gazePacket (port : Nat) (data : List Byte)
  /-- CE_MARK_RECEIVED (R426). -/
  | ceMarkReceived (q : Nat)
  /-- CNP_RECEIVED (R426). -/
  | cnpReceived (q : Nat)
  /-- RATE_RECOVERY (R426). -/
  | rateRecovery (q : Nat)
  /-- LINK_DOWN (R496). -/
  | linkDown (port : Nat)
  /-- LINK_UP (R496). -/
  | linkUp (port : Nat)
  /-- LINK_DOWN_TIMEOUT (R496). -/
  | linkDownTimeout (port : Nat)
  /-- PORT_DROP_REPORT (R499). -/
  | portDropReport (port : Nat)
  /-- PEER_LOST (R497). -/
  | peerLost (peer : Nat)
  /-- SYS_MESSAGE_RECEIVE (R432). -/
  | sysMessageReceive (peer : Nat) (data : List Byte)
  /-- SYS_PHASE_ARRIVAL (R360). -/
  | sysPhaseArrival (peer : Nat) (data : List Byte)
  /-- SYS_PHASE_COMPLETION (R360). -/
  | sysPhaseCompletion (peer : Nat) (data : List Byte)
  /-- PTP_SYNC (R436). -/
  | ptpSync (offset : Int)
  /-- PTP_LOCK_LOSS (R498). -/
  | ptpLockLoss
  /-- ANNOUNCE (R428). -/
  | announce
  /-- CONFIG (R430). -/
  | config (port : Nat) (data : List Byte)
  /-- FWCHUNK (R430). -/
  | fwchunk (port : Nat) (data : List Byte)
  /-- FWCOMMIT (R434). -/
  | fwcommit (port : Nat) (data : List Byte)
  /-- RESET_WARM (R439). -/
  | resetWarm (port : Nat) (data : List Byte)
  /-- RESET_COLD (R439). -/
  | resetCold (port : Nat) (data : List Byte)
  /-- POWER_GOOD (R438). -/
  | powerGood
  /-- PIPELINE_RESULT_WRITE (R213). -/
  | pipelineResultWrite (vw seq : Nat)
  /-- CKPT_WAIT_TIMEOUT (R507). -/
  | ckptWaitTimeout (vw : Nat)
  /-- POWER_LOSS (R438). -/
  | powerLoss
  /-- ICMPV6_ECHO (R425). -/
  | icmpv6Echo (port : Nat) (data : List Byte)
  /-- NEIGHBOUR_SOLICITATION (R425). -/
  | neighbourSolicitation (port : Nat) (data : List Byte)
  /-- DROPPED_FRAME (R425). -/
  | droppedFrame (port : Nat)
  /-- PFC_PAUSE (R425). -/
  | pfcPause (port prio : Nat) (pause : Bool)
  deriving DecidableEq, Repr

end Sys2Proof
end

