-- ==== Sys2Proof/Machine/Uses.lean ====
section
/-! DEFINITION. The register fields of every instruction word: class, number, group size, whether read or written
(R189, R211), as the instruction entries of spec/07 to spec/09 give them. -/

namespace Sys2Proof

/-- Register classes of Table 6.6. -/
inductive RegCls
  | v | s | p | a
  deriving DecidableEq, Repr

/-- One register field: `k` registers from `n`; `al` when the group must be aligned to `k` (R211). -/
structure RegUse where
  cls : RegCls
  n : Nat
  k : Nat
  rd : Bool
  wr : Bool
  al : Bool
  deriving DecidableEq, Repr

namespace RegUse

/-- A vector group read. -/
def vr (n : R8) (k : Nat := 1) : RegUse := ⟨.v, n.toNat, k, true, false, true⟩
/-- A vector group written. -/
def vw (n : R8) (k : Nat := 1) : RegUse := ⟨.v, n.toNat, k, false, true, true⟩
/-- A vector group read and written. -/
def vrw (n : R8) (k : Nat := 1) : RegUse := ⟨.v, n.toNat, k, true, true, true⟩
/-- Consecutive vector registers read, with no alignment. -/
def vrun (n : R8) (k : Nat) : RegUse := ⟨.v, n.toNat, k, true, false, false⟩
/-- A scalar read. -/
def sr (n : R8) (k : Nat := 1) : RegUse := ⟨.s, n.toNat, k, true, false, true⟩
/-- A scalar written. -/
def sw (n : R8) : RegUse := ⟨.s, n.toNat, 1, false, true, true⟩
/-- A scalar read and written. -/
def srw (n : R8) : RegUse := ⟨.s, n.toNat, 1, true, true, true⟩
/-- A predicate read. -/
def pr (n : R8) : RegUse := ⟨.p, n.toNat, 1, true, false, true⟩
/-- A predicate written. -/
def pw (n : R8) : RegUse := ⟨.p, n.toNat, 1, false, true, true⟩
/-- A predicate named by a four-bit field, read. -/
def pr4 (n : BitVec 4) : RegUse := ⟨.p, n.toNat, 1, true, false, true⟩
/-- A predicate named by a four-bit field, written. -/
def pw4 (n : BitVec 4) : RegUse := ⟨.p, n.toNat, 1, false, true, true⟩
/-- An accumulator named. -/
def ac (n : BitVec 4) (rd wr : Bool) : RegUse := ⟨.a, n.toNat, 1, rd, wr, true⟩

/-- First number outside the class (Table 6.6). -/
def limit : RegCls → Nat
  | .v => 256
  | .s => 128
  | .p => 16
  | .a => 16

/-- The field names a register of its class and meets the group's alignment (R189, R211); otherwise fault 0x02. -/
def ok (u : RegUse) : Bool :=
  decide (u.n < limit u.cls) && (!u.al || u.k == 0 || u.n % u.k == 0)

end RegUse

open RegUse

/-- Registers of a scalar second operand. -/
def SB.uses : SB → List RegUse
  | .reg b => [sr b]
  | .imm _ => []

/-- Registers of a memory operand (R188). -/
def MAddr.uses : MAddr → List RegUse
  | .so a _ => [sr a]
  | .vo a _ => [vr a 2]
  | .sv a v => [sr a, vr v]

/-- Registers of an atomic's memory operand (R188). -/
def AAddr.uses : AAddr → List RegUse
  | .s a => [sr a]
  | .v a => [vr a 2]
  | .sv a o => [sr a, vr o]

/-- Group size of a floating-point operand (R234). -/
def FTy.regs : FTy → Nat
  | .f64 => 2
  | _ => 1

/-- Group size of a binary32 or binary64 operand. -/
def dblRegs (dbl : Bool) : Nat := if dbl then 2 else 1

/-- Whether the destination, then the source, of a VCVT is binary64. -/
def Cvt.dblD : Cvt → Bool
  | .f64i32 | .f64u32 | .f64f32 => true
  | _ => false
def Cvt.dblS : Cvt → Bool
  | .i32f64 | .u32f64 | .f32f64 => true
  | _ => false

/-- Elements of a packed format (Table 7.8). -/
def PackFmt.n : PackFmt → Nat
  | .h2 | .bf2 | .i16 => 2
  | .e4 | .e5 | .i8 => 4

/-- Registers of codes of a plane format (R245). -/
def PlFmt.q : PlFmt → Nat
  | .x6 => 4
  | .x4 | .i4 => 8

/-- Sources of a compact operation (Table 6.9). -/
def COp.two : COp → Bool
  | .vnot | .vabs | .vneg | .vmov | .vclz | .vpopc | .vbrev | .vfrcp | .vfrsq | .vfexp2 | .vflog2 | .vfsinp | .vfcosp
  | .vffrac | .vfrnd => false
  | _ => true

/-- Registers of a compact half. -/
def Compact.uses : Compact → List RegUse
  | .nop => []
  | .op o _ d a b => if o.two then [vw d, vr a, vr b] else [vw d, vr a]

/-- Data registers of a load or store (Table 8.2, Table 8.3). -/
def LdW.regs : LdW → Nat
  | .full .b64 | .full .f64 => 2
  | .quad _ => 4
  | _ => 1

/-- Group size of atomic data. -/
def wideRegs (wide : Bool) : Nat := if wide then 2 else 1

/-- Vector registers of an accumulator move (Table 9.4). -/
def MForm.regs : MForm → Nat
  | .one => 1
  | .oct => 8
  | .f64 => 2

/-- Whether a special register is 64 bits wide (Table 6.10). -/
def Special.wide : Special → Bool
  | .idWg | .timebase | .clock | .fmode | .fflags | .tcause | .taddr | .tvec | .mprog | .rangeLo | .rangeHi
  | .lanemap | .gazeTime | .vpc => true
  | _ => false

/-- Whether a special register is per lane (Table 6.10). -/
def Special.perLane : Special → Bool
  | .idLane | .vpc => true
  | _ => false

/-- Whether a special register may be written (Table 6.10). -/
def Special.rw : Special → Bool
  | .fmode | .fflags | .tvec => true
  | _ => false

/-- The register group of a special register access. -/
def spRegs (vec : Bool) (sp : Special) : Nat := if vec && sp.wide then 2 else 1

/-- Predicate of the guard, read. -/
def Guard.use (g : Guard) : RegUse := pr4 g.p

/-- Register fields of an instruction word, the guard first. Events have none. -/
def Instr.uses : Instr → List RegUse
  | .nop g | .exit g | .wait g _ | .yield g | .brk g _ | .bra g _ => [g.use]
  | .brx g a | .ret g a => [g.use, vr a 2]
  | .call g d _ => [g.use, vw d 2]
  | .sleep g a => [g.use, sr a]
  | .ipref g _ a b | .ipin g _ a b | .iunpin g _ a b => [g.use, sr a, sr b]
  | .sadd g d a b | .ssub g d a b | .smul g d a b | .sand g d a b | .sor g d a b | .sxor g d a b | .sshl g d a b
  | .sshr g d a b | .ssra g d a b => [g.use, sw d, sr a] ++ b.uses
  | .smulh g _ d a b => [g.use, sw d, sr a, sr b]
  | .smov g d a | .sclz g d a | .spopc g d a => [g.use, sw d, sr a]
  | .smovi g d _ => [g.use, sw d]
  | .smoviMid g d _ | .smoviHi g d _ => [g.use, srw d]
  | .scmp g _ d a b => [g.use, pw d, sr a, sr b]
  | .ssel g d a b c => [g.use, sw d, sr a, sr b, sr c]
  | .vadd g _ _ d a b | .vsub g _ _ d a b | .vadds g _ _ d a b | .vsubs g _ _ d a b | .vmul g _ _ d a b
  | .vmin g _ _ d a b | .vmax g _ _ d a b => [g.use, vw d, vr a, vr b]
  | .vaddc g _ d a b ci co | .vsubb g _ d a b ci co => [g.use, vw d, vr a, vr b, pr ci, pw4 co]
  | .vmulh g _ d a b => [g.use, vw d, vr a, vr b]
  | .vmad g _ d a b c => [g.use, vw d, vr a, vr b, vr c]
  | .vabs g _ d a | .vneg g _ d a => [g.use, vw d, vr a]
  | .vand g d a b | .vor g d a b | .vxor g d a b | .vshl g d a b | .vshr g d a b | .vsra g d a b | .vrot g d a b =>
    [g.use, vw d, vr a, vr b]
  | .vnot g d a | .vclz g d a | .vpopc g d a | .vbrev g d a => [g.use, vw d, vr a]
  | .vfunl g d a b c | .vdot4 g d a b c | .vbfi g d a b c => [g.use, vw d, vr a, vr b, vr c]
  | .vcmp g _ _ d a b => [g.use, pw d, vr a, vr b]
  | .vsel g d a b c => [g.use, vw d, vr a, vr b, pr c]
  | .vmov g wide d a => [g.use, vw d (wideRegs wide), vr a (wideRegs wide)]
  | .vmovi g _ d _ | .vmoviHi g _ d _ => [g.use, vw d]
  | .vmoviLo g _ d _ => [g.use, vrw d]
  | .vbfe g _ d a b => [g.use, vw d, vr a, vr b]
  | .vbitil g w3 d a b c => [g.use, vw d, vr a, vr b] ++ (if w3 then [vr c] else [])
  | .vbitdl g _ d a _ => [g.use, vw d, vr a]
  | .vfadd g t d a b | .vfsub g t d a b | .vfmul g t d a b | .vfmin g t d a b | .vfmax g t d a b =>
    [g.use, vw d t.regs, vr a t.regs, vr b t.regs]
  | .vfma g t d a b c => [g.use, vw d t.regs, vr a t.regs, vr b t.regs, vr c t.regs]
  | .vfcmp g _ dbl d a b => [g.use, pw d, vr a (dblRegs dbl), vr b (dblRegs dbl)]
  | .vfclass g dbl d a => [g.use, vw d, vr a (dblRegs dbl)]
  | .vfrnd g dbl _ _ d a | .vffrac g dbl d a => [g.use, vw d (dblRegs dbl), vr a (dblRegs dbl)]
  | .vfscale g dbl d a b => [g.use, vw d (dblRegs dbl), vr a (dblRegs dbl), vr b]
  | .vfdivs g _ dbl d a b => [g.use, vw d (dblRegs dbl), vr a (dblRegs dbl), vr b (dblRegs dbl)]
  | .vfsqrts g _ dbl d a => [g.use, vw d (dblRegs dbl), vr a (dblRegs dbl)]
  | .vfrcp g _ d a | .vfrsq g _ d a | .vfexp2 g _ d a | .vflog2 g _ d a | .vfsinp g _ d a | .vfcosp g _ d a =>
    [g.use, vw d, vr a]
  | .vsmupd g _ d a b => [g.use, vrw d 2, vr a 4, vr b]
  | .vsmfin g _ d a => [g.use, vw d 2, vr a 2]
  | .vcvt g cv _ d a => [g.use, vw d (dblRegs cv.dblD), vr a (dblRegs cv.dblS)]
  | .vpack g f _ d a => [g.use, vw d, vr a f.n]
  | .vunpack g f d a => [g.use, vw d f.n, vr a]
  | .vbxq g _ _ d e a => [g.use, vrw d, vr a, vrw e]
  | .vbxd g _ _ d a e => [g.use, vw d, vr a, vr e]
  | .vplane g f d a => [g.use, vw d, vr a f.q]
  | .vunplane g f d a => [g.use, vw d f.q, vr a]
  | .vtag g d a _ => [g.use, vw d, vr a]
  | .vballot g d a _ q => [g.use, pw d, vr a, pw4 q]
  | .vvote g _ d pm ps q => [g.use, pw d, pr pm, pr ps, pw4 q]
  | .vshfl g _ d a b q => [g.use, vw d, vr a, vr b, pw4 q]
  | .vshflp g d a b pc => [g.use, vrw d, vr a, vr b, pw4 pc]
  | .vbcast g d (.lane a _) => [g.use, vw d, vr a]
  | .vbcast g d (.scal a) => [g.use, vw d, sr a]
  | .vreduce g _ d a pm q | .vscan g _ _ d a pm q | .vmatch g d a pm q => [g.use, vw d, vr a, pr4 pm, pw4 q]
  | .pand g d a b | .por g d a b | .pxor g d a b => [g.use, pw d, pr a, pr b]
  | .pnot g d a | .pmov g d a => [g.use, pw d, pr a]
  | .pmovTov g d a => [g.use, vw d, pr a]
  | .pmovFrv g d a => [g.use, pw d, vr a]
  | .pmovTos g d a | .pcount g d a | .pfirst g d a => [g.use, sw d, pr a]
  | .pset g d a => [g.use, pw d, sr a]
  | .psetRng g d _ _ | .psetAnd g d _ _ => [g.use, pw d]
  | .pairedWord hi lo => hi.uses ++ lo.uses
  | .ld g _ w _ _ m d | .lds g _ w _ _ m d => [g.use, vw d w.regs] ++ m.uses
  | .st g w _ _ m d | .sts g w _ _ m d => [g.use, vr d w.regs] ++ m.uses
  | .ldc g _ _ _ _ a _ d => [g.use, sw d, sr a]
  | .ldp g _ _ _ m d | .ldt g _ _ m d => [g.use, vw d] ++ m.uses
  | .pref g _ m | .cwb g m | .cinv g m => [g.use] ++ m.uses
  | .atom g _ _ wide _ _ m d b => [g.use, vw d (wideRegs wide), vr b (wideRegs wide)] ++ m.uses
  | .acas g _ wide _ _ m d b => [g.use, vrw d (wideRegs wide), vr b (wideRegs wide)] ++ m.uses
  | .red g _ wide _ _ m b => [g.use, vr b (wideRegs wide)] ++ m.uses
  | .vbmin g _ _ m b => [g.use, vr b 2] ++ m.uses
  | .fence g _ _ | .bfence g | .tend g | .tabort g _ | .bar g _ => [g.use]
  | .tbegin g d => [g.use, pw d]
  | .ttest g d => [g.use, vw d]
  | .osenter g _ a b | .osreset g _ a b => [g.use, vr a 2, vr b]
  | .osleave g _ a => [g.use, vr a 2]
  | .osquery g _ _ d a => [g.use, vw d 2, vr a 2]
  | .phase g _ op a => [g.use] ++ (if op = .none then [] else [sr a])
  | .grpq g _ _ d _ => [g.use, sw d]
  | .mbinit g a _ d | .mbexp g a _ d => [g.use, sr a, sr d]
  | .mbarr g _ a _ => [g.use, sr a]
  | .mbwait g _ d a _ => [g.use, sr a, sr d]
  | .mbwaitCur g _ d a _ => [g.use, sr a, sw d]
  | .mbtest g _ d a _ => [g.use, sr a, srw d]
  | .mbtestSnap g d a _ => [g.use, sr a, sw d]
  | .mcfgTy g _ _ => [g.use]
  | .mcfgA g a b | .mcfgB g a b | .mcfgAx g a b | .mcfgBx g a b => [g.use, sr a, sr b]
  | .mcfgK g a => [g.use, sr a]
  | .mloop g acc (.imm _) _ => [g.use, ac acc true true]
  | .mloop g acc (.reg a) _ => [g.use, ac acc true true, sr a]
  | .mzero g _ acc | .mfree g acc => [g.use, ac acc false true]
  | .mmova g _ f d acc _ => [g.use, vw d f.regs, ac acc true false]
  | .mmovv g f acc a _ => [g.use, vr a f.regs, ac acc true true]
  | .msta g _ a b acc => [g.use, sr a, sr b, ac acc true false]
  | .mcoop g acc a _ _ _ _ => [g.use, ac acc true true, sr a]
  | .ckick g _ a => [g.use, sr a 4]
  | .enq g a b => [g.use, sr a, vr b 4]
  | .deq g _ d a => [g.use, vw d 4, sr a]
  | .qtry g _ d a q => [g.use, vw d 4, sr a, pw4 q]
  | .tspawn g _ a b => [g.use, sr a 4, sr b 4]
  | .cont g a b n _ => [g.use, vr a 2, vrun b n.toNat]
  | .bgemv g _ _ _ a b => [g.use, sr a 4, sr b]
  | .bstat g _ _ d => [g.use, sw d]
  | .rtrace g _ gen p a b c => [g.use, vr a (if gen then 4 else 8), sr b 4, vrun c p.toNat]
  | .rtquery g _ gen d a b => [g.use, vw d 8, vr a (if gen then 4 else 8), sr b]
  | .msvtx g n a b c => [g.use, vr a, vr b 4, vrun c n.toNat]
  | .msprim g a b c => [g.use, vr a, vr b, vr c 2]
  | .msend g a b => [g.use, sr a, sr b]
  | .fsout g _ n a => [g.use, vrun a (n.toNat + 1)]
  | .gzread g _ d a => [g.use, vw d 8, sr a]
  | .sread g _ vec d sp => [g.use, if vec then vw d (spRegs vec sp) else sw d]
  | .swrite g vec a sp => [g.use, if vec then vr a (spRegs vec sp) else sr a]
  | .trap g _ | .eret g | .halt g _ | .ckpt g => [g.use]
  | _ => []

/-- Every register field of the word names a register of its class, aligned as its group asks. -/
def Instr.regsOk (i : Instr) : Bool := i.uses.all RegUse.ok

/-- Registers of one field, p0 left out: it holds no pending value (R189). -/
def RegUse.list (u : RegUse) : List (RegCls × Nat) :=
  ((List.range u.k).map fun i => (u.cls, u.n + i)).filter (· != (.p, 0))

/-- Registers that the register and guard fields name (R195). -/
def Instr.names (i : Instr) : List (RegCls × Nat) := i.uses.flatMap RegUse.list

/-- Registers that the word reads, its guard among them (R55). -/
def Instr.reads (i : Instr) : List (RegCls × Nat) := (i.uses.filter (·.rd)).flatMap RegUse.list

/-- Compact halves of class T, which open a window of their own (R195). -/
def Compact.pending : Compact → List (RegCls × Nat)
  | .op .vfrcp _ d _ _ | .op .vfrsq _ d _ _ | .op .vfexp2 _ d _ _ | .op .vflog2 _ d _ _ | .op .vfsinp _ d _ _
  | .op .vfcosp _ d _ _ => [(.v, d.toNat)]
  | _ => []

/-- The pending destination of a long-latency instruction: every register it writes (R195). -/
def Instr.pending (i : Instr) : List (RegCls × Nat) :=
  match i with
  | .pairedWord hi lo => hi.pending ++ lo.pending
  | i => (i.uses.filter (·.wr)).flatMap RegUse.list

/-- `LA` of a long-latency instruction (R194); none for any other. -/
def Instr.la : Instr → Option Nat
  | .ld _ la _ _ _ _ _ | .lds _ la _ _ _ _ _ | .ldc _ la _ _ _ _ _ _ | .ldp _ la _ _ _ _ | .ldt _ la _ _ _
  | .atom _ la _ _ _ _ _ _ _ | .acas _ la _ _ _ _ _ _ | .vfrcp _ la _ _ | .vfrsq _ la _ _ | .vfexp2 _ la _ _
  | .vflog2 _ la _ _ | .vfsinp _ la _ _ | .vfcosp _ la _ _ | .vfdivs _ la _ _ _ _ | .vfsqrts _ la _ _ _
  | .vsmupd _ la _ _ _ | .vsmfin _ la _ _ | .deq _ la _ _ | .qtry _ la _ _ _ | .osquery _ la _ _ _ | .grpq _ la _ _ _
  | .bstat _ la _ _ | .rtquery _ la _ _ _ _ | .gzread _ la _ _ | .mmova _ la _ _ _ _ | .sread _ la _ _ _ => some la.toNat
  | .pairedWord hi lo => if hi.pending.isEmpty && lo.pending.isEmpty then none else some 0
  | _ => none

end Sys2Proof
end

