-- ==== Sys2Proof/Machine/Limits.lean ====
section
/-! DEFINITION. The operand limits of the instruction entries that the types of `Instr` leave out (R189 to R193, R200, R201). -/

namespace Sys2Proof

/-- Types admitted by a compact operation (Table 6.9). -/
def COp.admits (o : COp) (t : CTy) : Bool :=
  match o with
  | .vadd | .vsub | .vadds | .vsubs | .vmul | .vmulh | .vmin | .vmax => t == .i32 || t == .u32
  | .vabs | .vneg => t == .i32
  | .vand | .vor | .vxor | .vnot | .vshl | .vshr | .vsra | .vrot | .vmov | .vclz | .vpopc | .vbrev | .vshfl => t == .b32
  | .vfadd | .vfsub | .vfmul | .vfmin | .vfmax | .vfrcp | .vfrsq | .vfexp2 | .vflog2 | .vfsinp | .vfcosp | .vffrac
  | .vfrnd => t == .f32

/-- Class T, the transcendental operations (R192). -/
def COp.isT : COp → Bool
  | .vfrcp | .vfrsq | .vfexp2 | .vflog2 | .vfsinp | .vfcosp => true
  | _ => false

/-- Type and unused field of one half (R191). -/
def Compact.typeOk : Compact → Bool
  | .nop => true
  | .op o t _ _ _ => o.admits t
def Compact.fieldOk : Compact → Bool
  | .nop => true
  | .op o _ _ _ b => o.two || b == 0

/-- Sources of a half. -/
def Compact.srcs : Compact → List R8
  | .nop => []
  | .op o _ _ a b => if o.two then [a, b] else [a]

/-- Destination of a half. -/
def Compact.dst : Compact → Option R8
  | .nop => none
  | .op _ _ d _ _ => some d

def Compact.classT : Compact → Bool
  | .nop => false
  | .op o _ _ _ _ => o.isT
def Compact.classL : Compact → Bool
  | .nop => false
  | .op o _ _ _ _ => o == .vshfl

/-- Joint issue of a paired word (R193). -/
def jointOk (hi lo : Compact) : Bool :=
  let s := (hi.srcs ++ lo.srcs).eraseDups
  decide (s.length ≤ 3) && decide ((s.map fun r => r.toNat % 4).Nodup)
    && (hi.dst.isNone || hi.dst != lo.dst)
    && !(hi.classT && lo.classT) && !(hi.classL && lo.classL)

/-- Types of `.q` accesses (Table 8.2). -/
def Ty.quadOk : Ty → Bool
  | .i32 | .u32 | .b32 | .f32 | .h2 | .bf2 | .e4 | .e5 | .i8 => true
  | _ => false

/-- Orders and scopes of loads and stores (Table 8.1). -/
def ldOk (w : LdW) (o : Ord) (sc : Scope) : Bool :=
  match w with
  | .full _ => (o == .none && sc == .dv) || o == .acq || o == .ar || o == .sc
  | .w8 _ | .w16 _ => o == .none && sc == .dv
  | .quad t => t.quadOk && o == .none && sc == .dv
def stOk (w : LdW) (o : Ord) (sc : Scope) : Bool :=
  match w with
  | .full _ => (o == .none && sc == .dv) || o == .rel
  | .w8 _ | .w16 _ => o == .none && sc == .dv
  | .quad t => t.quadOk && o == .none && sc == .dv

/-- Operand type pairs of a matrix step (Table 9.1). -/
def mxPair (ta tb : Ty) : Bool :=
  match ta with
  | .f64 | .f32 | .h2 | .bf2 | .i8 | .x8 | .x6 | .x4 => ta == tb
  | .e4 | .e5 => tb == .e4 || tb == .e5
  | _ => false

/-- Row number of an accumulator move (Table 9.4). -/
def MForm.rowOk (f : MForm) (r : BitVec 5) : Bool :=
  match f with
  | .one => true
  | .oct => r.toNat % 8 == 0
  | .f64 => r.toNat % 2 == 0

/-- Immediate shift amounts (R223). -/
def SB.shiftOk : SB → Bool
  | .reg _ => true
  | .imm v => decide (v.toNat < 64)

/-- Block index of VBXQ and VBXD (R243). -/
def BxFmt.blkOk (f : BxFmt) (b : BitVec 3) : Bool := f == .x4 || decide (b.toNat < 4)

/-- Limits on the operands of an instruction that its entry states as undefined combinations, fault 0x01. -/
def Instr.modOk : Instr → Bool
  | .vbitdl _ w3 _ _ s => decide (s.toNat < if w3 then 3 else 2)
  | .vbxq _ f b _ _ _ | .vbxd _ f b _ _ _ => f.blkOk b
  | .pairedWord hi lo => hi.typeOk && lo.typeOk && jointOk hi lo
  | .ld _ _ w o sc _ _ | .lds _ _ w o sc _ _ => ldOk w o sc
  | .st _ w o sc _ _ | .sts _ w o sc _ _ => stOk w o sc
  | .ldc _ _ _ acq sc _ _ _ => acq || sc == .dv
  | .ldt _ _ tag _ _ => tag != 15
  | .atom _ _ op wide _ _ _ d _ => d != 0 && !(op == .fadd && wide)
  | .acas _ _ _ _ _ _ d _ => d != 0
  | .red _ op wide _ _ _ _ => !(op == .fadd && wide)
  | .fence _ o _ => o != .none
  | .mcfgTy _ ta tb => mxPair ta tb
  | .rtrace _ _ _ p _ _ _ => p != 7
  | .msvtx _ n _ _ _ => decide (n.toNat ≤ 16)
  | .sread _ _ vec _ sp => vec || !sp.perLane
  | .swrite _ _ _ sp => sp.rw
  | _ => true

/-- Limits whose breach is a reserved-field fault, 0x02. -/
def Instr.resOk : Instr → Bool
  | .sshl _ _ _ b | .sshr _ _ _ b | .ssra _ _ _ b => b.shiftOk
  | .vbitil _ w3 _ _ _ c => w3 || c == 0
  | .psetRng _ _ lo hi => decide (lo.toNat ≤ hi.toNat)
  | .pairedWord hi lo => hi.fieldOk && lo.fieldOk
  | .phase _ _ op a => op != .none || a == 0
  | .mmova _ _ f _ _ r | .mmovv _ f _ _ r => f.rowOk r
  | .ckick _ dc _ | .tspawn _ dc _ _ | .bgemv _ dc _ _ _ _ => dc != 7
  | .cont _ _ b n _ => decide (n.toNat ≤ 12) && (n != 0 || b == 0)
  | .rtrace _ dc _ p _ _ c => dc != 7 && (p != 0 || c == 0)
  | .msvtx _ n _ _ c => n != 0 || c == 0
  | _ => true

end Sys2Proof
end

