-- ==== Sys2Proof/WellFormed.lean ====
section
/-! DEFINITION. Well-formed instructions: the operand limits that the types of `Instr` leave out. A word decodes only
to a well-formed instruction, and every well-formed instruction word has an encoding. -/

namespace Sys2Proof

/-- Well formed: both kinds of limit, and every register field in its class. -/
def Instr.wf (i : Instr) : Bool := i.modOk && i.resOk && i.regsOk

/-- Whether the row is an instruction word, not an event of the machine. -/
def Instr.isWord (i : Instr) : Bool :=
  match i with
  | .pairedWord _ _ => true
  | i => !i.uses.isEmpty

end Sys2Proof
end

