-- ==== Sys2Proof/Decode.lean ====
section
/-! DEFINITION. Decoding and encoding of instruction words (spec/06_encoding.md), from the tables of spec/06 to spec/09.
A word that fails a check is rejected with its cause code, 0x01 or 0x02, in the order of R201 steps 1 to 4. -/

namespace Sys2Proof

/-- The fields of an instruction word (Table 6.3, Table 6.4). -/
structure Fields where
  major : BitVec 8
  la : BitVec 4
  p : BitVec 4
  neg : BitVec 1
  minor : BitVec 7
  d : R8
  a : R8
  b : R8
  c : R8
  ty : BitVec 4
  fl : BitVec 4
  deriving DecidableEq, Repr

namespace Fields

/-- The fields of a word. -/
def ofWord (w : Word64) : Fields :=
  { major := w.extractLsb' 56 8, la := w.extractLsb' 52 4, p := w.extractLsb' 48 4, neg := w.extractLsb' 47 1,
    minor := w.extractLsb' 40 7, d := w.extractLsb' 32 8, a := w.extractLsb' 24 8, b := w.extractLsb' 16 8,
    c := w.extractLsb' 8 8, ty := w.extractLsb' 4 4, fl := w.extractLsb' 0 4 }

/-- The word of some fields. -/
def toWord (f : Fields) : Word64 :=
  f.major ++ f.la ++ f.p ++ f.neg ++ f.minor ++ f.d ++ f.a ++ f.b ++ f.c ++ f.ty ++ f.fl

/-- Guard (R186). -/
def g (f : Fields) : Guard := ⟨f.p, f.neg == 1⟩
/-- 24-bit immediate of the VI format. -/
def imm24 (f : Fields) : BitVec 24 := f.b ++ f.c ++ f.ty ++ f.fl
/-- Low 16 bits of the immediate. -/
def imm16 (f : Fields) : BitVec 16 := f.c ++ f.ty ++ f.fl
/-- Branch displacement. -/
def disp (f : Fields) : BitVec 32 := f.a ++ f.b ++ f.c ++ f.ty ++ f.fl
/-- Memory offset, special number or 16-bit code. -/
def off16 (f : Fields) : BitVec 16 := f.b ++ f.c
/-- Low byte. -/
def low (f : Fields) : BitVec 8 := f.ty ++ f.fl
/-- Counter select and flags of an ASY word. -/
def dc (f : Fields) : BitVec 3 := f.low.extractLsb' 5 3
def aflg (f : Fields) : BitVec 5 := f.low.extractLsb' 0 5
/-- Subfields of C. -/
def cl (f : Fields) : BitVec 4 := f.c.extractLsb' 0 4
def ch (f : Fields) : BitVec 4 := f.c.extractLsb' 4 4
def c5 (f : Fields) : BitVec 5 := f.c.extractLsb' 0 5
def b5 (f : Fields) : BitVec 5 := f.b.extractLsb' 0 5
/-- Fields of a MEM word (Table 6.5). -/
def order (f : Fields) : BitVec 3 := f.minor.extractLsb' 4 3
def mode (f : Fields) : BitVec 2 := f.minor.extractLsb' 2 2
def var (f : Fields) : BitVec 2 := f.minor.extractLsb' 0 2
def scope (f : Fields) : BitVec 2 := f.fl.extractLsb' 2 2
/-- Fields of a VI word. -/
def viVar (f : Fields) : BitVec 3 := f.minor.extractLsb' 4 3
def viTy (f : Fields) : BitVec 4 := f.minor.extractLsb' 0 4

end Fields

/-! Codes of the enumerated fields. `of` finds the value that a code names, and none where the code is undefined. -/

def ITy.code : ITy → BitVec 4
  | .i32 => 0 | .u32 => 1
def ITy.of (x : BitVec 4) : Option ITy := [ITy.i32, .u32].find? (·.code == x)

/-- Packed select, flags [3:2] (R226). -/
def Pack.code : Pack → BitVec 4
  | .none => 0 | .p16 => 4 | .p8 => 8
def Pack.of (x : BitVec 4) : Option Pack := [Pack.none, .p16, .p8].find? (·.code == x &&& 12)

def SCond.code : SCond → BitVec 4
  | .eq => 0 | .ne => 1 | .lt => 2 | .le => 3 | .gt => 4 | .ge => 5 | .ltu => 6 | .leu => 7 | .gtu => 8 | .geu => 9
def SCond.of (x : BitVec 4) : Option SCond :=
  [SCond.eq, .ne, .lt, .le, .gt, .ge, .ltu, .leu, .gtu, .geu].find? (·.code == x)

def VCond.code : VCond → BitVec 4
  | .eq => 0 | .ne => 1 | .lt => 2 | .le => 3 | .gt => 4 | .ge => 5
def VCond.of (x : BitVec 4) : Option VCond := [VCond.eq, .ne, .lt, .le, .gt, .ge].find? (·.code == x)

def MovTy.code : MovTy → BitVec 4
  | .i32 => 0 | .u32 => 1 | .b32 => 2 | .f32 => 4
def MovTy.of (x : BitVec 4) : Option MovTy := [MovTy.i32, .u32, .b32, .f32].find? (·.code == x)

def FTy.code : FTy → BitVec 4
  | .f32 => 4 | .f64 => 5 | .h2 => 6 | .bf2 => 7
def FTy.of (x : BitVec 4) : Option FTy := [FTy.f32, .f64, .h2, .bf2].find? (·.code == x)

/-- Types `.f32` and `.f64` as a flag. -/
def dblCode (dbl : Bool) : BitVec 4 := if dbl then 5 else 4
def dblOf (x : BitVec 4) : Option Bool := [false, true].find? (dblCode · == x)

def FCond.code : FCond → BitVec 4
  | .eq => 0 | .ne => 1 | .lt => 2 | .le => 3 | .gt => 4 | .ge => 5 | .un => 6 | .or => 7
def FCond.of (x : BitVec 4) : Option FCond := [FCond.eq, .ne, .lt, .le, .gt, .ge, .un, .or].find? (·.code == x)

/-- Rounding select, flags [2:0] (R237). -/
def Rnd.code : Rnd → BitVec 4
  | .dyn => 0 | .rne => 1 | .rtz => 2 | .rdn => 3 | .rup => 4
def Rnd.of (x : BitVec 4) : Option Rnd := [Rnd.dyn, .rne, .rtz, .rdn, .rup].find? (·.code == x &&& 7)

/-- Destination and source type codes of VCVT, destination above (R241). -/
def Cvt.code : Cvt → BitVec 8
  | .f32i32 => 0x40 | .f32u32 => 0x41 | .f64i32 => 0x50 | .f64u32 => 0x51 | .i32f32 => 0x04 | .u32f32 => 0x14
  | .f64f32 => 0x54 | .i32f64 => 0x05 | .u32f64 => 0x15 | .f32f64 => 0x45
def Cvt.of (x : BitVec 8) : Option Cvt :=
  [Cvt.f32i32, .f32u32, .f64i32, .f64u32, .i32f32, .u32f32, .f64f32, .i32f64, .u32f64, .f32f64].find? (·.code == x)

/-- Packed type, wide type and flags [3] of VPACK and VUNPACK (Table 7.8). -/
def PackFmt.code : PackFmt → BitVec 12
  | .h2 => 0x640 | .bf2 => 0x740 | .e4 => 0x840 | .e5 => 0x940 | .i8 => 0xD00 | .i16 => 0x008
def PackFmt.of (pt wt fl : BitVec 4) : Option PackFmt :=
  [PackFmt.h2, .bf2, .e4, .e5, .i8, .i16].find? (·.code == pt ++ wt ++ (fl &&& 8))

def BxFmt.code : BxFmt → BitVec 4
  | .x8 => 10 | .x6 => 11 | .x4 => 12
def BxFmt.of (x : BitVec 4) : Option BxFmt := [BxFmt.x8, .x6, .x4].find? (·.code == x)

def PlFmt.code : PlFmt → BitVec 4
  | .x6 => 11 | .x4 => 12 | .i4 => 14
def PlFmt.of (x : BitVec 4) : Option PlFmt := [PlFmt.x6, .x4, .i4].find? (·.code == x)

def VoteMd.code : VoteMd → BitVec 4
  | .all => 0 | .any => 1 | .eq => 2
def VoteMd.of (x : BitVec 4) : Option VoteMd := [VoteMd.all, .any, .eq].find? (·.code == x &&& 3)

def ShflMd.code : ShflMd → BitVec 4
  | .idx => 0 | .xor => 1 | .up => 2 | .dn => 3
def ShflMd.of (x : BitVec 4) : Option ShflMd := [ShflMd.idx, .xor, .up, .dn].find? (·.code == x &&& 3)

/-- Type and operation of VREDUCE and VSCAN, the type above (Table 7.11). -/
def RedOp.code : RedOp → BitVec 8
  | .addI => 0x00 | .addU => 0x10 | .addF => 0x40 | .minI => 0x01 | .minU => 0x11 | .minF => 0x41
  | .maxI => 0x02 | .maxU => 0x12 | .maxF => 0x42 | .and => 0x23 | .or => 0x24 | .xor => 0x25
def RedOp.of (ty fl : BitVec 4) : Option RedOp :=
  [RedOp.addI, .addU, .addF, .minI, .minU, .minF, .maxI, .maxU, .maxF, .and, .or, .xor].find?
    (·.code == ty ++ (fl &&& 7))

/-- Compact opcodes (Table 6.9). -/
def COp.code : COp → BitVec 6
  | .vadd => 0x00 | .vsub => 0x01 | .vadds => 0x02 | .vsubs => 0x03 | .vmul => 0x04 | .vmulh => 0x05 | .vmin => 0x06
  | .vmax => 0x07 | .vand => 0x08 | .vor => 0x09 | .vxor => 0x0A | .vnot => 0x0B | .vshl => 0x0C | .vshr => 0x0D
  | .vsra => 0x0E | .vrot => 0x0F | .vabs => 0x10 | .vneg => 0x11 | .vmov => 0x12 | .vclz => 0x13 | .vpopc => 0x14
  | .vbrev => 0x15 | .vfadd => 0x20 | .vfsub => 0x21 | .vfmul => 0x22 | .vfmin => 0x23 | .vfmax => 0x24
  | .vfrcp => 0x25 | .vfrsq => 0x26 | .vfexp2 => 0x27 | .vflog2 => 0x28 | .vfsinp => 0x29 | .vfcosp => 0x2A
  | .vffrac => 0x2B | .vfrnd => 0x2C | .vshfl => 0x30
def COp.of (x : BitVec 6) : Option COp :=
  [COp.vadd, .vsub, .vadds, .vsubs, .vmul, .vmulh, .vmin, .vmax, .vand, .vor, .vxor, .vnot, .vshl, .vshr, .vsra, .vrot,
   .vabs, .vneg, .vmov, .vclz, .vpopc, .vbrev, .vfadd, .vfsub, .vfmul, .vfmin, .vfmax, .vfrcp, .vfrsq, .vfexp2,
   .vflog2, .vfsinp, .vfcosp, .vffrac, .vfrnd, .vshfl].find? (·.code == x)

/-- Types of a half (R191). -/
def CTy.code : CTy → BitVec 2
  | .i32 => 0 | .u32 => 1 | .b32 => 2 | .f32 => 3
def CTy.of (x : BitVec 2) : CTy := if x = 0 then .i32 else if x = 1 then .u32 else if x = 2 then .b32 else .f32

/-- Type codes (Table 6.7). -/
def Ty.code : Ty → BitVec 4
  | .i32 => 0 | .u32 => 1 | .b32 => 2 | .b64 => 3 | .f32 => 4 | .f64 => 5 | .h2 => 6 | .bf2 => 7 | .e4 => 8 | .e5 => 9
  | .x8 => 10 | .x6 => 11 | .x4 => 12 | .i8 => 13 | .i4 => 14 | .b1 => 15
def Ty.of (x : BitVec 4) : Option Ty :=
  [Ty.i32, .u32, .b32, .b64, .f32, .f64, .h2, .bf2, .e4, .e5, .x8, .x6, .x4, .i8, .i4, .b1].find? (·.code == x)

def BTy.code : BTy → BitVec 4
  | .i32 => 0 | .u32 => 1 | .b32 => 2
def BTy.of (x : BitVec 4) : Option BTy := [BTy.i32, .u32, .b32].find? (·.code == x)

/-- Variant and type of LD, ST, LDS and STS (Table 8.2). -/
def LdW.var : LdW → BitVec 2
  | .full _ => 0 | .w8 _ => 1 | .w16 _ => 2 | .quad _ => 3
def LdW.ty : LdW → BitVec 4
  | .full t => t.code | .w8 t => t.code | .w16 t => t.code | .quad t => t.code
def LdW.of (v : BitVec 2) (t : BitVec 4) : Option LdW :=
  if v = 0 then (Ty.of t).map .full else if v = 1 then (BTy.of t).map .w8
  else if v = 2 then (BTy.of t).map .w16 else (Ty.of t).map .quad

def Ord.code : Ord → BitVec 3
  | .none => 0 | .acq => 1 | .rel => 2 | .ar => 3 | .sc => 4
def Ord.of (x : BitVec 3) : Option Ord := [Ord.none, .acq, .rel, .ar, .sc].find? (·.code == x)

def Scope.code : Scope → BitVec 2
  | .dv => 0 | .wg => 1 | .cl => 2 | .sy => 3
def Scope.of (x : BitVec 2) : Scope := if x = 0 then .dv else if x = 1 then .wg else if x = 2 then .cl else .sy

/-- Atomic operations (Table 6.8). -/
def AOp.code : AOp → BitVec 4
  | .add => 0 | .sub => 1 | .smin => 2 | .smax => 3 | .umin => 4 | .umax => 5 | .and => 6 | .or => 7 | .xor => 8
  | .exch => 9 | .incw => 10 | .decw => 11 | .fadd => 12
def AOp.of (x : BitVec 4) : Option AOp :=
  [AOp.add, .sub, .smin, .smax, .umin, .umax, .and, .or, .xor, .exch, .incw, .decw, .fadd].find? (·.code == x)

def POp.code : POp → BitVec 4
  | .none => 0 | .add => 1 | .umin => 2 | .umax => 3 | .or => 4 | .and => 5 | .xor => 6
def POp.of (x : BitVec 4) : Option POp :=
  [POp.none, .add, .umin, .umax, .or, .and, .xor].find? (·.code == x &&& 7)

def GQ.code : GQ → BitVec 4
  | .phase => 0 | .size => 1 | .rank => 2 | .val => 3
def GQ.of (x : BitVec 4) : Option GQ := [GQ.phase, .size, .rank, .val].find? (·.code == x &&& 3)

def MzTy.code : MzTy → BitVec 4
  | .f32 => 4 | .f64 => 5 | .i32 => 0
def MzTy.of (x : BitVec 4) : Option MzTy := [MzTy.f32, .f64, .i32].find? (·.code == x)

def MForm.code : MForm → BitVec 4
  | .one => 0 | .oct => 1 | .f64 => 2
def MForm.of (x : BitVec 4) : Option MForm := [MForm.one, .oct, .f64].find? (·.code == x &&& 3)

def MsTy.code : MsTy → BitVec 4
  | .i32 => 0 | .f32 => 4 | .f64 => 5 | .h2 => 6 | .bf2 => 7 | .e4 => 8 | .e5 => 9
def MsTy.of (x : BitVec 4) : Option MsTy := [MsTy.i32, .f32, .f64, .h2, .bf2, .e4, .e5].find? (·.code == x)

def BQ.code : BQ → BitVec 5
  | .busy => 0 | .rows => 1 | .rayinv => 2 | .rays => 3
def BQ.of (x : BitVec 5) : Option BQ := [BQ.busy, .rows, .rayinv, .rays].find? (·.code == x &&& 3)

def FsTy.code : FsTy → BitVec 4
  | .f32 => 4 | .h2 => 6 | .e4 => 8
def FsTy.of (x : BitVec 4) : Option FsTy := [FsTy.f32, .h2, .e4].find? (·.code == x)

/-- Special register numbers (Table 6.10). -/
def Special.code : Special → BitVec 16
  | .idLane => 0x0000 | .idWarp => 0x0001 | .idWg => 0x0002 | .idSheaf => 0x0003 | .idCore => 0x0004
  | .idCluster => 0x0005 | .idDie => 0x0006 | .idDevice => 0x0007 | .role => 0x0008 | .timebase => 0x0010
  | .clock => 0x0011 | .fmode => 0x0018 | .fflags => 0x0019 | .tcause => 0x0020 | .taddr => 0x0021 | .tlanes => 0x0022
  | .tvec => 0x0023 | .mprog => 0x0028 | .rangeLo => 0x0030 | .rangeHi => 0x0031 | .lanemap => 0x0038
  | .gazeAz => 0x0040 | .gazeEl => 0x0041 | .gazeTime => 0x0042 | .gazeSeq => 0x0043 | .vpc => 0x0048
def Special.of (x : BitVec 16) : Option Special :=
  [Special.idLane, .idWarp, .idWg, .idSheaf, .idCore, .idCluster, .idDie, .idDevice, .role, .timebase, .clock, .fmode,
   .fflags, .tcause, .taddr, .tlanes, .tvec, .mprog, .rangeLo, .rangeHi, .lanemap, .gazeAz, .gazeEl, .gazeTime,
   .gazeSeq, .vpc].find? (·.code == x)

/-- Result of decoding: an instruction, or the cause code of the check that failed. -/
abbrev Dec := Except Code8 Instr

/-- Accept `i` when its modifiers are a listed form (`legal`, else 0x01) and no reserved or unused field is set and
every register field is valid (`zero`, else 0x02); R201 steps 2 to 4. -/
def accept (legal zero : Bool) (i : Instr) : Dec :=
  if !(legal && i.modOk) then .error 0x01
  else if !(zero && i.resOk && i.regsOk) then .error 0x02
  else .ok i

/-- A field that must name a listed code. -/
def named {α : Type} (o : Option α) (k : α → Dec) : Dec :=
  match o with
  | none => .error 0x01
  | some x => k x

/-- 1 when a flag bit is set. -/
def bit4 (b : Bool) : BitVec 4 := if b then 1 else 0

namespace Fields

/-- `LA` is zero, as a short instruction asks (R194). -/
def short (f : Fields) : Bool := f.la == 0
/-- Short, and minor 0. -/
def plain (f : Fields) : Bool := f.minor == 0

/-- Memory operand of a MEM word other than an atomic; none in mode 3 (R188). -/
def maddr (f : Fields) : Option MAddr :=
  if f.mode = 0 then some (.so f.a f.off16) else if f.mode = 1 then some (.vo f.a f.off16)
  else if f.mode = 2 then some (.sv f.a f.b) else none
/-- Bits [15:8] are zero in mode 2, and bit 1 and the wide bit are zero. -/
def mres (f : Fields) : Bool := (f.mode != 2 || f.c == 0) && f.fl &&& 3 == 0
/-- Memory operand of an atomic; none in mode 3. -/
def aaddr (f : Fields) : Option AAddr :=
  if f.mode = 0 then some (.s f.a) else if f.mode = 1 then some (.v f.a)
  else if f.mode = 2 then some (.sv f.a f.b) else none
/-- Bits [23:16] are zero in modes 0 and 1, and bit 1 is zero. -/
def ares (f : Fields) : Bool := (f.mode == 2 || f.b == 0) && f.fl &&& 2 == 0
/-- Accumulator of an MX word. -/
def acc (f : Fields) : BitVec 4 := f.d.extractLsb' 0 4
/-- [39:36] of an MX word are zero. -/
def accZ (f : Fields) : Bool := f.d.extractLsb' 4 4 == 0

end Fields

open Fields in
/-- Majors 0x00 to 0x0C (Table 7.1). -/
def decCtl (f : Fields) : Dec :=
  let zlow := f.low == 0
  match f.major.toNat % 16 with
  | 0 => accept f.plain (f.short && f.d == 0 && f.a == 0 && f.b == 0 && f.c == 0 && zlow) (.nop f.g)
  | 1 => accept f.plain (f.short && f.d == 0) (.bra f.g f.disp)
  | 2 => accept f.plain (f.short && f.d == 0 && f.b == 0 && f.c == 0 && zlow) (.brx f.g f.a)
  | 3 => accept f.plain f.short (.call f.g f.d f.disp)
  | 4 => accept f.plain (f.short && f.d == 0 && f.b == 0 && f.c == 0 && zlow) (.ret f.g f.a)
  | 5 => accept f.plain (f.short && f.d == 0 && f.a == 0 && f.b == 0 && f.c == 0 && zlow) (.exit f.g)
  | 6 => accept f.plain (f.short && f.d == 0 && f.a == 0 && f.b == 0 && f.c.extractLsb' 6 2 == 0 && zlow)
      (.wait f.g (f.c.extractLsb' 0 6))
  | 7 => accept f.plain (f.short && f.d == 0 && f.a == 0 && f.b == 0 && f.c == 0 && zlow) (.yield f.g)
  | 8 => accept f.plain (f.short && f.d == 0 && f.b == 0 && f.c == 0 && zlow) (.sleep f.g f.a)
  | 9 => accept f.plain (f.short && f.d == 0 && f.a == 0 && f.b == 0 && zlow) (.brk f.g f.c)
  | 10 => accept f.plain (f.short && f.d == 0 && f.c == 0 && f.ty == 0 && f.fl &&& 14 == 0) (.ipref f.g (f.fl == 1) f.a f.b)
  | 11 => accept f.plain (f.short && f.d == 0 && f.c == 0 && f.ty == 0 && f.fl &&& 14 == 0) (.ipin f.g (f.fl == 1) f.a f.b)
  | 12 => accept f.plain (f.short && f.d == 0 && f.c == 0 && f.ty == 0 && f.fl &&& 14 == 0) (.iunpin f.g (f.fl == 1) f.a f.b)
  | _ => .error 0x01

/-- A scalar instruction with V3 and VI forms (R223). -/
def decSB (f : Fields) (mk : Guard → R8 → R8 → SB → Instr) : Dec :=
  if f.minor = 0x43 then accept true f.short (mk f.g f.d f.a (.imm f.imm24))
  else accept (f.plain && f.ty == 3) (f.short && f.c == 0 && f.fl == 0) (mk f.g f.d f.a (.reg f.b))

/-- Majors 0x10 to 0x1F (Table 7.3, R224, R225). -/
def decScalar (f : Fields) : Dec :=
  let t := f.plain && f.ty == 3
  let s := f.short
  match f.major.toNat % 16 with
  | 0 => decSB f .sadd
  | 1 => decSB f .ssub
  | 2 => decSB f .smul
  | 3 => accept (t && f.fl &&& 14 == 0) (s && f.c == 0) (.smulh f.g (f.fl &&& 1 == 1) f.d f.a f.b)
  | 4 => decSB f .sand
  | 5 => decSB f .sor
  | 6 => decSB f .sxor
  | 7 => decSB f .sshl
  | 8 => decSB f .sshr
  | 9 => decSB f .ssra
  | 10 => accept t (s && f.b == 0 && f.c == 0 && f.fl == 0) (.smov f.g f.d f.a)
  | 11 =>
    if f.minor = 0x03 then accept true (s && f.a == 0) (.smovi f.g f.d f.imm24)
    else if f.minor = 0x13 then accept true (s && f.a == 0) (.smoviMid f.g f.d f.imm24)
    else if f.minor = 0x23 then accept true (s && f.a == 0 && f.b == 0) (.smoviHi f.g f.d f.imm16)
    else .error 0x01
  | 12 => named (SCond.of f.fl) fun cc => accept t (s && f.c == 0) (.scmp f.g cc f.d f.a f.b)
  | 13 => accept t (s && f.fl == 0) (.ssel f.g f.d f.a f.b f.c)
  | 14 => accept t (s && f.b == 0 && f.c == 0 && f.fl == 0) (.sclz f.g f.d f.a)
  | _ => accept t (s && f.b == 0 && f.c == 0 && f.fl == 0) (.spopc f.g f.d f.a)

/-- Vector integer with packed forms, two sources (R226). -/
def decPk (f : Fields) (mk : Guard → ITy → Pack → R8 → R8 → R8 → Instr) : Dec :=
  named (ITy.of f.ty) fun t => named (Pack.of f.fl) fun pk =>
    accept f.plain (f.short && f.c == 0 && f.fl &&& 3 == 0) (mk f.g t pk f.d f.a f.b)

/-- `.b32` forms of two sources, one source, three sources. -/
def decB2 (f : Fields) (mk : Guard → R8 → R8 → R8 → Instr) : Dec :=
  accept (f.plain && f.ty == 2) (f.short && f.c == 0 && f.fl == 0) (mk f.g f.d f.a f.b)
def decB1 (f : Fields) (mk : Guard → R8 → R8 → Instr) : Dec :=
  accept (f.plain && f.ty == 2) (f.short && f.b == 0 && f.c == 0 && f.fl == 0) (mk f.g f.d f.a)
def decB3 (f : Fields) (mk : Guard → R8 → R8 → R8 → R8 → Instr) : Dec :=
  accept (f.plain && f.ty == 2) (f.short && f.fl == 0) (mk f.g f.d f.a f.b f.c)

/-- Majors 0x30 to 0x3F (Table 7.4). -/
def decV3 (f : Fields) : Dec :=
  match f.major.toNat % 16 with
  | 0 => decPk f .vadd
  | 1 => decPk f .vsub
  | 2 => named (ITy.of f.ty) fun t => accept f.plain f.short (.vaddc f.g t f.d f.a f.b f.c f.fl)
  | 3 => named (ITy.of f.ty) fun t => accept f.plain f.short (.vsubb f.g t f.d f.a f.b f.c f.fl)
  | 4 => decPk f .vadds
  | 5 => decPk f .vsubs
  | 6 => decPk f .vmul
  | 7 => named (ITy.of f.ty) fun t => accept f.plain (f.short && f.c == 0 && f.fl == 0) (.vmulh f.g t f.d f.a f.b)
  | 8 => named (ITy.of f.ty) fun t => accept f.plain (f.short && f.fl == 0) (.vmad f.g t f.d f.a f.b f.c)
  | 9 => decPk f .vmin
  | 10 => decPk f .vmax
  | 11 => named (Pack.of f.fl) fun pk =>
      accept (f.plain && f.ty == 0) (f.short && f.b == 0 && f.c == 0 && f.fl &&& 3 == 0) (.vabs f.g pk f.d f.a)
  | 12 => named (Pack.of f.fl) fun pk =>
      accept (f.plain && f.ty == 0) (f.short && f.b == 0 && f.c == 0 && f.fl &&& 3 == 0) (.vneg f.g pk f.d f.a)
  | 13 => decB2 f .vand
  | 14 => decB2 f .vor
  | _ => decB2 f .vxor

/-- Majors 0x40 to 0x4F (Table 7.4, R229 to R232). -/
def decV4 (f : Fields) : Dec :=
  match f.major.toNat % 16 with
  | 0 => decB1 f .vnot
  | 1 => decB2 f .vshl
  | 2 => decB2 f .vshr
  | 3 => decB2 f .vsra
  | 4 => decB2 f .vrot
  | 5 => decB3 f .vfunl
  | 6 => named (VCond.of f.fl) fun cc => named (ITy.of f.ty) fun t =>
      accept f.plain (f.short && f.c == 0) (.vcmp f.g cc t f.d f.a f.b)
  | 7 => decB3 f .vsel
  | 8 => accept (f.plain && (f.ty == 2 || f.ty == 3)) (f.short && f.b == 0 && f.c == 0 && f.fl == 0)
      (.vmov f.g (f.ty == 3) f.d f.a)
  | 9 => named (MovTy.of f.viTy) fun t =>
      if f.viVar = 0 then accept true (f.short && f.a == 0) (.vmovi f.g t f.d f.imm24)
      else if f.viVar = 1 then accept true (f.short && f.a == 0 && f.b == 0) (.vmoviHi f.g t f.d f.imm16)
      else if f.viVar = 2 then accept true (f.short && f.a == 0 && f.b == 0) (.vmoviLo f.g t f.d f.imm16)
      else .error 0x01
  | 10 => accept (f.plain && f.ty == 13) (f.short && f.fl == 0) (.vdot4 f.g f.d f.a f.b f.c)
  | 11 => decB1 f .vclz
  | 12 => decB1 f .vpopc
  | 13 => decB1 f .vbrev
  | 14 => accept (f.plain && f.ty == 2 && f.fl &&& 14 == 0) (f.short && f.c == 0) (.vbfe f.g (f.fl &&& 1 == 1) f.d f.a f.b)
  | _ => decB3 f .vbfi

/-- Majors 0x50 and 0x51 (R233). -/
def decV5 (f : Fields) : Dec :=
  match f.major.toNat % 16 with
  | 0 => accept (f.plain && f.ty == 2 && f.fl &&& 14 == 0) f.short (.vbitil f.g (f.fl &&& 1 == 1) f.d f.a f.b f.c)
  | 1 => accept (f.plain && f.ty == 2 && f.fl &&& 8 == 0) (f.short && f.b == 0 && f.c == 0)
      (.vbitdl f.g (f.fl &&& 1 == 1) f.d f.a (f.fl.extractLsb' 1 2))
  | _ => .error 0x01

/-- Floating point of two sources. -/
def decF2 (f : Fields) (mk : Guard → FTy → R8 → R8 → R8 → Instr) : Dec :=
  named (FTy.of f.ty) fun t => accept f.plain (f.short && f.c == 0 && f.fl == 0) (mk f.g t f.d f.a f.b)

/-- Majors 0x60 to 0x6C (Table 7.6). -/
def decV6 (f : Fields) : Dec :=
  match f.major.toNat % 16 with
  | 0 => decF2 f .vfadd
  | 1 => decF2 f .vfsub
  | 2 => decF2 f .vfmul
  | 3 => named (FTy.of f.ty) fun t => accept f.plain (f.short && f.fl == 0) (.vfma f.g t f.d f.a f.b f.c)
  | 4 => decF2 f .vfmin
  | 5 => decF2 f .vfmax
  | 6 => named (FCond.of f.fl) fun cc => named (dblOf f.ty) fun t =>
      accept f.plain (f.short && f.c == 0) (.vfcmp f.g cc t f.d f.a f.b)
  | 7 => named (dblOf f.ty) fun t => accept f.plain (f.short && f.b == 0 && f.c == 0 && f.fl == 0) (.vfclass f.g t f.d f.a)
  | 8 => named (dblOf f.ty) fun t => named (Rnd.of f.fl) fun m =>
      accept f.plain (f.short && f.b == 0 && f.c == 0) (.vfrnd f.g t m (f.fl &&& 8 == 8) f.d f.a)
  | 9 => named (dblOf f.ty) fun t => accept f.plain (f.short && f.c == 0 && f.fl == 0) (.vfscale f.g t f.d f.a f.b)
  | 10 => named (dblOf f.ty) fun t => accept f.plain (f.short && f.b == 0 && f.c == 0 && f.fl == 0) (.vffrac f.g t f.d f.a)
  | 11 => named (dblOf f.ty) fun t => accept f.plain (f.c == 0 && f.fl == 0) (.vfdivs f.g f.la t f.d f.a f.b)
  | 12 => named (dblOf f.ty) fun t => accept f.plain (f.b == 0 && f.c == 0 && f.fl == 0) (.vfsqrts f.g f.la t f.d f.a)
  | _ => .error 0x01

/-- A special function (R239). -/
def decSF (f : Fields) (mk : Guard → BitVec 4 → R8 → R8 → Instr) : Dec :=
  accept (f.plain && f.ty == 4) (f.b == 0 && f.c == 0 && f.fl == 0) (mk f.g f.la f.d f.a)

/-- Majors 0x70 to 0x75, 0x78, 0x79 (R239, R240). -/
def decV7 (f : Fields) : Dec :=
  match f.major.toNat % 16 with
  | 0 => decSF f .vfrcp
  | 1 => decSF f .vfrsq
  | 2 => decSF f .vfexp2
  | 3 => decSF f .vflog2
  | 4 => decSF f .vfsinp
  | 5 => decSF f .vfcosp
  | 8 => accept (f.plain && f.ty == 4) (f.c == 0 && f.fl == 0) (.vsmupd f.g f.la f.d f.a f.b)
  | 9 => decSF f .vsmfin
  | _ => .error 0x01

/-- Majors 0x80 to 0x87 (R241 to R246). -/
def decV8 (f : Fields) : Dec :=
  match f.major.toNat % 16 with
  | 0 => named (Cvt.of (f.ty ++ f.cl)) fun cv => named (Rnd.of f.fl) fun m =>
      accept f.plain (f.short && f.b == 0 && f.ch == 0 && f.fl &&& 8 == 0) (.vcvt f.g cv m f.d f.a)
  | 1 => named (PackFmt.of f.ty f.cl f.fl) fun pf => named (Rnd.of f.fl) fun m =>
      accept f.plain (f.short && f.b == 0 && f.ch == 0) (.vpack f.g pf m f.d f.a)
  | 2 => named (PackFmt.of f.cl f.ty f.fl) fun pf =>
      accept f.plain (f.short && f.b == 0 && f.ch == 0 && f.fl &&& 7 == 0) (.vunpack f.g pf f.d f.a)
  | 3 => named (BxFmt.of f.ty) fun bf =>
      accept f.plain (f.short && f.c == 0 && f.fl &&& 8 == 0) (.vbxq f.g bf (f.fl.extractLsb' 0 3) f.d f.b f.a)
  | 4 => named (BxFmt.of f.ty) fun bf =>
      accept f.plain (f.short && f.c == 0 && f.fl &&& 8 == 0) (.vbxd f.g bf (f.fl.extractLsb' 0 3) f.d f.a f.b)
  | 5 => named (PlFmt.of f.ty) fun pf =>
      accept f.plain (f.short && f.b == 0 && f.c == 0 && f.fl == 0) (.vplane f.g pf f.d f.a)
  | 6 => named (PlFmt.of f.ty) fun pf =>
      accept f.plain (f.short && f.b == 0 && f.c == 0 && f.fl == 0) (.vunplane f.g pf f.d f.a)
  | 7 => accept f.plain (f.short && f.b == 0 && f.ch == 0 && f.low == 0) (.vtag f.g f.d f.a f.cl)
  | _ => .error 0x01

/-- A predicate instruction of one or two sources (R255). -/
def decP (f : Fields) (i : Instr) (two : Bool) : Dec :=
  accept (f.plain && f.fl == 0) (f.short && f.ty == 0 && f.c == 0 && (two || f.b == 0)) i

/-- Majors 0x90 to 0x9F (Table 7.9, Table 7.12). -/
def decV9 (f : Fields) : Dec :=
  let s := f.short
  match f.major.toNat % 16 with
  | 0 => accept (f.plain && f.ty == 2) (s && f.b == 0 && f.c.extractLsb' 5 3 == 0) (.vballot f.g f.d f.a f.c5 f.fl)
  | 1 => named (VoteMd.of f.fl) fun md =>
      accept f.plain (s && f.ty == 0 && f.ch == 0 && f.fl &&& 12 == 0) (.vvote f.g md f.d f.a f.b f.cl)
  | 2 => named (ShflMd.of f.fl) fun md =>
      accept (f.plain && f.ty == 2) (s && f.ch == 0 && f.fl &&& 12 == 0) (.vshfl f.g md f.d f.a f.b f.cl)
  | 3 => accept (f.plain && f.ty == 2) (s && f.ch == 0 && f.fl == 0) (.vshflp f.g f.d f.a f.b f.cl)
  | 4 =>
    if f.fl &&& 1 = 1 then
      accept (f.plain && f.ty == 2) (s && f.b == 0 && f.c == 0 && f.fl &&& 14 == 0) (.vbcast f.g f.d (.scal f.a))
    else accept (f.plain && f.ty == 2) (s && f.b == 0 && f.c.extractLsb' 5 3 == 0 && f.fl &&& 14 == 0)
      (.vbcast f.g f.d (.lane f.a f.c5))
  | 5 => named (RedOp.of f.ty f.fl) fun op =>
      accept (f.plain && f.fl &&& 8 == 0) (s && f.b == 0) (.vreduce f.g op f.d f.a f.cl f.ch)
  | 6 => named (RedOp.of f.ty f.fl) fun op =>
      accept f.plain (s && f.b == 0) (.vscan f.g op (f.fl &&& 8 == 8) f.d f.a f.cl f.ch)
  | 7 => accept (f.plain && f.ty == 2) (s && f.b == 0 && f.fl == 0) (.vmatch f.g f.d f.a f.cl f.ch)
  | 8 => decP f (.pand f.g f.d f.a f.b) true
  | 9 => decP f (.por f.g f.d f.a f.b) true
  | 10 => decP f (.pxor f.g f.d f.a f.b) true
  | 11 => decP f (.pnot f.g f.d f.a) false
  | 12 =>
    let z := s && f.ty == 0 && f.b == 0 && f.c == 0
    if f.fl = 0 then accept f.plain z (.pmov f.g f.d f.a)
    else if f.fl = 1 then accept f.plain z (.pmovTov f.g f.d f.a)
    else if f.fl = 2 then accept f.plain z (.pmovFrv f.g f.d f.a)
    else if f.fl = 3 then accept f.plain z (.pmovTos f.g f.d f.a)
    else .error 0x01
  | 13 =>
    let z := s && f.ty == 0
    if f.fl = 0 then accept f.plain (z && f.b == 0 && f.c == 0) (.pset f.g f.d f.a)
    else if f.fl = 1 then
      accept f.plain (z && f.a == 0 && f.b.extractLsb' 5 3 == 0 && f.c.extractLsb' 5 3 == 0) (.psetRng f.g f.d f.b5 f.c5)
    else if f.fl = 2 then
      accept f.plain (z && f.a == 0 && f.b.extractLsb' 5 3 == 0 && f.c.extractLsb' 5 3 == 0) (.psetAnd f.g f.d f.b5 f.c5)
    else .error 0x01
  | 14 => decP f (.pcount f.g f.d f.a) false
  | _ => decP f (.pfirst f.g f.d f.a) false

/-- LD, ST, LDS, STS (R260). -/
def decLd (f : Fields) (mk : LdW → Ord → Scope → MAddr → Instr) (long : Bool) : Dec :=
  named (LdW.of f.var f.ty) fun w => named (Ord.of f.order) fun o => named f.maddr fun m =>
    accept true ((long || f.short) && f.mres) (mk w o (Scope.of f.scope) m)

/-- PREF, CWB, CINV (R267). -/
def decHint (f : Fields) (legal : Bool) (mk : MAddr → Instr) : Dec :=
  named f.maddr fun m =>
    accept (legal && f.order == 0 && f.scope == 0) (f.short && f.d == 0 && f.ty == 0 && f.mres) (mk m)

/-- Majors 0xA0 to 0xA9 (R260 to R267). -/
def decMem (f : Fields) : Dec :=
  match f.major.toNat % 16 with
  | 0 => decLd f (fun w o sc m => .ld f.g f.la w o sc m f.d) true
  | 1 => decLd f (fun w o sc m => .st f.g w o sc m f.d) false
  | 2 => decLd f (fun w o sc m => .lds f.g f.la w o sc m f.d) true
  | 3 => decLd f (fun w o sc m => .sts f.g w o sc m f.d) false
  | 4 => accept (f.mode == 0 && f.var == 0 && (f.order == 0 || f.order == 1) && (f.ty == 2 || f.ty == 3))
      (f.fl &&& 3 == 0)
      (.ldc f.g f.la (f.ty == 3) (f.order == 1) (Scope.of f.scope) f.a f.off16 f.d)
  | 5 => named (PlFmt.of f.ty) fun pf => named f.maddr fun m =>
      accept (f.order == 0 && f.scope == 0) f.mres (.ldp f.g f.la pf f.var m f.d)
  | 6 => named f.maddr fun m =>
      accept (f.order == 0 && f.scope == 0 && f.var == 0) f.mres (.ldt f.g f.la f.ty m f.d)
  | 7 => decHint f (f.var == 0 || f.var == 1) (.pref f.g (f.var == 1))
  | 8 => decHint f (f.var == 0) (.cwb f.g)
  | 9 => decHint f (f.var == 0) (.cinv f.g)
  | _ => .error 0x01

/-- Majors 0xB0 to 0xB3 (R268). -/
def decAtom (f : Fields) : Dec :=
  let wide := f.fl &&& 1 == 1
  let v0 := f.var == 0
  named (Ord.of f.order) fun o => named f.aaddr fun m =>
    let sc := Scope.of f.scope
    match f.major.toNat % 16 with
    | 0 => named (AOp.of f.ty) fun op => accept v0 f.ares (.atom f.g f.la op wide o sc m f.d f.c)
    | 1 => accept v0 (f.ares && f.ty == 0) (.acas f.g f.la wide o sc m f.d f.c)
    | 2 => named (AOp.of f.ty) fun op => accept v0 (f.short && f.ares && f.d == 0) (.red f.g op wide o sc m f.c)
    | 3 => accept (v0 && !wide) (f.short && f.ares && f.ty == 0 && f.d == 0) (.vbmin f.g o sc m f.c)
    | _ => .error 0x01

/-- Byte-count barrier operations (Table 8.12). -/
def decMb (f : Fields) : Dec :=
  let z := f.short && f.ty == 0 && f.fl &&& 3 == 0
  let m0 := f.mode == 0
  let sc := Scope.of f.scope
  match f.order.toNat, f.var.toNat with
  | 0, 0 => accept (m0 && f.scope == 0) z (.mbinit f.g f.a f.off16 f.d)
  | 1, 0 => accept (m0 && f.scope == 0) z (.mbexp f.g f.a f.off16 f.d)
  | 2, 0 => accept m0 (z && f.d == 0) (.mbarr f.g sc f.a f.off16)
  | 3, 0 => accept m0 z (.mbwait f.g sc f.d f.a f.off16)
  | 3, 1 => accept m0 z (.mbwaitCur f.g sc f.d f.a f.off16)
  | 4, 0 => accept m0 z (.mbtest f.g sc f.d f.a f.off16)
  | 4, 1 => accept (m0 && f.scope == 0) z (.mbtestSnap f.g f.d f.a f.off16)
  | _, _ => .error 0x01

/-- Majors 0xC0 to 0xC7 (R276 to R293). -/
def decSync (f : Fields) : Dec :=
  let s := f.short
  match f.major.toNat % 16 with
  | 0 => named (Ord.of (f.minor.extractLsb' 0 3)) fun o =>
      accept (f.minor.extractLsb' 3 4 == 0)
        (s && f.d == 0 && f.a == 0 && f.b == 0 && f.c == 0 && f.ty == 0 && f.fl &&& 3 == 0)
        (.fence f.g o (Scope.of f.scope))
  | 1 => accept f.plain (s && f.d == 0 && f.a == 0 && f.b == 0 && f.c == 0 && f.low == 0) (.bfence f.g)
  | 2 =>
    let z := s && f.a == 0 && f.b == 0 && f.low == 0
    match f.minor.toNat with
    | 0 => accept true (z && f.c == 0) (.tbegin f.g f.d)
    | 1 => accept true (z && f.c == 0 && f.d == 0) (.tend f.g)
    | 2 => accept true (z && f.d == 0) (.tabort f.g f.c)
    | 3 => accept true (z && f.c == 0) (.ttest f.g f.d)
    | _ => .error 0x01
  | 3 =>
    let z := f.ty == 0 && f.fl &&& 3 == 0 && f.c == 0
    let l := f.scope == 0 || f.scope == 2
    let cl := f.scope == 2
    match f.minor.toNat with
    | 0 => accept l (s && z && f.d == 0) (.osenter f.g cl f.a f.b)
    | 1 => accept l (s && z && f.d == 0 && f.b == 0) (.osleave f.g cl f.a)
    | 2 => accept l (s && z && f.d == 0) (.osreset f.g cl f.a f.b)
    | 3 => accept l (z && f.b == 0) (.osquery f.g f.la cl f.d f.a)
    | _ => .error 0x01
  | 4 => accept f.plain (s && f.d == 0 && f.a == 0 && f.b == 0 && f.c.extractLsb' 2 6 == 0 && f.low == 0)
      (.bar f.g (f.c.extractLsb' 0 2))
  | 5 => named (POp.of f.fl) fun op =>
      accept f.plain (s && f.d == 0 && f.b == 0 && f.ty == 0 && f.fl &&& 8 == 0) (.phase f.g f.c op f.a)
  | 6 => named (GQ.of f.fl) fun q =>
      accept f.plain (f.a == 0 && f.b == 0 && f.ty == 0 && f.fl &&& 12 == 0) (.grpq f.g f.la q f.d f.c)
  | 7 => decMb f
  | _ => .error 0x01

/-- Majors 0xD0 to 0xDE (R310 to R335). The counter select is permitted only where the entry lists it (R310). -/
def decEng (f : Fields) : Dec :=
  let s := f.short
  let l := f.plain && f.dc == 0
  let z := f.aflg == 0
  match f.major.toNat % 16 with
  | 0 => accept f.plain (s && f.d == 0 && f.b == 0 && f.c == 0 && z) (.ckick f.g f.dc f.a)
  | 1 => accept l (s && f.d == 0 && f.c == 0 && z) (.enq f.g f.a f.b)
  | 2 => accept l (f.b == 0 && f.c == 0 && z) (.deq f.g f.la f.d f.a)
  | 3 => accept l (f.b == 0 && f.ch == 0 && z) (.qtry f.g f.la f.d f.a f.cl)
  | 4 => accept f.plain (s && f.d == 0 && f.c == 0 && z) (.tspawn f.g f.dc f.a f.b)
  | 5 => accept l (s && f.d == 0 && f.c.extractLsb' 6 2 == 0 && z) (.cont f.g f.a f.b f.cl (f.c.extractLsb' 4 2))
  | 6 => accept f.plain (s && f.d == 0 && f.c == 0 && f.aflg.extractLsb' 2 3 == 0)
      (.bgemv f.g f.dc (f.aflg &&& 1 == 1) (f.aflg &&& 2 == 2) f.a f.b)
  | 7 => named (BQ.of f.aflg) fun q =>
      accept l (f.a == 0 && f.b == 0 && f.c == 0 && f.aflg.extractLsb' 2 3 == 0) (.bstat f.g f.la q f.d)
  | 8 => accept f.plain (s && f.d == 0 && f.aflg &&& 16 == 0)
      (.rtrace f.g f.dc (f.aflg &&& 8 == 8) (f.aflg.extractLsb' 0 3) f.a f.b f.c)
  | 9 => accept l (f.c == 0 && f.aflg &&& 23 == 0) (.rtquery f.g f.la (f.aflg &&& 8 == 8) f.d f.a f.b)
  | 10 => accept l (s && f.d == 0) (.msvtx f.g f.aflg f.a f.b f.c)
  | 11 => accept l (s && f.d == 0 && z) (.msprim f.g f.a f.b f.c)
  | 12 => accept l (s && f.d == 0 && f.c == 0 && z) (.msend f.g f.a f.b)
  | 13 => named (FsTy.of f.ty) fun t =>
      accept f.plain (s && f.d == 0 && f.b == 0 && f.c == 0 && f.fl &&& 12 == 0) (.fsout f.g t (f.fl.extractLsb' 0 2) f.a)
  | 14 => accept l (f.b == 0 && f.c == 0 && z) (.gzread f.g f.la f.d f.a)
  | _ => .error 0x01

/-- Majors 0xE0 to 0xE7 (R301 to R309). -/
def decMx (f : Fields) : Dec :=
  let s := f.short && f.accZ
  let z := s && f.acc == 0
  match f.major.toNat % 16 with
  | 0 =>
    match f.minor.toNat with
    | 0 => named (Ty.of f.ty) fun ta => named (Ty.of f.cl) fun tb =>
        accept true (z && f.ch == 0 && f.a == 0 && f.b == 0 && f.fl == 0) (.mcfgTy f.g ta tb)
    | 1 => accept true (z && f.c == 0 && f.low == 0) (.mcfgA f.g f.a f.b)
    | 2 => accept true (z && f.c == 0 && f.low == 0) (.mcfgB f.g f.a f.b)
    | 3 => accept true (z && f.c == 0 && f.low == 0) (.mcfgAx f.g f.a f.b)
    | 4 => accept true (z && f.c == 0 && f.low == 0) (.mcfgBx f.g f.a f.b)
    | 5 => accept true (z && f.b == 0 && f.c == 0 && f.low == 0) (.mcfgK f.g f.a)
    | _ => .error 0x01
  | 1 =>
    let r := s && f.b == 0 && f.ty == 0 && f.fl &&& 12 == 0
    if f.fl &&& 1 = 1 then accept f.plain (r && f.c == 0) (.mloop f.g f.acc (.reg f.a) (f.fl &&& 2 == 2))
    else accept f.plain (r && f.a == 0) (.mloop f.g f.acc (.imm f.c) (f.fl &&& 2 == 2))
  | 2 => named (MzTy.of f.ty) fun t =>
      accept f.plain (s && f.a == 0 && f.b == 0 && f.c == 0 && f.fl == 0) (.mzero f.g t f.acc)
  | 3 => named (MForm.of f.fl) fun mf =>
      accept f.plain (f.accZ && f.b == 0 && f.ty == 0 && f.fl &&& 12 == 0 && f.c.extractLsb' 5 3 == 0)
        (.mmova f.g f.la mf f.a f.acc f.c5)
  | 4 => named (MForm.of f.fl) fun mf =>
      accept f.plain (s && f.b == 0 && f.ty == 0 && f.fl &&& 12 == 0 && f.c.extractLsb' 5 3 == 0)
        (.mmovv f.g mf f.acc f.a f.c5)
  | 5 => named (MsTy.of f.ty) fun t => accept f.plain (s && f.c == 0 && f.fl == 0) (.msta f.g t f.a f.b f.acc)
  | 6 => accept f.plain (s && f.b == 0 && f.ty == 0 && f.c.extractLsb' 6 2 == 0)
      (.mcoop f.g f.acc f.a (f.c.extractLsb' 4 2) f.cl (f.fl.extractLsb' 0 3) (f.fl &&& 8 == 8))
  | 7 => accept f.plain (s && f.a == 0 && f.b == 0 && f.c == 0 && f.low == 0) (.mfree f.g f.acc)
  | _ => .error 0x01

/-- Majors 0xF0 to 0xF5 (Table 7.2). -/
def decSys (f : Fields) : Dec :=
  let m0 := f.minor.extractLsb' 1 6 == 0
  let vec := f.minor.extractLsb' 0 1 == 1
  let l := f.plain
  let z := f.short && f.low == 0
  match f.major.toNat % 16 with
  | 0 => named (Special.of f.off16) fun sp => accept m0 (f.low == 0 && f.a == 0) (.sread f.g f.la vec f.d sp)
  | 1 => named (Special.of f.off16) fun sp => accept m0 (z && f.d == 0) (.swrite f.g vec f.a sp)
  | 2 => accept l (z && f.d == 0 && f.a == 0) (.trap f.g f.off16)
  | 3 => accept l (z && f.d == 0 && f.a == 0 && f.off16 == 0) (.eret f.g)
  | 4 => accept l (z && f.d == 0 && f.a == 0) (.halt f.g f.off16)
  | 5 => accept l (z && f.d == 0 && f.a == 0 && f.off16 == 0) (.ckpt f.g)
  | _ => .error 0x01

/-- Decode the fields of an unpaired word (Table 6.11, R200). -/
def decodeFields (f : Fields) : Dec :=
  match f.major.toNat / 16 with
  | 0 => decCtl f
  | 1 => decScalar f
  | 3 => decV3 f
  | 4 => decV4 f
  | 5 => decV5 f
  | 6 => decV6 f
  | 7 => decV7 f
  | 8 => decV8 f
  | 9 => decV9 f
  | 10 => decMem f
  | 11 => decAtom f
  | 12 => decSync f
  | 13 => decEng f
  | 14 => decMx f
  | 15 => decSys f
  | _ => .error 0x01

/-- One half of a paired word (R191). -/
def decodeHalf (h : Word32) : Except Code8 Compact :=
  let op := h.extractLsb' 26 6
  let d := h.extractLsb' 18 8
  let a := h.extractLsb' 10 8
  let b := h.extractLsb' 2 8
  let t := h.extractLsb' 0 2
  if op = 0x3F then
    if t != 0 then .error 0x01 else if d != 0 || a != 0 || b != 0 then .error 0x02 else .ok .nop
  else match COp.of op with
    | none => .error 0x01
    | some o =>
      let c := Compact.op o (CTy.of t) d a b
      if !c.typeOk then .error 0x01 else if !c.fieldOk then .error 0x02 else .ok c

/-- A paired word: the upper half's checks, the lower half's, then joint issue (R191, R193, R201). -/
def decodePaired (w : Word64) : Dec :=
  match decodeHalf (w.extractLsb' 32 32) with
  | .error e => .error e
  | .ok hi =>
    match decodeHalf (w.extractLsb' 0 32) with
    | .error e => .error e
    | .ok lo => if jointOk hi lo then .ok (.pairedWord hi lo) else .error 0x01

/-- Decode a word; `paired` is its slot's `CLH.PAIR` bit. -/
def decode (paired : Bool) (w : Word64) : Dec :=
  if paired then decodePaired w else decodeFields (Fields.ofWord w)

/-- Whether the majors of a clause class allow a word (R180, Table 6.2): NOP and the clause-ending transfers stand in
every class. -/
def classAdmits (cls : Nat) (w : Word64) : Bool :=
  let m := (w.extractLsb' 56 8).toNat
  m == 0x00 || m == 0x01 || m == 0x02 || m == 0x03 || m == 0x04 || m == 0x05 || m == 0xF3 ||
  match cls with
  | 0 => decide (0x10 ≤ m ∧ m ≤ 0x9F)
  | 1 => decide (0xA0 ≤ m ∧ m ≤ 0xCF)
  | 2 => decide (0xE0 ≤ m ∧ m ≤ 0xEF)
  | 3 => decide (0xD0 ≤ m ∧ m ≤ 0xDF)
  | 4 => decide (m ≤ 0x0F) || decide (0xF0 ≤ m ∧ m ≤ 0xF7)
  | _ => false

/-- Whether a word is a transfer that stands only in the last slot of its clause (R182). -/
def lastSlotOnly (w : Word64) : Bool :=
  let m := (w.extractLsb' 56 8).toNat
  decide (1 ≤ m ∧ m ≤ 5) || m == 0xF3

/-- Clause header fields (Table 6.1). -/
structure Header where
  cls : Nat
  count : Nat
  pair : BitVec 16
  wait : BitVec 6
  hint : BitVec 3
  low : BitVec 32
  deriving DecidableEq, Repr

/-- The fields of a header word. -/
def Header.ofWord (w : Word64) : Header :=
  { cls := (w.extractLsb' 61 3).toNat, count := (w.extractLsb' 57 4).toNat, pair := w.extractLsb' 41 16,
    wait := w.extractLsb' 35 6, hint := w.extractLsb' 32 3, low := w.extractLsb' 0 32 }

/-- Header checks (R181): the cause code, or none. -/
def Header.check (h : Header) : Option Code8 :=
  if 5 ≤ h.cls then some 0x01
  else if h.low != 0 || decide (2 ≤ h.hint.toNat) || h.pair >>> (h.count + 1) != 0 || (h.pair != 0 && h.cls != 0) then
    some 0x02
  else none

namespace Enc

/-! Encoders of the formats (Table 6.4): major, guard, minor and the low fields, `LA` zero unless given. -/

/-- V3, MX and ASY words: major, minor, D, A, B, C, [7:4], [3:0]. -/
def v3 (m : BitVec 8) (g : Guard) (minor : BitVec 7) (d a b c : R8) (ty fl : BitVec 4) (la : BitVec 4 := 0) : Fields :=
  { major := m, la := la, p := g.p, neg := BitVec.ofBool g.neg, minor := minor, d := d, a := a, b := b, c := c,
    ty := ty, fl := fl }
/-- VI words: major, minor, D, A, immediate. -/
def vi (m : BitVec 8) (g : Guard) (minor : BitVec 7) (d a : R8) (imm : BitVec 24) : Fields :=
  v3 m g minor d a (imm.extractLsb' 16 8) (imm.extractLsb' 8 8) (imm.extractLsb' 4 4) (imm.extractLsb' 0 4)
/-- BR words: major, link, displacement. -/
def br (m : BitVec 8) (g : Guard) (d : R8) (disp : BitVec 32) : Fields :=
  v3 m g 0 d (disp.extractLsb' 24 8) (disp.extractLsb' 16 8) (disp.extractLsb' 8 8) (disp.extractLsb' 4 4)
    (disp.extractLsb' 0 4)
/-- Scalar second operand. -/
def sb (m : BitVec 8) (g : Guard) (d a : R8) : SB → Fields
  | .reg b => v3 m g 0 d a b 0 3 0
  | .imm v => vi m g 0x43 d a v
/-- ASY words with counter select and flags. -/
def asy (m : BitVec 8) (g : Guard) (dc : BitVec 3) (d a b c : R8) (fl : BitVec 5) (la : BitVec 4 := 0) : Fields :=
  let low := dc ++ fl
  v3 m g 0 d a b c (low.extractLsb' 4 4) (low.extractLsb' 0 4) la
/-- MEM words: order or operation, mode and address, variant, data, [7:4], scope and wide bit. -/
def mem (m : BitVec 8) (g : Guard) (la : BitVec 4) (order : BitVec 3) (var : BitVec 2) (ad : MAddr) (d : R8)
    (ty : BitVec 4) (sc : BitVec 2) : Fields :=
  let fl := sc ++ 0#2
  match ad with
  | .so a off => v3 m g (order ++ 0#2 ++ var) d a (off.extractLsb' 8 8) (off.extractLsb' 0 8) ty fl la
  | .vo a off => v3 m g (order ++ 1#2 ++ var) d a (off.extractLsb' 8 8) (off.extractLsb' 0 8) ty fl la
  | .sv a v => v3 m g (order ++ 2#2 ++ var) d a v 0 ty fl la
/-- Atomics: the data register in C. -/
def atm (m : BitVec 8) (g : Guard) (la : BitVec 4) (o : Ord) (ad : AAddr) (d c : R8) (ty : BitVec 4) (sc : Scope)
    (wide : Bool) : Fields :=
  let fl := sc.code ++ 0#1 ++ BitVec.ofBool wide
  match ad with
  | .s a => v3 m g (o.code ++ 0#4) d a 0 c ty fl la
  | .v a => v3 m g (o.code ++ 4#4) d a 0 c ty fl la
  | .sv a v => v3 m g (o.code ++ 8#4) d a v c ty fl la
/-- SYS words: minor [40], register, source, number. -/
def sys (m : BitVec 8) (g : Guard) (vec : Bool) (d a : R8) (n : BitVec 16) (la : BitVec 4 := 0) : Fields :=
  v3 m g (0#6 ++ BitVec.ofBool vec) d a (n.extractLsb' 8 8) (n.extractLsb' 0 8) 0 0 la
/-- A four-bit number and zeros above it, in a register field. -/
def n4 (n : BitVec 4) : R8 := 0#4 ++ n
def n5 (n : BitVec 5) : R8 := 0#3 ++ n

end Enc

/-- Fields of a halved word. -/
def Compact.bits : Compact → Word32
  | .nop => 0x3F#6 ++ 0#26
  | .op o t d a b => o.code ++ d ++ a ++ b ++ t.code

open Enc in
/-- Fields of an unpaired instruction word; none for a paired word and for an event. -/
def encodeFields : Instr → Option Fields
  | .nop g => some (v3 0x00 g 0 0 0 0 0 0 0)
  | .bra g disp => some (br 0x01 g 0 disp)
  | .brx g a => some (v3 0x02 g 0 0 a 0 0 0 0)
  | .call g d disp => some (br 0x03 g d disp)
  | .ret g a => some (v3 0x04 g 0 0 a 0 0 0 0)
  | .exit g => some (v3 0x05 g 0 0 0 0 0 0 0)
  | .wait g m => some (v3 0x06 g 0 0 0 0 (0#2 ++ m) 0 0)
  | .yield g => some (v3 0x07 g 0 0 0 0 0 0 0)
  | .sleep g a => some (v3 0x08 g 0 0 a 0 0 0 0)
  | .brk g code => some (v3 0x09 g 0 0 0 0 code 0 0)
  | .ipref g l1 a b => some (v3 0x0A g 0 0 a b 0 0 (bit4 l1))
  | .ipin g l1 a b => some (v3 0x0B g 0 0 a b 0 0 (bit4 l1))
  | .iunpin g l1 a b => some (v3 0x0C g 0 0 a b 0 0 (bit4 l1))
  | .sadd g d a b => some (sb 0x10 g d a b)
  | .ssub g d a b => some (sb 0x11 g d a b)
  | .smul g d a b => some (sb 0x12 g d a b)
  | .smulh g u d a b => some (v3 0x13 g 0 d a b 0 3 (bit4 u))
  | .sand g d a b => some (sb 0x14 g d a b)
  | .sor g d a b => some (sb 0x15 g d a b)
  | .sxor g d a b => some (sb 0x16 g d a b)
  | .sshl g d a b => some (sb 0x17 g d a b)
  | .sshr g d a b => some (sb 0x18 g d a b)
  | .ssra g d a b => some (sb 0x19 g d a b)
  | .smov g d a => some (v3 0x1A g 0 d a 0 0 3 0)
  | .smovi g d imm => some (vi 0x1B g 0x03 d 0 imm)
  | .smoviMid g d imm => some (vi 0x1B g 0x13 d 0 imm)
  | .smoviHi g d imm => some (vi 0x1B g 0x23 d 0 (0#8 ++ imm))
  | .scmp g cc d a b => some (v3 0x1C g 0 d a b 0 3 cc.code)
  | .ssel g d a b c => some (v3 0x1D g 0 d a b c 3 0)
  | .sclz g d a => some (v3 0x1E g 0 d a 0 0 3 0)
  | .spopc g d a => some (v3 0x1F g 0 d a 0 0 3 0)
  | .vadd g t pk d a b => some (v3 0x30 g 0 d a b 0 t.code pk.code)
  | .vsub g t pk d a b => some (v3 0x31 g 0 d a b 0 t.code pk.code)
  | .vaddc g t d a b ci co => some (v3 0x32 g 0 d a b ci t.code co)
  | .vsubb g t d a b ci co => some (v3 0x33 g 0 d a b ci t.code co)
  | .vadds g t pk d a b => some (v3 0x34 g 0 d a b 0 t.code pk.code)
  | .vsubs g t pk d a b => some (v3 0x35 g 0 d a b 0 t.code pk.code)
  | .vmul g t pk d a b => some (v3 0x36 g 0 d a b 0 t.code pk.code)
  | .vmulh g t d a b => some (v3 0x37 g 0 d a b 0 t.code 0)
  | .vmad g t d a b c => some (v3 0x38 g 0 d a b c t.code 0)
  | .vmin g t pk d a b => some (v3 0x39 g 0 d a b 0 t.code pk.code)
  | .vmax g t pk d a b => some (v3 0x3A g 0 d a b 0 t.code pk.code)
  | .vabs g pk d a => some (v3 0x3B g 0 d a 0 0 0 pk.code)
  | .vneg g pk d a => some (v3 0x3C g 0 d a 0 0 0 pk.code)
  | .vand g d a b => some (v3 0x3D g 0 d a b 0 2 0)
  | .vor g d a b => some (v3 0x3E g 0 d a b 0 2 0)
  | .vxor g d a b => some (v3 0x3F g 0 d a b 0 2 0)
  | .vnot g d a => some (v3 0x40 g 0 d a 0 0 2 0)
  | .vshl g d a b => some (v3 0x41 g 0 d a b 0 2 0)
  | .vshr g d a b => some (v3 0x42 g 0 d a b 0 2 0)
  | .vsra g d a b => some (v3 0x43 g 0 d a b 0 2 0)
  | .vrot g d a b => some (v3 0x44 g 0 d a b 0 2 0)
  | .vfunl g d a b c => some (v3 0x45 g 0 d a b c 2 0)
  | .vcmp g cc t d a b => some (v3 0x46 g 0 d a b 0 t.code cc.code)
  | .vsel g d a b c => some (v3 0x47 g 0 d a b c 2 0)
  | .vmov g wide d a => some (v3 0x48 g 0 d a 0 0 (if wide then 3 else 2) 0)
  | .vmovi g t d imm => some (vi 0x49 g (0#3 ++ t.code) d 0 imm)
  | .vmoviHi g t d imm => some (vi 0x49 g (1#3 ++ t.code) d 0 (0#8 ++ imm))
  | .vmoviLo g t d imm => some (vi 0x49 g (2#3 ++ t.code) d 0 (0#8 ++ imm))
  | .vdot4 g d a b c => some (v3 0x4A g 0 d a b c 13 0)
  | .vclz g d a => some (v3 0x4B g 0 d a 0 0 2 0)
  | .vpopc g d a => some (v3 0x4C g 0 d a 0 0 2 0)
  | .vbrev g d a => some (v3 0x4D g 0 d a 0 0 2 0)
  | .vbfe g sgn d a b => some (v3 0x4E g 0 d a b 0 2 (bit4 sgn))
  | .vbfi g d a b c => some (v3 0x4F g 0 d a b c 2 0)
  | .vbitil g w3 d a b c => some (v3 0x50 g 0 d a b c 2 (bit4 w3))
  | .vbitdl g w3 d a s => some (v3 0x51 g 0 d a 0 0 2 (0#1 ++ s ++ BitVec.ofBool w3))
  | .vfadd g t d a b => some (v3 0x60 g 0 d a b 0 t.code 0)
  | .vfsub g t d a b => some (v3 0x61 g 0 d a b 0 t.code 0)
  | .vfmul g t d a b => some (v3 0x62 g 0 d a b 0 t.code 0)
  | .vfma g t d a b c => some (v3 0x63 g 0 d a b c t.code 0)
  | .vfmin g t d a b => some (v3 0x64 g 0 d a b 0 t.code 0)
  | .vfmax g t d a b => some (v3 0x65 g 0 d a b 0 t.code 0)
  | .vfcmp g cc dbl d a b => some (v3 0x66 g 0 d a b 0 (dblCode dbl) cc.code)
  | .vfclass g dbl d a => some (v3 0x67 g 0 d a 0 0 (dblCode dbl) 0)
  | .vfrnd g dbl m x d a => some (v3 0x68 g 0 d a 0 0 (dblCode dbl) (m.code ||| if x then 8 else 0))
  | .vfscale g dbl d a b => some (v3 0x69 g 0 d a b 0 (dblCode dbl) 0)
  | .vffrac g dbl d a => some (v3 0x6A g 0 d a 0 0 (dblCode dbl) 0)
  | .vfdivs g la dbl d a b => some (v3 0x6B g 0 d a b 0 (dblCode dbl) 0 la)
  | .vfsqrts g la dbl d a => some (v3 0x6C g 0 d a 0 0 (dblCode dbl) 0 la)
  | .vfrcp g la d a => some (v3 0x70 g 0 d a 0 0 4 0 la)
  | .vfrsq g la d a => some (v3 0x71 g 0 d a 0 0 4 0 la)
  | .vfexp2 g la d a => some (v3 0x72 g 0 d a 0 0 4 0 la)
  | .vflog2 g la d a => some (v3 0x73 g 0 d a 0 0 4 0 la)
  | .vfsinp g la d a => some (v3 0x74 g 0 d a 0 0 4 0 la)
  | .vfcosp g la d a => some (v3 0x75 g 0 d a 0 0 4 0 la)
  | .vsmupd g la d a b => some (v3 0x78 g 0 d a b 0 4 0 la)
  | .vsmfin g la d a => some (v3 0x79 g 0 d a 0 0 4 0 la)
  | .vcvt g cv m d a => some (v3 0x80 g 0 d a 0 (n4 (cv.code.extractLsb' 0 4)) (cv.code.extractLsb' 4 4) m.code)
  | .vpack g f m d a => some (v3 0x81 g 0 d a 0 (n4 (f.code.extractLsb' 4 4)) (f.code.extractLsb' 8 4)
      (f.code.extractLsb' 0 4 ||| m.code))
  | .vunpack g f d a => some (v3 0x82 g 0 d a 0 (n4 (f.code.extractLsb' 8 4)) (f.code.extractLsb' 4 4)
      (f.code.extractLsb' 0 4))
  | .vbxq g f blk d e a => some (v3 0x83 g 0 d a e 0 f.code (0#1 ++ blk))
  | .vbxd g f blk d a e => some (v3 0x84 g 0 d a e 0 f.code (0#1 ++ blk))
  | .vplane g f d a => some (v3 0x85 g 0 d a 0 0 f.code 0)
  | .vunplane g f d a => some (v3 0x86 g 0 d a 0 0 f.code 0)
  | .vtag g d a tag => some (v3 0x87 g 0 d a 0 (n4 tag) 0 0)
  | .vballot g d a bit q => some (v3 0x90 g 0 d a 0 (n5 bit) 2 q)
  | .vvote g md d pm ps q => some (v3 0x91 g 0 d pm ps (n4 q) 0 md.code)
  | .vshfl g md d a b q => some (v3 0x92 g 0 d a b (n4 q) 2 md.code)
  | .vshflp g d a b pc => some (v3 0x93 g 0 d a b (n4 pc) 2 0)
  | .vbcast g d (.lane a l) => some (v3 0x94 g 0 d a 0 (n5 l) 2 0)
  | .vbcast g d (.scal a) => some (v3 0x94 g 0 d a 0 0 2 1)
  | .vreduce g op d a pm q => some (v3 0x95 g 0 d a 0 (q ++ pm) (op.code.extractLsb' 4 4) (op.code.extractLsb' 0 4))
  | .vscan g op ex d a pm q => some (v3 0x96 g 0 d a 0 (q ++ pm) (op.code.extractLsb' 4 4)
      (op.code.extractLsb' 0 4 ||| if ex then 8 else 0))
  | .vmatch g d a pm q => some (v3 0x97 g 0 d a 0 (q ++ pm) 2 0)
  | .pand g d a b => some (v3 0x98 g 0 d a b 0 0 0)
  | .por g d a b => some (v3 0x99 g 0 d a b 0 0 0)
  | .pxor g d a b => some (v3 0x9A g 0 d a b 0 0 0)
  | .pnot g d a => some (v3 0x9B g 0 d a 0 0 0 0)
  | .pmov g d a => some (v3 0x9C g 0 d a 0 0 0 0)
  | .pmovTov g d a => some (v3 0x9C g 0 d a 0 0 0 1)
  | .pmovFrv g d a => some (v3 0x9C g 0 d a 0 0 0 2)
  | .pmovTos g d a => some (v3 0x9C g 0 d a 0 0 0 3)
  | .pset g d a => some (v3 0x9D g 0 d a 0 0 0 0)
  | .psetRng g d lo hi => some (v3 0x9D g 0 d 0 (n5 lo) (n5 hi) 0 1)
  | .psetAnd g d m k => some (v3 0x9D g 0 d 0 (n5 m) (n5 k) 0 2)
  | .pcount g d a => some (v3 0x9E g 0 d a 0 0 0 0)
  | .pfirst g d a => some (v3 0x9F g 0 d a 0 0 0 0)
  | .ld g la w o sc m d => some (mem 0xA0 g la o.code w.var m d w.ty sc.code)
  | .st g w o sc m d => some (mem 0xA1 g 0 o.code w.var m d w.ty sc.code)
  | .lds g la w o sc m d => some (mem 0xA2 g la o.code w.var m d w.ty sc.code)
  | .sts g w o sc m d => some (mem 0xA3 g 0 o.code w.var m d w.ty sc.code)
  | .ldc g la wide acq sc a off d =>
    some (mem 0xA4 g la (if acq then 1 else 0) 0 (.so a off) d (if wide then 3 else 2) sc.code)
  | .ldp g la f v m d => some (mem 0xA5 g la 0 v m d f.code 0)
  | .ldt g la tag m d => some (mem 0xA6 g la 0 0 m d tag 0)
  | .pref g l2 m => some (mem 0xA7 g 0 0 (if l2 then 1 else 0) m 0 0 0)
  | .cwb g m => some (mem 0xA8 g 0 0 0 m 0 0 0)
  | .cinv g m => some (mem 0xA9 g 0 0 0 m 0 0 0)
  | .atom g la op wide o sc m d b => some (atm 0xB0 g la o m d b op.code sc wide)
  | .acas g la wide o sc m d b => some (atm 0xB1 g la o m d b 0 sc wide)
  | .red g op wide o sc m b => some (atm 0xB2 g 0 o m 0 b op.code sc wide)
  | .vbmin g o sc m b => some (atm 0xB3 g 0 o m 0 b 0 sc false)
  | .fence g o sc => some (v3 0xC0 g (0#4 ++ o.code) 0 0 0 0 0 (sc.code ++ 0#2))
  | .bfence g => some (v3 0xC1 g 0 0 0 0 0 0 0)
  | .tbegin g d => some (v3 0xC2 g 0 d 0 0 0 0 0)
  | .tend g => some (v3 0xC2 g 1 0 0 0 0 0 0)
  | .tabort g code => some (v3 0xC2 g 2 0 0 0 code 0 0)
  | .ttest g d => some (v3 0xC2 g 3 d 0 0 0 0 0)
  | .osenter g cl a b => some (v3 0xC3 g 0 0 a b 0 0 (if cl then 8 else 0))
  | .osleave g cl a => some (v3 0xC3 g 1 0 a 0 0 0 (if cl then 8 else 0))
  | .osreset g cl a b => some (v3 0xC3 g 2 0 a b 0 0 (if cl then 8 else 0))
  | .osquery g la cl d a => some (v3 0xC3 g 3 d a 0 0 0 (if cl then 8 else 0) la)
  | .bar g b => some (v3 0xC4 g 0 0 0 0 (0#6 ++ b) 0 0)
  | .phase g grp op a => some (v3 0xC5 g 0 0 a 0 grp 0 op.code)
  | .grpq g la q d grp => some (v3 0xC6 g 0 d 0 0 grp 0 q.code la)
  | .mbinit g a off d => some (mem 0xC7 g 0 0 0 (.so a off) d 0 0)
  | .mbexp g a off d => some (mem 0xC7 g 0 1 0 (.so a off) d 0 0)
  | .mbarr g sc a off => some (mem 0xC7 g 0 2 0 (.so a off) 0 0 sc.code)
  | .mbwait g sc d a off => some (mem 0xC7 g 0 3 0 (.so a off) d 0 sc.code)
  | .mbwaitCur g sc d a off => some (mem 0xC7 g 0 3 1 (.so a off) d 0 sc.code)
  | .mbtest g sc d a off => some (mem 0xC7 g 0 4 0 (.so a off) d 0 sc.code)
  | .mbtestSnap g d a off => some (mem 0xC7 g 0 4 1 (.so a off) d 0 0)
  | .mcfgTy g ta tb => some (v3 0xE0 g 0 0 0 0 (n4 tb.code) ta.code 0)
  | .mcfgA g a b => some (v3 0xE0 g 1 0 a b 0 0 0)
  | .mcfgB g a b => some (v3 0xE0 g 2 0 a b 0 0 0)
  | .mcfgAx g a b => some (v3 0xE0 g 3 0 a b 0 0 0)
  | .mcfgBx g a b => some (v3 0xE0 g 4 0 a b 0 0 0)
  | .mcfgK g a => some (v3 0xE0 g 5 0 a 0 0 0 0)
  | .mloop g acc (.imm n) ni => some (v3 0xE1 g 0 (n4 acc) 0 0 n 0 (if ni then 2 else 0))
  | .mloop g acc (.reg a) ni => some (v3 0xE1 g 0 (n4 acc) a 0 0 0 (if ni then 3 else 1))
  | .mzero g t acc => some (v3 0xE2 g 0 (n4 acc) 0 0 0 t.code 0)
  | .mmova g la f d acc r => some (v3 0xE3 g 0 (n4 acc) d 0 (n5 r) 0 f.code la)
  | .mmovv g f acc a r => some (v3 0xE4 g 0 (n4 acc) a 0 (n5 r) 0 f.code)
  | .msta g t a b acc => some (v3 0xE5 g 0 (n4 acc) a b 0 t.code 0)
  | .mcoop g acc a ti tj id ni => some (v3 0xE6 g 0 (n4 acc) a 0 (0#2 ++ ti ++ tj) 0 (BitVec.ofBool ni ++ id))
  | .mfree g acc => some (v3 0xE7 g 0 (n4 acc) 0 0 0 0 0)
  | .ckick g dc a => some (asy 0xD0 g dc 0 a 0 0 0)
  | .enq g a b => some (asy 0xD1 g 0 0 a b 0 0)
  | .deq g la d a => some (asy 0xD2 g 0 d a 0 0 0 la)
  | .qtry g la d a q => some (asy 0xD3 g 0 d a 0 (n4 q) 0 la)
  | .tspawn g dc a b => some (asy 0xD4 g dc 0 a b 0 0)
  | .cont g a b n r => some (asy 0xD5 g 0 0 a b (0#2 ++ r ++ n) 0)
  | .bgemv g dc acc bf a b => some (asy 0xD6 g dc 0 a b 0 (0#3 ++ BitVec.ofBool bf ++ BitVec.ofBool acc))
  | .bstat g la q d => some (asy 0xD7 g 0 d 0 0 0 q.code la)
  | .rtrace g dc gen p a b c => some (asy 0xD8 g dc 0 a b c (0#1 ++ BitVec.ofBool gen ++ p))
  | .rtquery g la gen d a b => some (asy 0xD9 g 0 d a b 0 (if gen then 8 else 0) la)
  | .msvtx g n a b c => some (asy 0xDA g 0 0 a b c n)
  | .msprim g a b c => some (asy 0xDB g 0 0 a b c 0)
  | .msend g a b => some (asy 0xDC g 0 0 a b 0 0)
  | .fsout g t n a => some (v3 0xDD g 0 0 a 0 0 t.code (0#2 ++ n))
  | .gzread g la d a => some (asy 0xDE g 0 d a 0 0 0 la)
  | .sread g la vec d sp => some (sys 0xF0 g vec d 0 sp.code la)
  | .swrite g vec a sp => some (sys 0xF1 g vec 0 a sp.code)
  | .trap g code => some (sys 0xF2 g false 0 0 code)
  | .eret g => some (sys 0xF3 g false 0 0 0)
  | .halt g code => some (sys 0xF4 g false 0 0 code)
  | .ckpt g => some (sys 0xF5 g false 0 0 0)
  | _ => none

/-- Whether the instruction is a paired word, whose slot has its `CLH.PAIR` bit set. -/
def Instr.isPaired : Instr → Bool
  | .pairedWord _ _ => true
  | _ => false

/-- The word of an instruction; none for an event of the machine. -/
def encode : Instr → Option Word64
  | .pairedWord hi lo => some (hi.bits ++ lo.bits)
  | i => (encodeFields i).map Fields.toWord

/-- The instruction that this decoder reads from the word `w` of an opcode-table row. A word that stands in a slot
without its `CLH.PAIR` bit is read first; where that refuses, the word is read as a paired word (log entry 8). A row
given no bits, or fewer, has zeros above them. -/
def decodeTableWord (nbits w : Nat) : Option Instr :=
  let v : Word64 := BitVec.ofNat 64 (w % 2 ^ nbits)
  match decode false v with
  | .ok i => some i
  | .error _ =>
    match decode true v with
    | .ok i => some i
    | .error _ => none

end Sys2Proof
end

