-- ==== Sys2Proof/Machine/Warp.lean ====
section
/-! DEFINITION. The state of one warp: registers, clause state, trap registers, lookahead windows, husk, transactions
(spec/02 R29, spec/06 R183, R195, spec/08 R278, spec/12 R400 to R402, spec/16 R448). -/

namespace Sys2Proof.Machine

/-- One vector register: 32 lane words and a format tag (R29, R73). -/
structure VReg where
  x : Lanes
  tag : Tag
  deriving DecidableEq, Repr

/-- Lanes all holding `c`. -/
def Lanes.all (c : Word32) : Lanes := Vector.replicate 32 c

/-- A vector register at warp start: 0, tag 0 (Table 2.1). -/
def VReg.zero : VReg := ⟨Lanes.all 0, 0⟩

/-- One accumulator: 32 rows of 32 words, a tag, and whether the name is bound (R298, R299). -/
structure Acc where
  bound : Bool
  tag : Tag
  x : List Lanes
  deriving DecidableEq, Repr

/-- An unbound accumulator reads as +0.0 with tag 3 (R298). -/
def Acc.unbound : Acc := ⟨false, 3, List.replicate 32 (Lanes.all 0)⟩

/-- Matrix configuration (Table 9.2). -/
structure MatCfg where
  abase : BitVec 56
  astr : Word32
  axb : BitVec 56
  axs : Word32
  bbase : BitVec 56
  bstr : Word32
  bxb : BitVec 56
  bxs : Word32
  aty : BitVec 4
  bty : BitVec 4
  kpos : Word32
  deriving DecidableEq, Repr

/-- Matrix configuration at warp start (Table 9.2). -/
def MatCfg.start : MatCfg := ⟨0, 0, 0, 0, 0, 0, 0, 0, 4, 4, 0⟩

/-- Special registers that a warp holds (R77, R78, R448, R126, R321, R377). -/
structure Spr where
  fmode : Word64
  fflags : Word64
  tcause : Word64
  taddr : Word64
  tlanes : Word32
  tvec : Word64
  mprog : Word64
  rangeLo : Word64
  rangeHi : Word64
  gazeAz : Word32
  gazeEl : Word32
  gazeTime : Word64
  gazeSeq : Word32
  deriving DecidableEq, Repr

def Spr.start : Spr := ⟨0, 0, 0, 0, 0, 0, 0, 0, 0, 0, 0, 0, 0⟩

/-- Kinds of warp (R321, R323, R334, R381, R388, R393). -/
inductive WarpKind
  | member | task | tiller | mesh | fragment | recon
  deriving DecidableEq, Repr

/-- Identity of a warp (R45, R321). `core` is the original core index of `ID_CORE` (R59). -/
structure Ident where
  ctx : Nat
  lid : Nat
  sid : Nat
  member : Nat
  idWarp : Nat
  role : Nat
  kind : WarpKind
  idSheaf : Word32
  idWg : Word64
  core : Nat
  deriving DecidableEq, Repr

/-- Clause state (R183): whether the warp is inside a clause, its header's address and fields, the slot of its next word,
and whether a word of the clause trapped or its turn ended within it (R453). -/
structure Clause where
  inside : Bool
  addr : Nat
  slot : Nat
  hdr : Header
  broken : Bool
  deriving DecidableEq, Repr

def Clause.none : Clause := ⟨false, 0, 0, ⟨0, 0, 0, 0, 0, 0⟩, false⟩

/-- A register written back later: a vector register's lanes and tag, a scalar, or a predicate's bits. -/
inductive WB
  | v (n : Nat) (m : Mask) (x : Lanes) (t : Tag)
  | s (n : Nat) (x : Word64)
  | p (n : Nat) (m x : Mask)
  deriving DecidableEq, Repr

/-- A lookahead window (R195): words left, the registers of the pending destination, whether the destination has been
written, the husk entry or pipeline operation that writes it, and whether trap entry suspended the window (R451). -/
structure Win where
  id : Nat
  left : Nat
  regs : List (RegCls × Nat)
  done : Bool
  pipe : Bool
  susp : Bool
  deriving DecidableEq, Repr

/-- An operation in the core's pipelines (R213) and the registers that its completion writes. -/
structure PipeOp where
  id : Nat
  wb : List WB
  deriving DecidableEq, Repr

/-- Idempotence class of a husk entry (Table 12.1). -/
inductive HkClass
  | I | D | O
  deriving DecidableEq, Repr

/-- State of a husk entry (Table 12.1 `HK.STATE`). -/
inductive HkState
  | outstanding | awaiting | stopped
  deriving DecidableEq, Repr

/-- A husk entry (Table 12.1): the captured operands of one operation, and what it has done so far. `planes` and `pend`
are `HK.PLANES` and `HK.PEND`; `perf` the lanes performed at their place and not yet answered; `data` up to eight words a
lane; `psn` marks the data registers that carried tag 15; `region` the region in which the operation issued; `closes` the
region that it ends, when it is a boundary; `txl` the lanes that issued it in a transaction; `parked` whether its warp
is parked on it; `chunks` landed pieces above a watermark, as (member, start, end). At a freeze `sent` holds the lanes whose request is on its way to
its place (R409, R410); after it, `queued` says that a replay has still to issue the entry and `rep` that its requests carry the
replay bit (R404, R415). -/
structure HkEntry where
  instr : Instr
  seq : BitVec 16
  cls : HkClass
  state : HkState
  rm : BitVec 2
  port : Bool
  planes : Mask
  pend : Mask
  perf : Mask
  prog : Nat
  cause : Code8
  faddr : Word64
  addr : Vector Word64 32
  data : List Lanes
  psn : List Bool
  scal : List Word64
  cfg : MatCfg
  region : Nat
  closes : Option Nat
  txl : Mask
  parked : Bool
  chunks : List (Nat × Nat × Nat)
  sent : Mask
  queued : Bool
  rep : Bool
  deriving DecidableEq, Repr

/-- A byte that a lane has buffered in its transaction (R169), and whether its word carries poison. -/
structure TxWrite where
  lane : Nat
  addr : Nat
  byte : Byte
  psn : Bool
  deriving DecidableEq, Repr

/-- Per-lane transaction state (Table 8.6), and the sets of R169: words read with the values recorded, bytes written. -/
structure Tx where
  inTx : Mask
  doomed : Mask
  resume : Vector Word64 32
  pred : Vector (BitVec 4) 32
  cause : Vector Byte 32
  code : Vector Byte 32
  reads : List (Nat × Nat × Word32)
  writes : List TxWrite
  deriving DecidableEq, Repr

def Tx.start : Tx :=
  ⟨0, 0, Vector.replicate 32 0, Vector.replicate 32 0, Vector.replicate 32 0, Vector.replicate 32 0, [], []⟩

/-- Why a warp is not in its turn (R55, R56, R217, R507). -/
inductive Slot
  | turn
  | ready
  | waiting
  | parked
  | finished
  deriving DecidableEq, Repr

/-- What a Waiting or turn-ended warp waits for: a counter mask (WAIT, `CLH.WAIT`), a wake time (SLEEP), a checkpoint
(CKPT), a page that is not present (R466, R325), the windows whose destinations the next clause's first word reads (R55), room in a full husk (R258, R366);
other waits are conditions of its windows and husk. -/
structure Waits where
  mask : BitVec 6
  wake : Word64
  ckpt : Option Nat
  page : Option Nat
  first : List Nat
  full : Bool
  deriving DecidableEq, Repr

def Waits.none : Waits := ⟨0, 0, Option.none, Option.none, [], false⟩

/-- A request of a leading copy under a word count (R502): the read of a forwarded register with its value, or a HALT, which is `done` once
its twin's has matched. -/
structure PairRead where
  n : Nat
  word : Word64
  lanes : Mask
  x : Word64
  done : Bool
  deriving DecidableEq, Repr

/-- One warp. `v`, `s`, `acc` are as long as its budgets (R41). `nseq` is the next sequence number (R400). `region` is
the region of the accesses that issue now, `opened` the step at which each open region's opening boundary was performed
(R143). `mids` are clauses that lanes returned into by ERET and have not reached again (R452); `dbg` the values of
DBG0 and DBG1 as the last clause header found them (R449). `turnWords` counts the words of its turn (R55), `held` is the `CLOCK` since which its next word waits inside a
clause (R56), `wslot` is its warp slot (R54); `issued` the words issued since the sheaf started (R504); `suppress` the lanes that returned by ERET and have issued nothing since (R452). `vals` holds, by group, the value of the last phase that completed before
the warp's last resumption from a PHASE (R292); `reads` and `traps` the requests of a leading warp under its word counts, and the counts at which it
trapped, since the last checkpoint (R502, R505). -/
structure Warp where
  vw : Nat
  ident : Ident
  vpc : Vector Word64 32
  v : List VReg
  s : List Word64
  p : Vector Mask 16
  acc : List Acc
  dc : Vector Nat 6
  spr : Spr
  cfg : MatCfg
  clause : Clause
  mids : List Clause
  dbg : Word64 × Word64
  wins : List Win
  pipe : List PipeOp
  husk : List HkEntry
  nseq : BitVec 16
  tx : Tx
  slot : Slot
  waits : Waits
  readyAt : Nat
  turnWords : Nat
  held : Option Nat
  wslot : Nat
  region : Nat
  opened : List (Nat × Nat)
  suppress : Mask
  issued : Nat
  vals : List (Nat × Word64)
  reads : List PairRead
  traps : List Nat
  deriving DecidableEq, Repr

end Sys2Proof.Machine
end

