-- ==== Sys2Proof/Machine/Memory.lean ====
section
/-! DEFINITION. The state of memory and of the places that perform accesses (spec/04, spec/05, spec/12 R404). -/

namespace Sys2Proof.Machine

/-- Bytes of a sparse memory: strictly rising addresses, and no entry equal to what an unlisted address reads as. -/
abbrev Bytes := List Host.Cell

/-- What an unlisted byte reads as: scratchpad reads as zero at sheaf start (R38); for device memory the manual gives
no power-on contents, and the model takes 0 (log entry 2). -/
def Bytes.unlisted : Byte := 0

/-- The canonical form of a sparse memory. -/
def Bytes.wf : Bytes → Bool
  | [] => true
  | [c] => c.2 != Bytes.unlisted
  | c :: d :: r => c.2 != Bytes.unlisted && decide (c.1 < d.1) && Bytes.wf (d :: r)

/-- A party of the ordering rules (R141): a warp, an engine transfer (its warp and sequence number), or a warp of another
device of the system binding (R176). -/
inductive Party
  | warp (vw : Nat)
  | xfer (vw : Nat) (seq : BitVec 16)
  | remote (dev ctx vw : Nat)
  deriving DecidableEq, Repr

/-- A place in memory: a device-memory byte, a byte of a sheaf's scratchpad (the sheaf, its core j, the slice offset),
or a byte of another device's window address space. -/
inductive Loc
  | dram (pa : Nat)
  | scr (sid core off : Nat)
  | sys (va : Nat)
  deriving DecidableEq, Repr

/-- A race record (R146): the word, its context, party and region, and whether the access wrote. -/
structure RaceRec where
  loc : Loc
  ctx : Nat
  party : Party
  region : Nat
  write : Bool
  deriving DecidableEq, Repr

/-- A place that performs requests and keeps chaff records (R404, Table 12.4): that of a memory word, a cluster unit, a key's home
slice, the queue SRAM of a die, its range-task store, its winnower, a stack's logic die, the scheduler; of an emission the graphics units that
receive it, for whose records the manual names neither place nor capacity (log entry 68). -/
inductive Place
  | loc (l : Loc)
  | cluster (c : Nat)
  | keyHome (k : Word64)
  | queue (die q : Nat)
  | tasks (die : Nat)
  | winnower (die : Nat)
  | stack (k : Nat)
  | scheduler (group : Nat)
  | graphics
  deriving DecidableEq, Repr

/-- A chaff record (Table 12.2). `vals` are the entries held aside of a DEQ or QTRY. -/
structure Chaff where
  ctx : Nat
  vw : Nat
  kind : Nat
  seq : BitVec 16
  lanes : Mask
  value : Word64
  place : Place
  vals : List (BitVec 128)
  deriving DecidableEq, Repr

/-- An ordered-section key (R172): context, cluster of a `.cl` key (none for `.dv`), key value, and the entry;
`poisoned` is the reason of Table 17.4, `lid` the launch whose operation made the entry (R361). -/
structure KeyEnt where
  ctx : Nat
  lid : Nat
  cluster : Option Nat
  key : Word64
  next : Word32
  held : Nat
  holder : Option Nat
  mask : Mask
  poisoned : Option Nat
  deriving DecidableEq, Repr

/-- A deferred arrival (Table 12.6a); `cluster` is the cluster unit that holds it, `lid` the launch that owns it, `bytes` the byte count of
an MBINIT, for which the table has no field (log entry 85). -/
structure Deferred where
  cluster : Nat
  ctx : Nat
  lid : Nat
  sid : Nat
  core : Nat
  off : Nat
  kind : Nat
  value : Word32
  bytes : Word32
  order : Word32
  deriving DecidableEq, Repr

/-- A line held in a core's L1: physical line address, bytes, poisoned words, the step at which it was filled, and the key under which it
was read (R133). -/
structure L1Line where
  core : Nat
  line : Nat
  bytes : List Byte
  psn : List Nat
  stamp : Nat
  key : BitVec 512
  deriving DecidableEq, Repr

/-- A line held in a core's instruction cache (R136, R137): context, virtual line address, its eight-byte words as
bytes, poisoned words, the sheaves that pin it, and the key under which it was read (R133). -/
structure ILine where
  core : Nat
  ctx : Nat
  line : Nat
  bytes : List Byte
  psn : List Nat
  pins : List Nat
  key : BitVec 512
  deriving DecidableEq, Repr

/-- A cached translation (R123, R124): context, base and size of the page, leaf entry, level. -/
structure TlbEnt where
  ctx : Nat
  base : Nat
  size : Nat
  pte : Word64
  level : Nat
  deriving DecidableEq, Repr

/-- An XTS key pair of a key slot (R433, R435): its owner context and value. -/
structure KeySlot where
  slot : Nat
  owner : Nat
  key : BitVec 512
  deriving DecidableEq, Repr

/-- Memory and the places. `dram` holds the plaintext of device memory with compressed lines as written; `skeys` the key
under which each written 32-byte sector stands; `psn` the poisoned aligned words (address / 4); `badck` chunks of 64
bytes (address / 64) whose check value no longer matches, with the value they hold; `pins1` pins at level 1 (context, line);
`deferNo` is each cluster unit's next arrival number; `touched` the lines stored to in this step (R343); `stale` what lines of bank-layout pages held before stores that the
stack may not have received yet, oldest first, with the key under which it stood (R168); `owner` the key under which a compressed line was
last written, none once its tag has been made RAW (R130). -/
structure Mem where
  dram : Bytes
  skeys : List (Nat × BitVec 512)
  psn : List Nat
  badck : List (Nat × Word32)
  l1 : List L1Line
  il : List ILine
  pins1 : List (Nat × Nat)
  tlb : List TlbEnt
  race : List RaceRec
  chaff : List Chaff
  keys : List KeyEnt
  defer : List Deferred
  deferNo : List (Nat × Word32)
  slots : List KeySlot
  touched : List Loc
  stale : List (Nat × BitVec 512 × List Byte)
  owner : List (Nat × Option (BitVec 512))
  deriving DecidableEq, Repr

def Mem.reset : Mem := ⟨[], [], [], [], [], [], [], [], [], [], [], [], [], [], [], [], []⟩

end Sys2Proof.Machine
end

