-- ==== Sys2Proof/Machine/Launches.lean ====
section
/-! DEFINITION. The state of launches, sheaves, named groups, work queues, range tasks and continuation pools
(spec/02 R36 to R67, spec/09 R316 to R323, spec/10 R352 to R363, spec/12 R421, spec/17, spec/19). -/

namespace Sys2Proof.Machine

/-- A role descriptor (Table 2.4): `scr` in bytes. -/
structure Role where
  pc : Nat
  vblk : Nat
  sregs : Nat
  acc : Nat
  scr : Nat
  warps : Nat
  deriving DecidableEq, Repr

/-- A launch record (Table 2.3); `shape` is the core count. -/
structure LRec where
  paired : Bool
  restart : Bool
  atOnce : Bool
  graphics : Bool
  shape : Nat
  wgs : Nat
  prio : Nat
  nsheaf : Nat
  slack : Nat
  retry : Nat
  spill : Nat
  quota : Nat
  roles : List Role
  deriving DecidableEq, Repr

/-- A group of a launch (Table 2.5) and its current phase: number, the warps that have arrived, their contributions
(workgroup, warp, operation, value), the value of the last completed phase, and whether the arrival message of a system group
has been sent (R360). -/
structure Group where
  idx : Nat
  all : Bool
  members : List Nat
  sys : Bool
  ndev : Nat
  sysid : Nat
  phase : Word32
  arrived : List Nat
  contrib : List (Nat × Nat × POp × Word64)
  last : Word64
  sent : Bool
  deriving DecidableEq, Repr

/-- A work queue (R316): its entries, of which the last are spilled as the pages say, parked DEQs (warp, sequence number)
oldest first, and whether it is poisoned (R490). -/
structure WQueue where
  q : Nat
  ents : List (BitVec 128)
  parked : List (Nat × BitVec 16)
  poisoned : Bool
  deriving DecidableEq, Repr

/-- A spill page in use (R362): its number in the ring, kind and instance, page sequence number, records written to it and
not yet refilled, and the page as the overflow engine wrote it, whose CRC-32C it keeps. -/
structure SpillPage where
  page : Nat
  kind : Nat
  inst : Nat
  seq : Nat
  n : Nat
  left : Nat
  img : List Byte
  deriving DecidableEq, Repr

/-- A range task (R320, R352): its die, the warp and husk entry that spawned it, the remaining interval, the sheaves of the
pieces still running, and whether the whole interval has been handed out. -/
structure Task where
  id : Nat
  die : Nat
  vw : Nat
  seq : BitVec 16
  pc : Nat
  lo : Nat
  hi : Nat
  grain : Nat
  role : Nat
  args : List Word64
  running : List Nat
  whole : Bool
  deriving DecidableEq, Repr

/-- A tiller (Table 9.7): `word` pairs each live word with its tag. -/
structure Tiller where
  pc : Nat
  role : Nat
  kind : Nat
  words : List (Word32 × Tag)
  deriving DecidableEq, Repr

/-- A bin of a die's winnower (R354): its key, its tillers with the cycle at which each joined or was refilled, whether
it is to form a warp, and that warp's sheaf until it is placed (R355). -/
structure Bin where
  die : Nat
  lid : Nat
  pc : Nat
  role : Nat
  tillers : List (Tiller × Nat)
  formed : Bool
  sid : Option Nat
  deriving DecidableEq, Repr

/-- States of a launch: an ADMIT launch waits until it is placed whole (R66). A launch that has ended is gone. -/
inductive LState
  | waiting | admitted
  deriving DecidableEq, Repr

/-- A tiller that its ray engine has traced and whose spill breached the quota: the spill is retried at RESUME (R481). -/
structure OwedTiller where
  vw : Nat
  seq : BitVec 16
  lane : Nat
  die : Nat
  tiller : Tiller
  deriving DecidableEq, Repr

/-- A launch. `node` names the graph instance and node that started it; `held` says that no sheaf of it may issue until
RESUME (quota breach); `pool` holds the spilled tillers of each die, `owed` those whose spill breached; `rows`, `rays` and `rayinv` count for BSTAT; `view` is the
stream of a launch made from a template (R381), which sends no record. -/
structure Launch where
  lid : Nat
  ctx : Nat
  queue : Nat
  packet : Nat
  node : Option (Nat × Nat)
  order : Nat
  r : LRec
  args : List Word64
  groups : List Group
  state : LState
  held : Bool
  queues : List WQueue
  pages : List SpillPage
  tasks : List Task
  pool : List (Nat × Tiller)
  owed : List OwedTiller
  rows : Nat
  rays : Nat
  rayinv : Nat
  view : Option Nat
  deriving DecidableEq, Repr

/-- States of a sheaf (Table 10.11). -/
inductive SState
  | unstarted | resident | frozen | saved | retired
  deriving DecidableEq, Repr

/-- Why a sheaf is Frozen: pre-emption, HALT, a fault, a quota breach, a deadlock, a checkpoint or rollback (R359, R447,
R454, R363, R477, R507). -/
inductive Why
  | none | evict | halt | fault | quota | deadlock | pair | cancel
  deriving DecidableEq, Repr

/-- A BAR barrier of a member (R290, R421): the warps that have arrived in the round, those of the next round, and the
round's parity. -/
structure Barrier where
  member : Nat
  b : Nat
  mask : Mask
  next : Mask
  parity : Bool
  deriving DecidableEq, Repr

/-- What one warp of a sheaf pair forwards, or has compared, under a sequence number (R502, R503, R508): the signature of
the request, and the values that the trailing copy receives; `left` the lanes still to be performed, and how far an engine has carried it. -/
structure PairLog where
  member : Nat
  idWarp : Nat
  seq : BitVec 16
  sig : Word32
  data : List Lanes
  psn : List Bool
  scal : List Word64
  mask : Mask
  left : Mask
  prog : Nat
  chunks : List (Nat × Nat × Nat)
  deriving DecidableEq, Repr

/-- The image of one copy of a sheaf pair (R507): its warps, scratchpad, poison and barriers. -/
structure PairImg where
  warps : List Warp
  scr : Bytes
  psn : List Nat
  bars : List Barrier
  deriving DecidableEq, Repr

/-- What the leading copy of a sheaf pair keeps (R502 to R510): results that the trailing copy has not taken, the pair log
since the last checkpoint, the records that a re-execution meets again, the rollbacks since the checkpoint, whether a
checkpoint is requested, whether a mismatch has been found, and the images of the last checkpoint (none: the starting
state). -/
structure PairSt where
  fwd : List PairLog
  log : List PairLog
  again : List PairLog
  retries : Nat
  want : Bool
  bad : Bool
  img : Option (PairImg × PairImg)
  deriving DecidableEq, Repr

def PairSt.start : PairSt := ⟨[], [], [], 0, false, false, none⟩

/-- A store that a restartable workgroup holds back (R512): its member and warp, the sequence number, instruction, lane and
lane address that a fault of it names (R145), where it goes under which leaf entry, its bytes and poison. -/
structure HeldStore where
  member : Nat
  vw : Nat
  seq : BitVec 16
  instr : Instr
  lane : Nat
  va : Nat
  loc : Loc
  pte : Word64
  data : List Byte
  psn : Bool
  deriving DecidableEq, Repr

/-- Where a 64 KiB piece of a saved image lies (R412): a unit of a core's scratchpad or of its register file, or of the save
reserve. -/
inductive PieceAt
  | scr (core k : Nat)
  | reg (core k : Nat)
  | reserve (k : Nat)
  deriving DecidableEq, Repr

/-- A sheaf. `areas` are the bases of its scratchpad allocations, core by core (R106, R357), `pieces` the places of its saved
image. `orig` and `cur` are the first core index of its original and its present placement (R59); `scr` and `psn`
its scratchpad bytes and poisoned words, where byte o of the slice of sheaf core j is at j × 2^20 + o; `img` the cause for which
its saved image fails its check, if it does (R424, R480); `clean`, `stores` and `order` the restart state (R512, R513), `order` the stores, by
warp and sequence number, that have issued and have still to enter the buffer; `twin` the other copy of a paired
sheaf and `trail` whether it is the trailing copy (R500); `zone` the first core and number of cores to which a template or
formed warp is confined (R355, R381); `shun` the clusters that a relaunch avoids (R509, R514); `seed` the warps with which a
sheaf starts that is formed from a task, tillers or a template. -/
structure Sheaf where
  sid : Nat
  lid : Nat
  idx : Nat
  kind : WarpKind
  state : SState
  why : Why
  orig : Nat
  cur : Nat
  areas : List Nat
  pieces : List PieceAt
  placed : Nat
  scr : Bytes
  psn : List Nat
  bars : List Barrier
  img : Option Code8
  frozenAt : Nat
  clean : Bool
  stores : List HeldStore
  order : List (Nat × BitVec 16)
  twin : Option Nat
  trail : Bool
  pair : PairSt
  restarts : Nat
  zone : Option (Nat × Nat)
  shun : List Nat
  seed : List Warp
  deriving DecidableEq, Repr

end Sys2Proof.Machine
end

