-- ==== Sys2Proof/Machine/Command.lean ====
section
/-! DEFINITION. The state of the command side, of placement, of the ports and of time (spec/10 R337 to R351, R364,
spec/13, spec/17 R463, spec/18, spec/19 R517 to R521). -/

namespace Sys2Proof.Machine

/-- What a running packet waits for (R341, R345). `graph` names an instance; `waitw` a word, a value and a condition;
`unmap` a queue; `ctxdel` a context; `config` a stream; `test` the cores of a test package not yet handled, the package
identifier and its result area. -/
inductive RunKind
  | launch (lid : Nat)
  | graph (inst : Nat)
  | waitw (addr : Nat) (val : Word64) (cond : Nat)
  | unmap (q : Nat)
  | ctxdel (ctx : Nat)
  | config (stream : Nat)
  | test (op : Nat) (cores : List Nat) (id : Word32) (result done : Nat)
  deriving DecidableEq, Repr

/-- A started packet that has not completed: packet count, `PK.TYPE`, `PK.TAG`, `PK.CMPL`, completion signal. -/
structure Running where
  n : Nat
  typ : Nat
  tag : Word32
  cmpl : Bool
  siga : Nat
  sigv : Word64
  kind : RunKind
  deriving DecidableEq, Repr

/-- A mapped command queue (R337, R338, R345). `recNo` numbers its completion records; `qp` is the queue pair at the host, `dqp` that
at the device (R429), `port` the port of its connection; `lost` says that the connection is in the error state (R496). -/
structure Queue where
  q : Nat
  ctx : Nat
  k : Nat
  ring : Nat
  cring : Word64
  rkey : Word32
  logS : Nat
  qp : Nat
  dqp : Nat
  port : Nat
  h : Nat
  t : Nat
  recNo : Nat
  running : List Running
  unmapping : Bool
  lock : Option Nat
  lost : Bool
  deriving DecidableEq, Repr

/-- A page record of a fault batch (Table 17.3); `wait` is counted when the batch closes. -/
structure PageRec where
  ctx : Nat
  page : Nat
  rd : Bool
  wr : Bool
  ex : Bool
  hint : Bool
  level : Nat
  wait : Nat
  deriving DecidableEq, Repr

/-- An event of the hardware event queue (R347): a queue with packets to start, a closed fault batch, a launch node of a graph to admit, or a
HALT (kind 0), a quota breach (1) or a retirement (2) of a launch, or a timer (3), whose effects do not wait for the core (log entry 90). -/
inductive CmdEv
  | queue (q : Nat)
  | batch (die : Nat) (recs : List PageRec)
  | node (ctx inst v : Nat)
  | note (kind lid : Nat)
  deriving DecidableEq, Repr

/-- States of a command core (R347, R488). -/
inductive FcState
  | idle
  | busy (e : CmdEv)
  | reboot
  | out
  deriving DecidableEq, Repr

/-- A command core: the times (ns) of its hangs, since when it has been in service, and when it took the event that it holds. -/
structure Fc where
  state : FcState
  hangs : List Nat
  up : Nat
  took : Nat
  deriving DecidableEq, Repr

/-- A context (R345, R346, R449). -/
structure Ctx where
  id : Nat
  root : Nat
  ceiling : Nat
  dbg0 : Word64
  dbg1 : Word64
  deleting : Bool
  deriving DecidableEq, Repr

/-- States of a graph node in the current generation (R350, R491). -/
inductive NState
  | idle | running | ended | done | cancelled
  deriving DecidableEq, Repr

/-- A node of a loaded graph (Table 10.8): kind, predecessors, successors, and what it acts with: the launch record and
arguments of a launch node, or the five words of a packet body. -/
structure GNode where
  kind : Nat
  init : Nat
  succ : List Nat
  body : List Word64
  rcd : Option LRec
  args : List Word64
  groups : List Group
  cnt : Nat
  gen : Word32
  state : NState
  deriving DecidableEq, Repr

/-- A graph instance (R349, R351): generation, nodes, whether the current generation is poisoned, and the queue and packet
of its arm, and the first failure of a node in the generation with its descriptors (log entry 14). -/
structure Graph where
  ctx : Nat
  inst : Nat
  g : Word32
  nodes : List GNode
  poisoned : Bool
  armed : Option (Nat × Nat)
  failed : Option (Nat × List (List Word64))
  deriving DecidableEq, Repr

/-- An event packet (Table 18.1); `body` holds `EV.BODY` as five words, `items` the items as words. -/
structure Ev where
  typ : Nat
  ctx : Nat
  queue : Nat
  packet : Nat
  stream : Nat
  time : Word64
  body : List Word64
  items : List (List Word64)
  deriving DecidableEq, Repr

/-- A peer entry (R431). -/
structure Peer where
  ctx : Nat
  dev : Nat
  ip : BitVec 128
  port : Nat
  qp : Nat
  pctx : Nat
  lost : Bool
  deriving DecidableEq, Repr

/-- A fault batch of a die (R463): when its first record entered, and its records. -/
structure Batch where
  die : Nat
  opened : Nat
  recs : List PageRec
  deriving DecidableEq, Repr

/-- An arrival message of a system phase that this device holds as coordinator (R360): context, `GT.SYSID`, sending device,
phase, and the combined contribution. -/
structure SysArr where
  ctx : Nat
  sysid : Nat
  dev : Nat
  phase : Word32
  op : POp
  value : Word64
  deriving DecidableEq, Repr

/-- Command-side state. `evq` is the hardware event queue, oldest first; `unsent` the events held before CONFIG or when the
store is full, `evSeq` and `evLost` the counts of R483; `lids` the number of launches admitted so far; `fallback` the
queue that the fallback scheduler served last, `fbLocks` the queue whose lock each rebooting core held; `deadSince` since when
each context has met R477; `sysArr` the system-phase arrivals held. -/
structure Cmd where
  queues : List Queue
  evq : List CmdEv
  fcs : List Fc
  ctxs : List Ctx
  graphs : List Graph
  unsent : List Ev
  evSeq : Word32
  evLost : Nat
  peers : List Peer
  batches : List Batch
  bins : List Bin
  nextLid : Nat
  fallback : Nat
  fbLocks : List (Nat × Nat)
  deadSince : List (Nat × Nat)
  sysArr : List SysArr
  deriving DecidableEq, Repr

def Cmd.reset : Cmd :=
  { queues := [], evq := [], fcs := List.replicate 12 ⟨.idle, [], 0, 0⟩, ctxs := [], graphs := [], unsent := [], evSeq := 0,
    evLost := 0, peers := [], batches := [], bins := [], nextLid := 1, fallback := 0, fbLocks := [], deadSince := [], sysArr := [] }

/-- BALANCE limits of a cluster (Table 10.14) and the number of its graphics cores (R364). -/
structure Bal where
  g : Nat
  gmin : Nat
  gmax : Nat
  fixed : Bool
  deriving DecidableEq, Repr

/-- Cores and power (R21, R24, R364, R492, R517, R518, R521). `maps` holds the nonzero `LANEMAP` values by core; `cfrac` the
thousandths of an ACLK cycle that have passed beyond `clock`; `sampled` the time of each die's last power sample; `balanced` the
time of the balancer's last step. -/
structure Cores where
  bal : List Bal
  maps : List (Nat × Word64)
  out : List Nat
  test : List Nat
  clock : List Word64
  cfrac : Nat
  throttle : List Nat
  sampled : List (Option Nat)
  banks : List (Nat × Nat)
  balanced : Nat
  deriving DecidableEq, Repr

/-- `CLOCK` of each cluster at the moment at which the last cluster leaves reset, 1,840 µs after the I/O die: 940 cycles a
microsecond since its own time (R20, R21, Table 13.5). -/
def releaseClocks : List Word64 := (List.range 48).map fun c => BitVec.ofNat 64 (940 * (940 - 20 * c))

def Cores.reset : Cores :=
  { bal := List.replicate 48 ⟨0, 0, 24, false⟩, maps := [], out := [], test := [], clock := releaseClocks, cfrac := 0,
    throttle := List.replicate 8 0, sampled := List.replicate 8 none, banks := [], balanced := 0 }

/-- A port (R425, R427, R496, R499): link, drop count, whether the count changed since its last report, its global and its
link-local address (Table 13.1), the lossless priorities paused, since when the link is down, and the time of the last periodic report. -/
structure Port where
  up : Bool
  drops : Word32
  changed : Bool
  addr : BitVec 128
  linkLocal : BitVec 128
  paused : Byte
  downAt : Nat
  reported : Nat
  deriving DecidableEq, Repr

/-- Send rate of a connection (R426), `num` / 2 ^ `halves` Mbit/s; the time of the last notification sent and of the last one
received or step taken. A connection is numbered as `connOf` says. -/
structure Rate where
  q : Nat
  num : Nat
  halves : Nat
  sentAt : Option Nat
  lastAt : Nat
  deriving DecidableEq, Repr

/-- What leaves the package: an RDMA WRITE of a completion record, an event SEND, an RDMA READ response, a NAK, a UDP
datagram, a tile packet, a congestion notification, an ICMPv6 answer, a system-scope message to a peer. -/
inductive Out
  | record (q : Nat) (addr : Word64) (rkey : Word32) (data : List Word64) (imm : Option Word32)
  | event (e : List Word64)
  | read (q : Nat) (data : List Byte)
  | nak (q kind : Nat)
  | datagram (port : Nat) (data : List Byte)
  | tile (port : Nat) (data : List Byte)
  | cnp (q : Nat)
  | icmp (port : Nat) (data : List Byte)
  | sys (ctx dev : Nat) (data : List Word64)
  | delayReq (port : Nat) (domain : Byte) (stamp : Word64)
  deriving DecidableEq, Repr

/-- Time (R21, R436, R437, R498): the timebase and millionths of a nanosecond; nanoseconds still to run at half rate; lock; exchanges
below 100 ns and above 1 µs in a row; the last offset; the rate correction in millionths; the time of the last exchange. -/
structure Time where
  timebase : Word64
  frac : Nat
  half : Nat
  locked : Bool
  everLocked : Bool
  good : Nat
  bad : Nat
  offset : Int
  rate : Int
  lastSync : Nat
  deriving DecidableEq, Repr

/-- Start state and firmware (R428, R430, R434, R437 to R440). `starts` counts starts, which draws the nonce and the
exchange key; `host` is the host address of CONFIG; `announced` the time of the last announce; `staged` the staged image; `next` the version and bytes of the image used at the next start, `image` those
of the running one, none for the image in place at manufacture; `running` says that the start found an image that may run. -/
structure Start where
  powered : Bool
  running : Bool
  starts : Nat
  configured : Bool
  device : BitVec 20
  domain : Byte
  pfcMask : BitVec 16
  pfcA : BitVec 3
  pfcB : BitVec 3
  pfc2 : Bool
  clkord : List Nat
  host : BitVec 128
  seqMax : Option Nat
  announces : Nat
  announced : Option Nat
  staged : Bytes
  next : Option (Nat × List Byte)
  image : Option (Nat × List Byte)
  deriving DecidableEq, Repr

/-- Ports, time, start, and what has been sent. -/
structure Io where
  ports : List Port
  rates : List Rate
  neigh : List (Nat × BitVec 128 × BitVec 48)
  time : Time
  start : Start
  out : List Out
  deriving DecidableEq, Repr

/-- The timebase when the last cluster leaves reset (R437, Table 13.5). -/
def Time.reset : Time := ⟨1840000, 0, 0, false, false, 0, 0, 0, 0, 0⟩

/-- Start-up as it stands in the reset state: firmware runs, so the image in place at manufacture is taken to have passed the checks of R434
(log entry 115, DESIGN CHOICE). -/
def Start.reset : Start :=
  { powered := true, running := true, starts := 1, configured := false, device := 0, domain := 0, pfcMask := 0, pfcA := 0, pfcB := 0,
    pfc2 := false, clkord := [], host := 0, seqMax := none, announces := 0, announced := none, staged := [], next := none,
    image := none }

def Port.reset (k : Nat) : Port := ⟨false, 0, false, 0, Config.linkLocal k, 0, 0, 0⟩

/-- Log entry 1: the model's reset state is that of a powered device whose cold start has reached step 8 of Table 13.6. -/
def Io.reset : Io :=
  { ports := (List.range 16).map Port.reset, rates := [], neigh := [],
    time := Time.reset, start := Start.reset,
    out := [] }

end Sys2Proof.Machine
end

