-- ==== Sys2Proof/Machine/Views.lean ====
section
/-! DEFINITION. The state of view streams (spec/11). -/

namespace Sys2Proof.Machine

/-- A template record as read (R381): launch record and arguments. -/
structure Template where
  r : LRec
  args : List Word64
  deriving DecidableEq, Repr

/-- A view record (Table 11.2). -/
structure View where
  cluster : Nat
  addr : BitVec 128
  dport : Nat
  dmap : Nat
  tl : Word32
  tr : Word32
  tb : Word32
  tt : Word32
  m : List Word32
  eye : List Word32
  rot : List Word32
  deriving DecidableEq, Repr

/-- Geometry and timing of a view-stream record (Table 11.1). -/
structure VsRec where
  nstrip : Nat
  cwords : Nat
  nbuf : Nat
  rband : Nat
  stop : Bool
  port : Nat
  udp : Nat
  epoch : Nat
  frame : Nat
  sper : Nat
  goff : Nat
  bound : Nat
  guard : Nat
  nx : Nat
  ny : Nat
  dx : Nat
  dy : Nat
  ftab : Nat
  nftab : Nat
  hist : Nat
  ecc : List Word32
  dens : List Word32
  views : List View
  recon : Option Template
  deriving DecidableEq, Repr

/-- A gaze record as an accepted packet wrote it (R375), under the configuration of number `era`. -/
structure Gaze where
  era : Nat
  view : Nat
  az : Word32
  el : Word32
  stamp : Word64
  seq : Word32
  empty : Bool
  deriving DecidableEq, Repr

def Gaze.none : Gaze := ⟨0, 0, 0, 0, 0, 0, true⟩

/-- The segments of one axis (R379): breakpoints a[0..n], warped coordinates s[0..n], scales k[0..n-1], and the band of
each segment. -/
structure Segs where
  a : List Word32
  s : List Nat
  k : List Word32
  band : List Nat
  deriving DecidableEq, Repr

/-- The latch of a strip in one view (R376, R378): the key of its frame and the number of the frame's configuration. -/
structure Latch where
  key : Nat
  era : Nat
  strip : Nat
  view : Nat
  gaze : Gaze
  h : Segs
  vseg : Segs
  deriving DecidableEq, Repr

/-- A draw of a frame (R371). -/
structure Draw where
  idx : Nat
  mesh : Template
  frag : Template
  vmask : Word64
  nattr : Nat
  deriving DecidableEq, Repr

/-- A vertex as MSVTX set it (Table 9.14): position and attributes. -/
structure Vtx where
  idx : Nat
  pos : List Word32
  attr : List Word32
  deriving DecidableEq, Repr

/-- A primitive handed over by MSEND (R334, R382, R383): its place in primitive order (draw, meshlet, number of the MSEND, index),
its vertices, and the views it goes to. -/
structure Prim where
  draw : Nat
  meshlet : Nat
  ended : Nat
  idx : Nat
  vtx : List Vtx
  vmask : Word64
  deriving DecidableEq, Repr

/-- A frame that has started (R371, R373): its number, the `key` that no other frame of the stream has had, the number `era` of its
configuration, its record, when its geometry began, its draws, the primitives handed over and the number
of amplified ones, the strips latched so far, whether the draw watchdog has reset it, and the view front end's position in it: the draw of its
list and the meshlet to launch next, and the launch of a draw of which some meshlets are launched (else 0). -/
structure FrameSt where
  f : Nat
  key : Nat
  era : Nat
  vs : VsRec
  begun : Option Nat
  draws : List Draw
  prims : List Prim
  amp : Nat
  latched : Nat
  dead : Bool
  nd : Nat
  nm : Nat
  lid : Nat
  deriving DecidableEq, Repr

/-- A warp made from a template (R381, R388, R392): its sheaf and launch, what it works on (`key` is its frame's), and for a mesh warp the vertices and
primitives of its open meshlet and the MSENDs before it; `samples` are the samples bound to the lanes of a fragment warp. -/
structure VWarp where
  sid : Nat
  kind : WarpKind
  key : Nat
  strip : Nat
  view : Nat
  draw : Nat
  meshlet : Nat
  tile : Nat
  samples : List (Nat × Nat)
  vtx : List Vtx
  prims : List (Nat × Word32 × Word64)
  ended : Nat
  deriving DecidableEq, Repr

/-- A display tile of a strip (R393, R397): view, column and row, pixel words, source frame, whether it is a substitute, one with no
history, and whether it has departed. -/
structure DTile where
  view : Nat
  col : Nat
  row : Nat
  pix : List Word32
  late : Bool
  blank : Bool
  src : Word32
  gone : Bool
  deriving DecidableEq, Repr

/-- A strip from its latch on (R373, R387 to R398): its frame's number and key; for each view the primitive order number that the rasteriser
takes next, none before it has begun the strip there, and the launches of its open draws by view and draw; its colour words by view, tile and word of the tile, its covered samples by view, tile and bit, the fragment counts of its samples (R387), the
ordered-section keys that its fragment warps used (R390), the entries of the distortion map as it began, by view (R394), whether its keys have
been reset, whether its history copy is done and its display tile to compute next, whether its check instant has passed, whether the draw
watchdog has emptied it, its display tiles, and those whose check value an error has made wrong (R495). -/
structure StripSt where
  f : Nat
  key : Nat
  s : Nat
  vs : VsRec
  rast : List (Option Nat)
  lids : List (Nat × Nat × Nat)
  colour : List (Nat × Nat × Nat × Word32)
  cover : List (Nat × Nat × Nat)
  counts : List ((Nat × Nat × Nat) × Nat)
  keys : List (Option Nat × Word64)
  map : List (List (Option Word64))
  keysReset : Bool
  lensed : Bool
  lens : Nat
  checked : Bool
  dead : Bool
  tiles : List DTile
  bad : List (Nat × Nat × Nat)
  deriving DecidableEq, Repr

/-- A history entry (R395): its colour words by tile and word, and the segments; `addr` its place in the history buffer and `img` the
bytes that it was stored as, none when they could not be stored. -/
structure Hist where
  view : Nat
  strip : Nat
  frame : Nat
  addr : Nat
  img : Option (List Byte)
  colour : List (Nat × Nat × Word32)
  h : Segs
  vseg : Segs
  deriving DecidableEq, Repr

/-- A record that has not yet taken effect: the frame at which it does, and the queue and packet that brought it (R370). -/
structure VsPend where
  vs : VsRec
  f0 : Nat
  q : Nat
  n : Nat
  deriving DecidableEq, Repr

/-- The units of a die that serve its view streams in turn (R419). -/
inductive ViewUnit
  | frontEnd | rasteriser | backEnd
  deriving DecidableEq, Repr

/-- A checkpoint of Table 12.7. The front end's `pos` is draw index, meshlet index, next primitive order number and
amplified-primitive count; the rasteriser's is strip cursor, next primitive order number, view, tile row and tile column, and
`counts` the fragment counts of the open strip; the back end's is strip, next peripheral tile and next display tile. -/
structure Checkpoint where
  unit : ViewUnit
  frame : Nat
  pos : List Nat
  counts : List ((Nat × Nat × Nat) × Nat)
  deriving DecidableEq, Repr

/-- A view stream (R368, R370): its number within a context, the record in force (none before the first and after the end), records to
come, accepted gaze packets and latches, newest first, started frames, strips, warps, history, counters (Table 18.5), the cores
that its strip stores take of each cluster, and the next frame; the number of the configuration in force and of the first since the
stream last ended; frames started; the units that serve it now, and its checkpoints (R419). -/
structure Stream where
  id : Nat
  num : Nat
  ctx : Nat
  cur : Option VsRec
  pend : List VsPend
  gaze : List Gaze
  latches : List Latch
  frames : List FrameSt
  strips : List StripSt
  warps : List VWarp
  hist : List Hist
  counters : List Word32
  floors : List (Nat × Nat)
  nextF : Nat
  era : Nat
  base : Nat
  started : Nat
  on : List ViewUnit
  checks : List Checkpoint
  deriving DecidableEq, Repr

end Sys2Proof.Machine
end

