-- ==== Sys2Proof/Machine/State.lean ====
section
/-! DEFINITION. The state of the machine, the reasons a step can stop, and the state after reset. -/

namespace Sys2Proof.Machine

/-- What happens next (the model's own plain data, log entry 9): a warp issues its next header or word; an event of the
opcode table happens; nanoseconds of the package's oscillator pass. -/
inductive Agenda
  | word (vw : Nat)
  | event (i : Instr)
  | elapse (ns : Nat)
  deriving DecidableEq, Repr

/-- The machine. `now` counts steps, `nextId` numbers warps, sheaves, launches and windows, `freeIx` numbers the free
values drawn (log entry 4), `focus` is the warp that issues next. -/
structure State where
  warps : List Warp
  sheaves : List Sheaf
  launches : List Launch
  mem : Mem
  cmd : Cmd
  cores : Cores
  streams : List Stream
  io : Io
  agenda : List Agenda
  focus : Option Nat
  now : Nat
  nextId : Nat
  freeIx : Nat
  deriving DecidableEq, Repr

/-- Reasons for which the machine stops with a fault. -/
inductive Fault
  /-- An instruction word is executed when no warp is in its turn inside a clause: the hardware never does that, so the
  stop is safe. Raised by the issue operation of every instruction word. -/
  | noIssuingWarp
  deriving DecidableEq, Repr

/-- Reasons for which the model gives a step no meaning. -/
inductive Refusal
  /-- An instruction whose meaning is not written yet; only `Dispatch` raises it. Safe. -/
  | notModelled (mnemonic : String)
  deriving DecidableEq, Repr

/-- Reset: a powered device whose cold start has run to step 8 of Table 13.6 (log entry 1), with no queue, context,
launch, peer or stream (R440), no key in any slot but 4095 (Table 13.6 step 7). -/
def State.reset : State :=
  { warps := [], sheaves := [], launches := [], mem := Mem.reset, cmd := Cmd.reset, cores := Cores.reset, streams := [],
    io := Io.reset, agenda := [], focus := none, now := 0, nextId := 1, freeIx := 0 }

end Sys2Proof.Machine
end

