-- ==== Sys2Proof/Machine/Ops.lean ====
section
/-! DEFINITION. Named operations over the state: warps and their registers, sheaves, events, freezing, aborts, taking a
trap and returning from one. -/

namespace Sys2Proof.Machine

/-! ## Warps, sheaves, launches by name -/

def State.warp (s : State) (vw : Nat) : Option Warp := s.warps.find? (·.vw == vw)
def State.sheaf (s : State) (sid : Nat) : Option Sheaf := s.sheaves.find? (·.sid == sid)
def State.launch (s : State) (lid : Nat) : Option Launch := s.launches.find? (·.lid == lid)

/-- Replace the warp of the same identifier. -/
def State.setWarp (s : State) (w : Warp) : State := { s with warps := updIf (·.vw == w.vw) (fun _ => w) s.warps }
def State.setSheaf (s : State) (h : Sheaf) : State := { s with sheaves := updIf (·.sid == h.sid) (fun _ => h) s.sheaves }
def State.setLaunch (s : State) (l : Launch) : State := { s with launches := updIf (·.lid == l.lid) (fun _ => l) s.launches }
def State.modSheaf (s : State) (sid : Nat) (f : Sheaf → Sheaf) : State :=
  { s with sheaves := updIf (·.sid == sid) f s.sheaves }
def State.modLaunch (s : State) (lid : Nat) (f : Launch → Launch) : State :=
  { s with launches := updIf (·.lid == lid) f s.launches }
def State.modWarp (s : State) (vw : Nat) (f : Warp → Warp) : State := { s with warps := updIf (·.vw == vw) f s.warps }
def State.setMem (s : State) (m : Mem) : State := { s with mem := m }

/-- The next identifier, and the state after taking it. -/
def State.fresh (s : State) : Nat × State := (s.nextId, { s with nextId := s.nextId + 1 })

/-- A free value of the manual's, and the state after drawing it (log entry 4). -/
def State.drawWord (s : State) : Word64 × State := (Config.freeWord s.freeIx, { s with freeIx := s.freeIx + 1 })
def State.drawBool (s : State) : Bool × State := (Config.freeBool s.freeIx, { s with freeIx := s.freeIx + 1 })

/-- One of several things that the manual leaves in any order: a free choice where there is more than one. -/
def State.pick {α : Type} (s : State) (l : List α) : Option α × State :=
  if l.length ≤ 1 then (l.head?, s) else let (x, s) := s.drawWord; (l[x.toNat % l.length]?, s)

/-- `TIMEBASE` as a number. -/
def now (s : State) : Nat := s.io.time.timebase.toNat

/-- Number of a connection in `Io.rates`: a queue's is the queue's number, a peer entry's this. -/
def connOf (ctx dev : Nat) : Nat := 4096 + ctx * 2 ^ 20 + dev

/-- A connection begins at the line rate (R426). -/
def State.newConn (s : State) (conn : Nat) : State := { s with io := { s.io with rates := s.io.rates.filter (·.q != conn) } }

/-! ## Registers (R29, R189, R209) -/

def Warp.vget (w : Warp) (n : Nat) : VReg := w.v.getD n VReg.zero
def Warp.lanes (w : Warp) (n : Nat) : Lanes := (w.vget n).x
def Warp.tag (w : Warp) (n : Nat) : Tag := (w.vget n).tag
def Warp.sget (w : Warp) (n : Nat) : Word64 := w.s.getD n 0

/-- p0 reads as all ones (R189). -/
def Warp.pget (w : Warp) (n : Nat) : Mask := if n = 0 then BitVec.allOnes 32 else if h : n < 16 then w.p[n] else 0

/-- Write the lanes of `m` and the tag; with no lane in `m` nothing changes (R209). -/
def Warp.vset (w : Warp) (n : Nat) (m : Mask) (x : Lanes) (t : Tag) : Warp :=
  if m = 0 then w else { w with v := w.v.set n ⟨Lanes.merge m x (w.lanes n), t⟩ }
def Warp.sset (w : Warp) (n : Nat) (x : Word64) : Warp := { w with s := w.s.set n x }

/-- Write the bits of `m`; a write to p0 is discarded (R189). -/
def Warp.pset (w : Warp) (n : Nat) (m x : Mask) : Warp :=
  if n = 0 then w
  else if h : n < 16 then { w with p := w.p.set n ((x &&& m) ||| (w.p[n] &&& ~~~m)) } else w

/-- A 64-bit lane value held in a pair, low half in the even register (R68). -/
def Warp.pair (w : Warp) (n i : Nat) : Word64 := (Lanes.get (w.lanes (n + 1)) i) ++ (Lanes.get (w.lanes n) i)

def Warp.accGet (w : Warp) (n : Nat) : Acc := w.acc.getD n Acc.unbound
def Warp.accSet (w : Warp) (n : Nat) (a : Acc) : Warp := { w with acc := w.acc.set n a }

/-- Raise `FFLAGS` bits (R78). -/
def Warp.flags (w : Warp) (f : BitVec 6) : Warp :=
  { w with spr := { w.spr with fflags := w.spr.fflags ||| f.setWidth 64 } }

def WB.apply (w : Warp) : WB → Warp
  | .v n m x t => w.vset n m x t
  | .s n x => w.sset n x
  | .p n m x => w.pset n m x
def Warp.write (w : Warp) (l : List WB) : Warp := l.foldl WB.apply w

/-! ## Lanes (R30, R31, R451) -/

def Warp.pcOf (w : Warp) (i : Nat) : Word64 := lane64 w.vpc i

/-- Live lanes: `vpc` [63:56] is zero (R30). -/
def Warp.live (w : Warp) : Mask := maskOf fun i => (w.pcOf i).extractLsb' 56 8 == 0

/-- Trap mode (R448, R451). -/
def Warp.trapMode (w : Warp) : Bool := w.spr.tcause.getLsbD 16

/-- Lanes that count for the issue address: in trap mode only those of `TLANES` (R451). -/
def Warp.running (w : Warp) : Mask := if w.trapMode then w.live &&& w.spr.tlanes else w.live

/-- The minimum of `vpc` over the running lanes (R31). -/
def Warp.issueAddr (w : Warp) : Nat :=
  (lanesOf w.running).foldl (fun a i => min a (w.pcOf i).toNat) (2 ^ 64)

/-- The executing lanes (R31). -/
def Warp.exec (w : Warp) : Mask := let a := w.issueAddr; w.running &&& maskOf fun i => (w.pcOf i).toNat == a

/-- Lanes whose guard is true (R186); a doomed lane is treated as guarded off outside trap mode (R280, R452). -/
def Warp.guarded (w : Warp) (g : Guard) : Mask :=
  let p := w.pget g.p.toNat
  let m := if g.neg then ~~~p else p
  if w.trapMode then m else m &&& ~~~w.tx.doomed

/-- Set `vpc` of the lanes of `m`. -/
def Warp.setPc (w : Warp) (m : Mask) (f : Nat → Word64) : Warp :=
  { w with vpc := of64 fun i => if has m i then f i else w.pcOf i }

/-- The `vpc` of an exited lane (R30). -/
def exited : Word64 := BitVec.allOnes 64

/-! ## Events to the host (R483) -/

/-- An event as 64-bit words: the header of Table 18.1, its body, its items. -/
def Ev.words (e : Ev) (seq : Word32) (lost : Nat) : List Word64 :=
  [at_ e.typ 0 ||| at_ e.items.length 8 ||| at_ (min lost 0xFFFF) 16 ||| at_ seq.toNat 32,
   at_ e.ctx 0 ||| at_ e.queue 12 ||| at_ e.packet 24 ||| at_ e.stream 44, e.time]
    ++ (e.body ++ List.replicate 5 0).take 5 ++ e.items.flatten

/-- A command core is in service. -/
def Fc.serves (f : Fc) : Bool :=
  match f.state with
  | .idle | .busy _ => true
  | .reboot | .out => false

/-- The fallback scheduler serves: no command core is in service, or a queue whose lock a rebooting core held is still mapped (R489). -/
def State.fallbackServes (s : State) : Bool :=
  !s.cmd.fcs.any Fc.serves || s.cmd.fbLocks.any fun l => s.cmd.queues.any (·.q == l.2)

/-- Whether events can be sent: CONFIG accepted, queue 0's connection alive (R483, R496), and the fallback scheduler not serving (R489). -/
def State.evLink (s : State) : Bool :=
  s.io.start.configured && (s.cmd.queues.any fun q => q.q == 0 && !q.lost) && !s.fallbackServes

/-- Send the oldest unsent events, in `EV.SEQ` order. -/
def State.flushEvents (s : State) : State :=
  if s.evLink then
    s.cmd.unsent.foldl (fun s e =>
      { s with
        io := { s.io with out := s.io.out ++ [.event (e.words s.cmd.evSeq s.cmd.evLost)] }
        cmd := { s.cmd with evSeq := s.cmd.evSeq + 1, evLost := 0 } }) { s with cmd := { s.cmd with unsent := [] } }
  else s

/-- Make an event: it is sent at once when it can be, held among at most 4,096, or lost (R483). -/
def State.event (s : State) (e : Ev) : State :=
  let e := { e with time := s.io.time.timebase }
  if s.cmd.unsent.length < 4096 then
    State.flushEvents { s with cmd := { s.cmd with unsent := s.cmd.unsent ++ [e] } }
  else { s with cmd := { s.cmd with evLost := s.cmd.evLost + 1 } }

/-- A fault descriptor (Table 17.1). -/
def faultDesc (cause : Code8) (src ctx : Nat) (lanes : Mask) (vw : Nat) (seq : BitVec 16) (addr aux : Word64) :
    List Word64 :=
  [at_ cause.toNat 0 ||| at_ src 8 ||| at_ ctx 12 ||| at_ lanes.toNat 32,
   at_ (vw % 2 ^ 48) 0 ||| at_ seq.toNat 48, addr, aux]

/-- Queue and packet of a launch, as an event names them. -/
def State.evOf (s : State) (typ lid : Nat) (body : List Word64) (items : List (List Word64)) : Ev :=
  match s.launch lid with
  | some l => ⟨typ, l.ctx, l.queue, l.packet, 0, 0, body, items⟩
  | none => ⟨typ, 0, 0, 0, 0, 0, body, items⟩

/-! ## Transactions: aborts (R280) -/

/-- Abort the lanes of `m` that are in transaction; their accesses still held in the husk are given up. -/
def Warp.abort (w : Warp) (m : Mask) (cause : Byte) : Warp :=
  let m := m &&& w.tx.inTx
  let tx : Tx := { w.tx with
    inTx := w.tx.inTx &&& ~~~m
    doomed := w.tx.doomed ||| m
    cause := Vector.ofFn fun i : Fin 32 => if has m i then cause else w.tx.cause[i]
    reads := w.tx.reads.filter fun r => !has m r.1
    writes := w.tx.writes.filter fun r => !has m r.lane }
  let drop (e : HkEntry) : HkEntry :=
    { e with pend := e.pend &&& ~~~(e.txl &&& m), planes := e.planes &&& ~~~(e.txl &&& m) }
  { w with tx := tx, husk := w.husk.map drop }

/-- Doomed lanes of `m` take their resume addresses; their status predicate bits become 0 (R280). -/
def Warp.undoom (w : Warp) (m : Mask) : Warp :=
  let m := m &&& w.tx.doomed
  let w := (lanesOf m).foldl (fun w i =>
    w.pset (if h : i < 32 then w.tx.pred[i].toNat else 0) (maskOf (· == i)) 0) w
  { w.setPc m (fun i => lane64 w.tx.resume i) with tx := { w.tx with doomed := w.tx.doomed &&& ~~~m } }

/-! ## Pipelines and windows (R195, R213) -/

/-- An abort that no word of the clause raises, or that its last word raises, as it comes: between clauses it takes its end effects at once
(R280). -/
def Warp.abortNow (w : Warp) (m : Mask) (cause : Byte) : Warp :=
  let w1 := w.abort m cause
  if w.clause.inside || w.trapMode then w1 else w1.undoom (m &&& w1.live)

/-- Write the result of a pipeline operation and close its windows' wait. -/
def Warp.pipeDone (w : Warp) (id : Nat) : Warp :=
  match w.pipe.find? (·.id == id) with
  | none => w
  | some p =>
    let w := w.write p.wb
    { w with pipe := w.pipe.filter (·.id != id), wins := updIf (fun x : Win => x.pipe && x.id == id) (fun x => { x with done := true }) w.wins }

/-- Write every outstanding pipeline result (R213, R450 step 1). -/
def Warp.drainPipe (w : Warp) : Warp := (w.pipe.map (·.id)).foldl Warp.pipeDone w

/-! ## Freezing (R409) -/

/-- Lanes that a TEND in the husk is committing (R281). -/
def Warp.tending (w : Warp) : Mask :=
  w.husk.foldl (fun m e => match e.instr with | .tend _ => m ||| e.pend | _ => m) 0

/-- Whether a request of an entry may be under way at a freeze: every kind but loads, which are read again on replay (R410), waits
inside the core, and a parked DEQ, which has taken nothing (R318). -/
def HkEntry.sends (e : HkEntry) : Bool :=
  match e.instr with
  | .ld .. | .lds .. | .ldc .. | .ldp .. | .ldt .. | .rtquery .. | .osquery .. | .grpq .. | .bstat .. | .gzread .. | .fence .. | .bfence _
  | .mloop .. | .mcoop .. | .mbwait .. | .mbwaitCur .. | .mbtest .. | .mbtestSnap .. | .bar .. => false
  | .deq .. => !e.parked
  | _ => true

/-- The lanes of an entry whose requests are under way as its warp freezes, `free` saying which have left the core; what is captured
at the port always has (R401, R409). -/
def HkEntry.latch (free : Mask) (e : HkEntry) : HkEntry :=
  { e with queued := false, sent := if !e.sends || e.queued || e.state == .awaiting then 0
      else e.pend &&& ~~~e.perf &&& (if e.port then BitVec.allOnes 32 else free) }

/-- What a freeze does to one warp: pipeline results are written, transactions abort with PREEMPT but for lanes that a TEND
names, and copies and overwriting BGEMVs stop at their watermarks. -/
def Warp.freeze (w : Warp) : Warp :=
  let w := w.drainPipe
  let w := w.abort (w.tx.inTx &&& ~~~w.tending) 0x06
  { w with
    slot := if w.slot == .turn then .ready else w.slot
    clause := { w.clause with broken := true }
    husk := w.husk.map fun e =>
      match e.instr with
      | .ckick .. | .bgemv _ _ false .. | .mloop .. | .mcoop .. =>
        if e.state == .outstanding then { e with state := .stopped } else e
      | _ => e }

/-- A warp freezes: which of its requests have left the core is a free choice (log entry 4). -/
def State.freezeWarp (s : State) (w : Warp) : State :=
  let (husk, s) := w.freeze.husk.foldl (fun ((l, s) : List HkEntry × State) e =>
    let (x, s) := s.drawWord
    (l ++ [e.latch (x.setWidth 32)], s)) ([], s)
  s.setWarp { w.freeze with husk := husk }

/-- Freeze a sheaf, all warps of all members at once. -/
def State.freezeSheaf (s : State) (sid : Nat) (why : Why) : State :=
  match s.sheaf sid with
  | none => s
  | some h =>
    if h.state == .resident then
      let s1 := (s.warps.filter fun w => w.ident.sid == sid && (w.slot != .finished || !w.husk.isEmpty || !w.pipe.isEmpty)).foldl State.freezeWarp
        (s.modSheaf sid fun h => { h with state := .frozen, why := why, frozenAt := s.io.time.timebase.toNat })
      { s1 with
        focus := match s.focus with
          | some vw => if s.warps.any (fun w => w.vw == vw && w.ident.sid == sid) then none else s.focus
          | none => none }
    else s.modSheaf sid fun h => if h.why == .evict || h.why == .none then { h with why := why } else h

/-- Freeze every sheaf of a launch. -/
def State.freezeLaunch (s : State) (lid : Nat) (why : Why) : State :=
  ((s.sheaves.filter (·.lid == lid)).map (·.sid)).foldl (fun s sid => s.freezeSheaf sid why) s

/-! ## Sheaf pairs (R500 to R508) and restartable sheaves (R512 to R514) -/

/-- The other copy's twin of a warp of a sheaf pair, and whether the warp is the trailing one (R500). -/
def State.twinOf (s : State) (w : Warp) : Option (Bool × Warp) :=
  match s.sheaf w.ident.sid with
  | none => none
  | some h => h.twin.bind fun t =>
    (s.warps.find? fun x => x.ident.sid == t && x.ident.member == w.ident.member && x.ident.idWarp == w.ident.idWarp).map
      fun x => (h.trail, x)

/-- Sheaf that keeps the pair state of a sheaf: the leading copy. -/
def State.leadOf (s : State) (sid : Nat) : Option Sheaf :=
  match s.sheaf sid with
  | none => none
  | some h => match h.twin with
    | none => none
    | some t => if h.trail then s.sheaf t else some h

/-- Request a checkpoint of a sheaf pair (R507). -/
def State.wantCkpt (s : State) (sid : Nat) : State :=
  match s.leadOf sid with
  | none => s
  | some l => s.modSheaf l.sid fun h => { h with pair := { h.pair with want := true } }

/-- A mismatch of a sheaf pair is found (R505): a rollback follows. -/
def State.mismatch (s : State) (sid : Nat) : State :=
  match s.leadOf sid with
  | none => s
  | some l => s.modSheaf l.sid fun h => { h with pair := { h.pair with bad := true } }

/-- A trap falls in one copy of a pair (R505 item 6): the leading copy keeps the word count, the trailing copy's must agree. -/
def State.pairTrap (s : State) (w : Warp) : State :=
  match s.twinOf w with
  | none => s
  | some (trail, t) =>
    let s := if trail && !t.traps.contains w.issued then s.mismatch w.ident.sid else s
    s.modWarp w.vw fun x => { x with traps := w.issued :: x.traps }

/-- A consumption in this sheaf starts a rollback (R505 item 5) or a relaunch (R514). -/
def State.consumes (s : State) (sid : Nat) : Bool :=
  match s.sheaf sid with
  | none => false
  | some h => h.twin.isSome ||
    (h.clean && decide (h.restarts < 3) && match s.launch h.lid with
      | some l => l.r.restart && !l.r.paired
      | none => false)

/-- A sheaf's pins of code at level 0 are released (R137). -/
def Mem.dropPins (m : Mem) (sid : Nat) : Mem :=
  { m with il := m.il.map fun l => { l with pins := l.pins.filter (· != sid) } }

/-- Remove a sheaf's warps, with their race records and chaff records. -/
def State.dropWarps (s : State) (sid : Nat) : State :=
  let gone := (s.warps.filter (·.ident.sid == sid)).map (·.vw)
  let mine (p : Party) : Bool := match p with
    | .warp v | .xfer v _ => gone.contains v
    | .remote .. => false
  { s with
    warps := s.warps.filter fun w => w.ident.sid != sid
    mem := { s.mem with race := s.mem.race.filter (fun r => !mine r.party),
                        chaff := s.mem.chaff.filter fun c => !gone.contains c.vw }
    focus := match s.focus with
      | some v => if gone.contains v then none else some v
      | none => none }

/-- A sheaf is not yet placed again: its state is discarded, and it avoids the cluster it ran on (R514). -/
def Sheaf.again (h : Sheaf) (now : Nat) : Sheaf :=
  { h with state := .unstarted, why := .none, scr := [], psn := [], bars := [], stores := [], order := [], clean := true,
           restarts := h.restarts + 1, frozenAt := now, shun := [h.cur / 24] }

/-- A consumption: the pair rolls back, or the clean sheaf becomes Unstarted again. -/
def State.consume (s : State) (sid : Nat) : State :=
  match s.sheaf sid with
  | none => s
  | some h =>
    if h.twin.isSome then s.mismatch sid
    else
      let s := s.dropWarps sid
      (s.setMem (s.mem.dropPins sid)).modSheaf sid fun h => h.again s.io.time.timebase.toNat

/-! ## Traps (R448 to R454) -/

/-- The point at which a trap is taken. -/
structure TrapAt where
  cause : Code8
  slot : Nat
  done : Bool
  hdr : Bool
  src : Nat
  code : Nat
  addr : Nat
  lanes : Mask
  deriving DecidableEq, Repr

/-- `TCAUSE` of a trap, with `TCAUSE.MODE` given (Table 16.2). -/
def TrapAt.tcause (t : TrapAt) (mode : Bool) : Word64 :=
  at_ t.cause.toNat 0 ||| at_ (if t.hdr then 0 else t.slot) 8 ||| at_ (b2n t.done) 12 ||| at_ (b2n t.hdr) 13
    ||| at_ t.src 14 ||| at_ (b2n mode) 16 ||| at_ t.code 32

/-- Abort cause of the lanes of `TLANES` at trap entry (R450 step 2). -/
def TrapAt.abortCause (t : TrapAt) : Byte := if t.cause.toNat ≤ 0x28 then 0x08 else 0x09

/-- Trap entry (R450): pipeline results are written, transactional lanes abort, the trap registers are written, the
lanes of `TLANES` go to the handler, and the windows of husk entries are suspended. -/
def Warp.trapEnter (w : Warp) (t : TrapAt) : Warp :=
  let w := (w.drainPipe).abort t.lanes t.abortCause
  let pc : Word64 := w.spr.tvec &&& 0x00FFFFFFFFFFFFF8
  { w.setPc t.lanes (fun _ => pc) with
    spr := { w.spr with tcause := t.tcause true, taddr := BitVec.ofNat 64 t.addr, tlanes := t.lanes }
    clause := { w.clause with inside := false, broken := true }
    wins := w.wins.map fun x => if x.done then x else { x with susp := true } }

/-- What R454 leaves when no handler takes the trap: the registers are written, `TCAUSE.MODE` keeps its value. -/
def Warp.trapRegs (w : Warp) (t : TrapAt) : Warp :=
  { w with spr := { w.spr with tcause := t.tcause w.trapMode, taddr := BitVec.ofNat 64 t.addr, tlanes := t.lanes } }

/-- The fault event of a warp stopped at issue. The manual gives the descriptor of a husk entry only, so `FD.ADDR` and,
outside Table 17.2, `FD.AUX` are free values (log entry 10). -/
def State.issueEvent (s : State) (w : Warp) (cause : Code8) (lanes : Mask) (word : Word64) : State :=
  let (a, s) := s.drawWord
  let (x, s) := s.drawWord
  let aux := if cause = 0x11 ∨ cause = 0x12 ∨ cause = 0x13 ∨ cause = 0x06 ∨ cause = 0x28 then word else x
  s.event (s.evOf 0x01 w.ident.lid [] [faultDesc cause 0 w.ident.ctx lanes w.vw 0 a aux])

/-- A trap of the warp goes to its handler (R450, R454). -/
def Warp.delivers (w : Warp) : Bool := w.spr.tvec.getLsbD 0 && !w.trapMode

/-- Take a trap or an issue-precise fault (R450, R454). -/
def State.takeTrap (s : State) (w : Warp) (t : TrapAt) (word : Word64) : State :=
  if t.cause = 0x28 && s.consumes w.ident.sid then s.consume w.ident.sid
  else
    let s := s.pairTrap w
    let w := { w with traps := match s.warp w.vw with | some x => x.traps | none => w.traps }
    if w.delivers then s.setWarp (w.trapEnter t)
    else
      let s := (s.setWarp (w.trapRegs t)).issueEvent w t.cause t.lanes word
      s.freezeSheaf w.ident.sid .fault

/-- A clause header's slot count as the warp captured it, and the return address of ERET (R452). -/
def Warp.eretTarget (w : Warp) (count : Nat) : Nat × Bool :=
  let tc := w.spr.tcause
  let ta := w.spr.taddr.toNat
  let hdr := tc.getLsbD 13
  let slot := fld tc 11 8
  let h := if hdr then ta else ta - 8 * (slot + 1)
  let inNext := !hdr && decide (slot < count)
  let next := if inNext then ta + 8 else h + 16 + 8 * count
  if tc.getLsbD 12 || w.spr.tvec.getLsbD 2 then (next, inNext) else (ta, !hdr)

/-- Address of the clause header that holds the trapping word or header (R452). -/
def Warp.trapHeader (w : Warp) : Nat :=
  let ta := w.spr.taddr.toNat
  if w.spr.tcause.getLsbD 13 then ta else ta - 8 * (fld w.spr.tcause 11 8 + 1)

/-- Leave trap mode (R452): the live lanes of `TLANES` go to `ret`, doomed ones to their resume addresses; suspended windows
resume; `TVEC.SKIP` and `TCAUSE.MODE` clear. When `ret` lies inside the clause of header `hdr` at address `ha`, the lanes resume
there when it becomes the issue address, without evaluating the header. -/
def Warp.eret (w : Warp) (ret : Nat) (inside : Bool) (ha : Nat) (hdr : Header) : Warp :=
  let back := w.spr.tlanes &&& w.live
  let doomed := w.tx.doomed &&& back
  let w := w.setPc back (fun _ => BitVec.ofNat 64 ret)
  let w := w.undoom doomed
  { w with
    spr := { w.spr with tcause := w.spr.tcause &&& ~~~(at_ 1 16), tvec := w.spr.tvec &&& ~~~(at_ 1 2) }
    wins := w.wins.map fun x => { x with susp := false }
    suppress := back
    clause := { w.clause with inside := false }
    mids := if inside && back &&& ~~~doomed != 0 then ⟨true, ha, (ret - ha - 8) / 8, hdr, true⟩ :: w.mids else w.mids }

end Sys2Proof.Machine
end

