-- ==== Sys2Proof/Machine/Dram.lean ====
section
/-! DEFINITION. Bytes of memory: the sparse form, stored sectors and their keys (R131 to R133), line compression
(R127 to R130), poison (R478), and reads and writes of device memory under a leaf entry. -/

namespace Sys2Proof.Machine

/-! ## Sparse bytes -/

/-- One byte. -/
def Bytes.get : Bytes → Nat → Byte
  | [], _ => Bytes.unlisted
  | c :: r, a => if c.1 = a then c.2 else Bytes.get r a

/-- Write one byte, keeping the canonical form. -/
def Bytes.put : Bytes → Nat → Byte → Bytes
  | [], a, b => if b = Bytes.unlisted then [] else [(a, b)]
  | c :: r, a, b =>
    if a < c.1 then (if b = Bytes.unlisted then c :: r else (a, b) :: c :: r)
    else if c.1 = a then (if b = Bytes.unlisted then r else (a, b) :: r)
    else c :: Bytes.put r a b

/-- `n` bytes from `a`. -/
def Bytes.getN (m : Bytes) (a n : Nat) : List Byte := (List.range n).map fun i => m.get (a + i)

/-- Bytes written from `a` upward. -/
def Bytes.putN (m : Bytes) (a : Nat) : List Byte → Bytes
  | [] => m
  | b :: r => Bytes.putN (m.put a b) (a + 1) r

/-! ## Poison, per aligned word (R478) -/

def psnGet (l : List Nat) (a : Nat) : Bool := l.contains (a / 4)
def psnSet (l : List Nat) (a : Nat) : List Nat := if l.contains (a / 4) then l else insertBy id (a / 4) l
def psnClr (l : List Nat) (a : Nat) : List Nat := l.filter (· != a / 4)

/-- Poison after a write of `n` bytes at `a` (aligned to `n`, or a run of whole words): a whole word written takes
`p`, a part of a word keeps what it had (R478). -/
def psnWrite (l : List Nat) (a n : Nat) (p : Bool) : List Nat :=
  if n < 4 then (if p then psnSet l a else l)
  else (List.range (n / 4)).foldl (fun l i => if p then psnSet l (a + 4 * i) else psnClr l (a + 4 * i)) l

/-! ## Sectors and keys (R131, R132) -/

/-- The key under which the sector of a physical address stands; none when it was never written. -/
def Mem.keyOf (m : Mem) (pa : Nat) : Option (BitVec 512) := (m.skeys.find? (·.1 == pa / 32)).map (·.2)

/-- The 32 stored bytes of a sector as read under key `k`. -/
def Mem.sector (m : Mem) (k : BitVec 512) (pa : Nat) : List Byte :=
  let base := pa / 32 * 32
  let raw := m.dram.getN base 32
  match m.keyOf pa with
  | none => raw
  | some k' =>
    if k' = k then raw
    else bytesOf 32 (Config.foreignSector k' k base (BitVec.ofNat 256 (ofBytes raw))).toNat

/-- One stored byte as read under key `k`. -/
def Mem.stored (m : Mem) (k : BitVec 512) (pa : Nat) : Byte :=
  match m.keyOf pa with
  | none => m.dram.get pa
  | some k' => if k' = k then m.dram.get pa else (m.sector k pa).getD (pa % 32) 0

/-- Write one stored byte under key `k`: a sector that stood under another key is written again whole. -/
def Mem.store (m : Mem) (k : BitVec 512) (pa : Nat) (b : Byte) : Mem :=
  match m.keyOf pa with
  | some k' =>
    if k' = k then { m with dram := m.dram.put pa b }
    else
      let base := pa / 32 * 32
      { m with dram := (m.dram.putN base (m.sector k pa)).put pa b, skeys := upsert (·.1 == pa / 32) (pa / 32, k) m.skeys }
  | none => { m with dram := m.dram.put pa b, skeys := upsert (·.1 == pa / 32) (pa / 32, k) m.skeys }

def Mem.storeN (m : Mem) (k : BitVec 512) (pa : Nat) : List Byte → Mem
  | [] => m
  | b :: r => Mem.storeN (m.store k pa b) k (pa + 1) r

/-! ## Compression (Table 4.5, R127, R128) -/

/-- Byte address and shift of the tag nibble of a line (R112). -/
def tagAddr (pa : Nat) : Nat × Nat :=
  let st := pa / 0xC00000000
  let t := pa % 0xC00000000
  (st * 0xC00000000 + 0xBF4000000 + t / 256, if t / 128 % 2 = 0 then 0 else 4)

def Mem.tagOf (m : Mem) (pa : Nat) : Nat :=
  let (a, sh) := tagAddr pa
  (m.dram.get a).toNat / 2 ^ sh % 16

def Mem.setTag (m : Mem) (pa tag : Nat) : Mem :=
  let (a, sh) := tagAddr pa
  let b := (m.dram.get a).toNat
  let b' := if sh = 0 then b / 16 * 16 + tag else b % 16 + tag * 16
  { m with dram := m.dram.put a (BitVec.ofNat 8 b') }

/-- A signed delta of `bits` bits. -/
def fits (d : Word32) (bits : Nat) : Bool := decide (-(2 : Int) ^ (bits - 1) ≤ d.toInt) && decide (d.toInt < 2 ^ (bits - 1))

/-- Deltas packed at 4 or 8 bits. -/
def packDeltas (bits : Nat) (d : List Word32) : List Byte :=
  bytesOf (bits * 4) (d.foldr (fun x acc => acc * 2 ^ bits + x.toNat % 2 ^ bits) 0)

def unpackDelta (bits : Nat) (l : List Byte) (i : Nat) : Word32 :=
  (BitVec.ofNat bits (ofBytes l / 2 ^ (bits * i))).signExtend 32

def padTo (n : Nat) (l : List Byte) : List Byte := l ++ List.replicate (n - l.length) 0

/-- One-base deltas. -/
def bd1 (bits : Nat) (w : List Word32) : Option (List Byte) :=
  let a := w.headD 0
  let d := w.map (· - a)
  if d.all (fits · bits) then some (bytesOf 4 a.toNat ++ packDeltas bits d) else none

/-- Two-base deltas: base B is the first word out of range of A. -/
def bd2 (bits : Nat) (w : List Word32) : Option (List Byte) :=
  let a := w.headD 0
  match w.find? fun x => !fits (x - a) bits with
  | none => none
  | some b =>
    let m := w.map fun x => !fits (x - a) bits
    let d := w.map fun x => if fits (x - a) bits then x - a else x - b
    if d.all (fits · bits) then
      some (bytesOf 4 a.toNat ++ bytesOf 4 b.toNat
        ++ bytesOf 4 (m.foldr (fun x acc => acc * 2 + b2n x) 0) ++ packDeltas bits d)
    else none

/-- The encoding R128 chooses: tag and stored bytes (whole sectors). -/
def encodeLine (l : List Byte) : Nat × List Byte :=
  let w := wordsOf 32 l
  let q := dwordsOf 16 l
  if l.all (· == 0) then (1, [])
  else if q.all (· == q.headD 0) then (2, padTo 32 (bytesOf 8 (q.headD 0).toNat))
  else match bd1 4 w with
    | some b => (3, padTo 32 b)
    | none => match bd2 4 w with
      | some b => (4, padTo 32 b)
      | none => match bd1 8 w with
        | some b => (5, padTo 64 b)
        | none => match bd2 8 w with
          | some b => (6, padTo 64 b)
          | none => (0, l)

/-- Stored sectors of an encoding. -/
def tagSectors (tag : Nat) : Nat :=
  match tag with
  | 1 => 0 | 2 => 1 | 3 => 1 | 4 => 1 | 5 => 2 | 6 => 2 | _ => 4

/-- The line that stored bytes stand for; none for a reserved tag. -/
def decodeLine (tag : Nat) (st : List Byte) : Option (List Byte) :=
  let base (i : Nat) : Word32 := BitVec.ofNat 32 (ofBytes ((st.drop (4 * i)).take 4))
  let two (bits : Nat) : List Byte :=
    (List.range 32).flatMap fun i =>
      bytesOf 4 ((if (base 2).getLsbD i then base 1 else base 0) + unpackDelta bits (st.drop 12) i).toNat
  let one (bits : Nat) : List Byte :=
    (List.range 32).flatMap fun i => bytesOf 4 (base 0 + unpackDelta bits (st.drop 4) i).toNat
  match tag with
  | 0 => some (st.take 128)
  | 1 => some (List.replicate 128 0)
  | 2 => some ((List.range 16).flatMap fun _ => st.take 8)
  | 3 => some (one 4)
  | 4 => some (two 4)
  | 5 => some (one 8)
  | 6 => some (two 8)
  | _ => none

/-! ## Device memory through a leaf entry -/

/-- Bits of a leaf entry (Table 4.3). -/
def pteBit (pte : Word64) (i : Nat) : Bool := pte.getLsbD i
def pteKey (pte : Word64) : Nat := fld pte 63 52

/-- The key a slot holds for a context (R435). -/
def Mem.slotKey (m : Mem) (ctx slot : Nat) : Option (BitVec 512) :=
  (m.slots.find? fun k => k.slot == slot && k.owner == ctx).map (·.key)

/-- How a home reaches a line: the key, and whether the page is compressed. -/
structure Via where
  key : BitVec 512
  cmp : Bool
  deriving DecidableEq, Repr

/-- The tag of a line as an access under a key finds it: RAW for a line that another key's owner wrote last, or whose page has been
assigned to another key since (R130, R132). -/
def Mem.lineTag (m : Mem) (k : BitVec 512) (pa : Nat) : Nat :=
  match m.owner.find? (·.1 == pa / 128) with
  | some o => if o.2 = some k then m.tagOf pa else 0
  | none => m.tagOf pa

/-- A page is assigned to a key: the tags of lines that another key's owner wrote are made RAW, and stay so until the line is written
again (R130). -/
def Mem.assign (m : Mem) (k : BitVec 512) (pa size : Nat) : Mem :=
  { m with owner := updIf (fun o => decide (pa ≤ 128 * o.1 ∧ 128 * o.1 < pa + size) && o.2 != some k) (fun o => (o.1, none)) m.owner }

/-- The plaintext line that holds `pa`; none when its compression tag is reserved (R130). -/
def Mem.line (m : Mem) (v : Via) (pa : Nat) : Option (List Byte) :=
  let b := pa / 128 * 128
  let tag := m.lineTag v.key b
  let n := if v.cmp then 32 * tagSectors tag else 128
  let st := (List.range n).map fun i => m.stored v.key (b + i)
  if v.cmp then decodeLine tag st else some st

/-- `n` bytes within one line, and whether any of their words is poisoned. -/
def Mem.read (m : Mem) (v : Via) (pa n : Nat) : List Byte × Bool :=
  let psn := (List.range ((n + 3) / 4)).any fun i => psnGet m.psn (pa + 4 * i)
  if v.cmp then
    match m.line v pa with
    | some l => ((l.drop (pa % 128)).take n, psn)
    | none => (List.replicate n 0, true)
  else ((List.range n).map fun i => m.stored v.key (pa + i), psn)

/-- Write bytes within one line, with their poison. A full-line write clears a poisoned line; a line with a reserved tag
that is written in part keeps poison on the words not written (R478). -/
def Mem.write (m : Mem) (v : Via) (pa : Nat) (l : List Byte) (p : Bool) : Mem :=
  let n := l.length
  let m1 :=
    if v.cmp then
      let b := pa / 128 * 128
      let old := m.line v pa
      let o := old.getD (List.replicate 128 0)
      let new := o.take (pa % 128) ++ l ++ o.drop (pa % 128 + n)
      let (tag, st) := encodeLine new
      let m := if old.isNone then { m with psn := (List.range 32).foldl (fun q i => psnSet q (b + 4 * i)) m.psn } else m
      let m := (m.storeN v.key b st).setTag b tag
      { m with owner := upsert (·.1 == b / 128) (b / 128, some v.key) m.owner }
    else m.storeN v.key pa l
  { m1 with psn := psnWrite m1.psn pa n p }

/-! ## Check values (R138 to R140) -/

/-- Whether the check value of the 64-byte chunk of `pa` no longer matches. -/
def Mem.bad (m : Mem) (pa : Nat) : Bool := m.badck.any (·.1 == pa / 64)

/-- A chunk lies whole within `n` bytes from `pa`. -/
def chunkIn (pa n k : Nat) : Bool := decide (pa ≤ 64 * k ∧ 64 * k + 64 ≤ pa + n)

/-- A chunk with a bad check value into which a write of `n` bytes from `pa` would merge (R139). -/
def Mem.badMerge (m : Mem) (pa n : Nat) : Option Nat :=
  (m.badck.find? fun c => decide (pa < 64 * c.1 + 64 ∧ 64 * c.1 < pa + n) && !chunkIn pa n c.1).map (64 * ·.1)

/-- Write a run of bytes, whole words where they are whole. -/
def Mem.writeRun (m : Mem) (v : Via) (pa : Nat) : Nat → List Byte → Mem
  | 0, _ => m
  | f + 1, l =>
    let n := if pa % 4 == 0 && decide (4 ≤ l.length) then 4 else 1
    if l.isEmpty then m else (m.write v pa (l.take n) false).writeRun v (pa + n) f (l.drop n)

/-- Chunks that a write covers whole take a new check value. -/
def Mem.rechecked (m : Mem) (pa n : Nat) : Mem := { m with badck := m.badck.filter fun c => !chunkIn pa n c.1 }

end Sys2Proof.Machine
end

