-- ==== Sys2Proof/Machine/Xlate.lean ====
section
/-! DEFINITION. Address regions, page tables and the checks of R122 (spec/04 R102 to R126). -/

namespace Sys2Proof.Machine

/-- Address regions (Table 4.1). -/
inductive Region
  | ordinary
  | window (core off : Nat)
  | ownScr (off : Nat)
  | system (dev core off : Nat)
  deriving DecidableEq, Repr

/-- The region of a formed 64-bit address; none is a window range fault (R103). -/
def regionOf (a : Nat) : Option Region :=
  let top := a / 2 ^ 48
  let o := a % 2 ^ 48
  if a ≥ 2 ^ 56 then none
  else if top < 0xF0 then some .ordinary
  else if top = 0xF0 then (if o < 1152 * 2 ^ 20 then some (.window (o / 2 ^ 20) (o % 2 ^ 20)) else none)
  else if top = 0xF1 then (if o < 2 ^ 20 then some (.ownScr o) else none)
  else if top ≥ 0xF8 then some (.system (a / 2 ^ 31 % 2 ^ 20) (a / 2 ^ 20 % 2 ^ 11) (a % 2 ^ 20))
  else none

/-- One table entry as stored at its physical address. Walks read the stored bytes (log entry 11). -/
def Mem.pteAt (m : Mem) (pa : Nat) : Word64 := BitVec.ofNat 64 (ofBytes (m.dram.getN pa 8))

/-- Index of an address in a table of a level (Table 4.2). -/
def tableIdx (level va : Nat) : Nat :=
  match level with
  | 0 => va / 2 ^ 39 % 2 ^ 17
  | 1 => va / 2 ^ 30 % 512
  | 2 => va / 2 ^ 21 % 512
  | _ => va / 2 ^ 12 % 512

def pteFrame (p : Word64) : Nat := fld p 51 12 * 4096

/-- Bytes of a page mapped by a leaf of a level. -/
def pageSize (level : Nat) : Nat :=
  match level with
  | 1 => 2 ^ 30
  | 2 => 2 ^ 21
  | _ => 2 ^ 12

/-- A walk: the entries used, first the root's, with their levels; the walk ends at a leaf, at an entry that is not valid
(its level is then given), at level 3, or at a leaf of level 0. -/
def walk (m : Mem) (va : Nat) : Nat → Nat → Nat → List (Nat × Word64) × Option Nat
  | 0, _, _ => ([], none)
  | fuel + 1, level, table =>
    let e := m.pteAt (table + 8 * tableIdx level va)
    if !pteBit e 0 then ([(level, e)], some level)
    else if pteBit e 1 || level == 3 then ([(level, e)], none)
    else
      let (l, f) := walk m va fuel (level + 1) (pteFrame e)
      ((level, e) :: l, f)

/-- Physical ranges that no page may map (R112). -/
def barred (pa size : Nat) : Bool :=
  decide (pa + size > 0x6000000000) ||
  (List.range 8).any fun n => decide (pa < (n + 1) * 0xC00000000 ∧ n * 0xC00000000 + 0xBF4000000 < pa + size)

/-- R120: the sixteen entries of a 64 KiB group agree. -/
def group64Ok (m : Mem) (table va : Nat) : Bool :=
  let i0 := tableIdx 3 va / 16 * 16
  let e0 := m.pteAt (table + 8 * i0)
  (List.range 16).all (fun i =>
    let e := m.pteAt (table + 8 * (i0 + i))
    pteBit e 0 && pteBit e 1 && pteBit e 10 && e.extractLsb' 0 12 == e0.extractLsb' 0 12 && pteKey e == pteKey e0
      && pteFrame e == pteFrame e0 + 4096 * i)
  && pteFrame e0 % 65536 == 0

/-- An entry of the 64 KiB-aligned group of an address is marked as part of a 64 KiB page (R120). -/
def group64 (m : Mem) (table va : Nat) : Bool :=
  (List.range 16).any fun i =>
    let e := m.pteAt (table + 8 * (tableIdx 3 va / 16 * 16 + i))
    pteBit e 0 && pteBit e 1 && pteBit e 10

/-- Attribute conflicts of the entries used (R121). `table` is the physical address of the level-3 table. -/
def conflict (m : Mem) (ctx : Nat) (rg : Region) (va : Nat) (l : List (Nat × Word64)) : Bool :=
  match l.getLast? with
  | none => true
  | some (level, leaf) =>
    let inner := l.dropLast
    let sw := fld leaf 9 8
    let win := match rg with | .ordinary => false | _ => true
    let low := fld leaf 51 12 * 4096 % pageSize level
    let bl := pteBit leaf 11
    let table := match inner.getLast? with | some (_, e) => pteFrame e | none => 0
    inner.any (fun e => fld e.2 11 2 != 0 || fld e.2 63 52 != 0)
    || level == 0 || (!pteBit leaf 1)
    || (if level == 3 then false else low / 2 ^ 21 != 0)
    || sw == 3
    || (match rg with
        | .ordinary => sw != 0
        | .system .. => sw != 2
        | _ => sw != 1)
    || (win && (pteFrame leaf != 0 || pteBit leaf 7 || bl || pteBit leaf 4 || pteKey leaf != 0))
    || (pteBit leaf 3 && pteBit leaf 4)
    || (bl && (level == 3 || pteBit leaf 7 || decide (fld leaf 14 12 ≥ 6) || decide (fld leaf 17 15 ≥ 5) || fld leaf 20 18 != 0))
    || (!bl && level != 3 && fld leaf 20 12 != 0)
    || (!win && barred (pteFrame leaf / pageSize level * pageSize level) (pageSize level))
    || (!win && (m.slotKey ctx (pteKey leaf)).isNone)
    || (level == 3 && group64 m table va && !group64Ok m table va)
    || (level != 3 && pteBit leaf 10)

/-- Why an access fails a check of R122: cause, and for a page not present the level of the entry. -/
structure XErr where
  cause : Code8
  level : Nat
  deriving DecidableEq, Repr

/-- What an access reaches. -/
inductive Target
  | dram (pa : Nat) (pte : Word64)
  | scr (sid core off : Nat) (pte : Word64)
  | sys (dev core off : Nat) (pte : Word64)
  deriving DecidableEq, Repr

def Target.pte : Target → Word64
  | .dram _ p => p
  | .scr _ _ _ p => p
  | .sys _ _ _ p => p

/-- Where a target lies. -/
def Target.loc : Target → Loc
  | .dram pa _ => .dram pa
  | .scr sid c o _ => .scr sid c o
  | .sys d c o _ => .sys (0xF8 * 2 ^ 48 + d * 2 ^ 31 + c * 2 ^ 20 + o)

/-- The byte `n` places on. -/
def Loc.add : Loc → Nat → Loc
  | .dram pa, n => .dram (pa + n)
  | .scr sid c o, n => .scr sid c (o + n)
  | .sys a, n => .sys (a + n)
def Target.add : Target → Nat → Target
  | .dram pa p, n => .dram (pa + n) p
  | .scr sid c o p, n => .scr sid c (o + n) p
  | .sys d c o p, n => .sys d c (o + n) p

/-- What an access needs of its page (R122 item 5). -/
structure Need where
  rd : Bool
  wr : Bool
  ex : Bool
  deriving DecidableEq, Repr

def Need.read : Need := ⟨true, false, false⟩
def Need.write : Need := ⟨false, true, false⟩
def Need.atomic : Need := ⟨true, true, false⟩
def Need.fetch : Need := ⟨false, false, true⟩

/-- Who accesses: the context; for a warp or its engine transfer, the original core index of `ID_CORE` and its sheaf. -/
structure Who where
  ctx : Nat
  core : Option Nat
  sid : Option Nat
  deriving DecidableEq, Repr

def Warp.who (w : Warp) : Who := ⟨w.ident.ctx, some w.ident.core, some w.ident.sid⟩

/-- Bytes of one member's allocation (R106). -/
def LRec.area (r : LRec) : Nat := (r.roles.map (·.scr)).sum

/-- Members of a sheaf on sheaf core j (R37). -/
def LRec.onCore (r : LRec) (j : Nat) : Nat := ((List.range r.wgs).filter fun m => m % r.shape == j).length

/-- A sheaf of one warp formed from a range task or from tillers: it has no scratchpad (R321, R323). -/
def Sheaf.formed (h : Sheaf) : Bool := h.kind == .task || h.kind == .tiller

/-- Cores of a sheaf, and bytes of its allocation on its core j. -/
def Sheaf.width (h : Sheaf) (r : LRec) : Nat := if h.formed then 1 else r.shape
def Sheaf.alloc (h : Sheaf) (r : LRec) (j : Nat) : Nat := if h.formed then 0 else r.onCore j * r.area

def Sheaf.live (h : Sheaf) : Bool :=
  h.state == .resident || h.state == .frozen || h.state == .saved

/-- Context of a sheaf, and its launch record. -/
def State.lrec (s : State) (h : Sheaf) : Option LRec := (s.launch h.lid).map (·.r)
def State.ctxOf (s : State) (h : Sheaf) : Nat := ((s.launch h.lid).map (·.ctx)).getD 0

/-- The sheaf whose slice core index `c` names for an accessor (R59, R105, R501): the accessor's own copy where its
sheaf covers the core, else the live sheaf of the context (the leading copy of a pair). -/
def State.slice (s : State) (who : Who) (c : Nat) : Option (Sheaf × Nat) :=
  let covers (h : Sheaf) : Bool :=
    h.live && s.ctxOf h == who.ctx &&
    match s.lrec h with
    | some r => decide (h.orig ≤ c ∧ c < h.orig + h.width r)
    | none => false
  let own := s.sheaves.find? fun h => some h.sid == who.sid && covers h
  let other := s.sheaves.find? fun h => !h.trail && covers h
  match own with
  | some h => some (h, c - h.orig)
  | none => other.map fun h => (h, c - h.orig)

/-- Window allocation (R106, R107): the target of a window address, or fault 0x13. -/
def State.window (s : State) (who : Who) (rg : Region) (pte : Word64) : Option Target :=
  let inSlice (c o : Nat) : Option Target :=
    match s.slice who c with
    | none => none
    | some (h, j) =>
      match s.lrec h with
      | none => none
      | some r => if o < h.alloc r j then some (.scr h.sid j o pte) else none
  match rg with
  | .ordinary => none
  | .window c o => inSlice c o
  | .ownScr o => match who.core with | some c => inSlice c o | none => none
  | .system d c o =>
    if c > 1151 || d == s.io.start.device.toNat || !(s.cmd.peers.any fun p => p.ctx == who.ctx && p.dev == d && !p.lost) then none
    else some (.sys d c o pte)

/-- How the home reaches a device-memory target (R131). -/
def State.via (s : State) (ctx : Nat) (pte : Word64) : Via :=
  ⟨(s.mem.slotKey ctx (pteKey pte)).getD 0, pteBit pte 7⟩

/-- A translation to use for a walk: the leaf the walk finds, or an older one that a translation structure still holds;
which of two is free (R124). A leaf that passes its checks is cached; with it its page is assigned to its key (R130). -/
def State.leaf (s : State) (ctx va level : Nat) (e : Word64) : Nat × Word64 × State :=
  match s.mem.tlb.find? fun t => t.ctx == ctx && decide (t.base ≤ va ∧ va < t.base + t.size) with
  | some t =>
    if t.pte = e && t.level == level then (level, e, s)
    else
      let (b, s) := s.drawBool
      if b then (t.level, t.pte, s) else (level, e, s)
  | none =>
    let size := pageSize level
    let m := { s.mem with tlb := ⟨ctx, va / size * size, size, e, level⟩ :: s.mem.tlb }
    (level, e, s.setMem (if fld e 9 8 == 0 then m.assign (s.via ctx e).key (pteFrame e / size * size) size else m))

/-- The checks of R122 on one access of `size` bytes, in its order, and what the access reaches. -/
def State.translate (s : State) (who : Who) (a size : Nat) (need : Need) : Except XErr Target × State :=
  if a % size != 0 then (.error ⟨0x06, 0⟩, s)
  else match regionOf a with
  | none => (.error ⟨0x13, 0⟩, s)
  | some rg =>
    match s.cmd.ctxs.find? (·.id == who.ctx) with
    | none => (.error ⟨0x10, 0⟩, s)
    | some c =>
      let (l, stop) := walk s.mem a 4 0 c.root
      let use (level : Nat) (pte : Word64) (s : State) : Except XErr Target × State :=
        if (need.rd && !pteBit pte 2) || (need.wr && !pteBit pte 3) || (need.ex && !pteBit pte 4) then
          (.error ⟨0x11, level⟩, s)
        else match rg with
          | .ordinary =>
            let size := pageSize level
            (.ok (.dram (pteFrame pte / size * size + a % size) pte), s)
          | _ => match s.window who rg pte with
            | some t => (.ok t, s)
            | none => (.error ⟨0x13, level⟩, s)
      -- a walk that fails leaves an older leaf that is still held as the other possibility (R124)
      let fails (x : XErr) : Except XErr Target × State :=
        match s.mem.tlb.find? fun t => t.ctx == who.ctx && decide (t.base ≤ a ∧ a < t.base + t.size) with
        | some t =>
          let (b, s) := s.drawBool
          if b then use t.level t.pte s else (.error x, s)
        | none => (.error x, s)
      match stop with
      | some level => fails ⟨0x10, level⟩
      | none =>
        if conflict s.mem who.ctx rg a l then fails ⟨0x12, 0⟩
        else match l.getLast? with
          | none => (.error ⟨0x12, 0⟩, s)
          | some (level, e) =>
            let (level, e, s) := s.leaf who.ctx a level e
            use level e s

/-- Read within a line or a scratchpad word run: bytes, and whether a word of them is poisoned. A system-window target
reads nothing here. -/
def State.readAt (s : State) (ctx : Nat) (t : Target) (n : Nat) : List Byte × Bool :=
  match t with
  | .dram pa pte => s.mem.read (s.via ctx pte) pa n
  | .scr sid c o _ =>
    match s.sheaf sid with
    | none => (List.replicate n 0, false)
    | some h =>
      let a := c * 2 ^ 20 + o
      (h.scr.getN a n, (List.range ((n + 3) / 4)).any fun i => psnGet h.psn (a + 4 * i))
  | .sys .. => (List.replicate n 0, false)

/-- The chunk of a place has a check value that no longer matches (R139, R140, R479). -/
def Target.badChunk (m : Mem) : Target → Bool
  | .dram pa _ => m.bad pa
  | _ => false

/-- `FD.AUX` of a check-value mismatch (Table 17.2): the value expected, and that of the chunk's bytes. -/
def State.checkAux (s : State) (ctx : Nat) : Target → Word64
  | .dram pa pte =>
    crc32c (s.mem.read (s.via ctx pte) (pa / 64 * 64) 64).1 ++ ((s.mem.badck.find? (·.1 == pa / 64)).map (·.2)).getD 0
  | _ => 0

/-- As `checkAux`, of an address of a context. -/
def State.checkAuxAt (s : State) (ctx a : Nat) : Word64 :=
  match (s.translate ⟨ctx, none, none⟩ a 1 Need.read).1 with
  | .ok t => s.checkAux ctx t
  | .error _ => 0

/-- Store bytes in one sheaf's scratchpad. -/
def Sheaf.put (h : Sheaf) (a : Nat) (l : List Byte) (p : Bool) : Sheaf :=
  { h with scr := h.scr.putN a l, psn := psnWrite h.psn a l.length p }

/-- Apply `f` to a place, and for a party outside a pair whose slice it is to that of each copy, as if it were the copy's own (R501). -/
def State.eachCopy (s : State) (who : Who) (t : Target) (f : State → Who → Target → State) : State :=
  match t with
  | .scr sid c o pte => match (s.sheaf sid).bind (·.twin) with
    | some x =>
      if who.sid == some sid || who.sid == some x then f s who t
      else f (f s { who with sid := some sid } t) { who with sid := some x } (.scr x c o pte)
    | none => f s who t
  | t => f s who t

/-- Write within a line or a scratchpad word run. A copy's L1 lines are write-through, so a line held in an L1 is
updated in the core that stores (R116), by the caller. A write to a slice of a paired sheaf by another party reaches both
copies (R501). -/
def State.writeAt (s : State) (who : Who) (t : Target) (l : List Byte) (p : Bool) : State :=
  match t with
  | .dram pa pte => s.setMem (s.mem.write (s.via who.ctx pte) pa l p)
  | .scr sid c o _ =>
    let a := c * 2 ^ 20 + o
    let s1 := s.modSheaf sid (·.put a l p)
    match s.sheaf sid with
    | some h =>
      match h.twin with
      | some t => if who.sid == some sid || who.sid == some t then s1 else s1.modSheaf t (·.put a l p)
      | none => s1
    | none => s1
  | .sys .. => s

end Sys2Proof.Machine
end

