-- ==== Sys2Proof/Machine/Issue.lean ====
section
/-! DEFINITION. Issuing one word: the checks of R201 made at issue, lookahead windows (R195), the advance of the executing
lanes (R31, R33), and what follows the word; and fetching words (R136, R466). -/

namespace Sys2Proof.Machine

/-! ## Where a warp runs -/

/-- The warp's present core: sheaf core m mod C of its sheaf's present placement (R37, R59). -/
def State.coreOf (s : State) (w : Warp) : Nat :=
  match s.sheaf w.ident.sid with
  | none => w.ident.core
  | some h => h.cur + w.ident.core - h.orig

/-- Compute die of a core (R18). -/
def dieOf (core : Nat) : Nat := core / 144

/-- A warp may issue: its sheaf is resident (R38, R55). -/
def State.mayRun (s : State) (w : Warp) : Bool :=
  match s.sheaf w.ident.sid with
  | none => false
  | some h => h.state == .resident

/-- End the turn of a warp (R55, R57). -/
def Warp.endTurn (w : Warp) : Warp :=
  { w with slot := if w.slot == .turn then .waiting else w.slot, turnWords := 0, held := none,
           clause := { w.clause with broken := true } }

/-- `CLOCK` of a core's cluster (R21). -/
def State.clockAt (s : State) (core : Nat) : Nat := (s.cores.clock.getD (core / 24) 0).toNat

/-- The warp's next word waits: since now, unless it has waited already (R56). -/
def State.held (s : State) (w : Warp) : Warp := { w with held := some (w.held.getD (s.clockAt (s.coreOf w))) }

/-- Put a warp back; when its turn is over, no warp is in focus. -/
def State.putBack (s : State) (w : Warp) : State :=
  { s.setWarp w with focus := if w.slot == .turn then s.focus else none }

/-! ## Lookahead (R195, R451) -/

/-- The word names a register of an open window's pending destination. -/
def Warp.conflict (w : Warp) (i : Instr) : Bool :=
  w.wins.any fun x => x.left != 0 && !x.susp && i.names.any x.regs.contains

/-- A closed window's destination is still outstanding. -/
def Warp.windowWait (w : Warp) : Bool := w.wins.any fun x => x.left == 0 && !x.done && !x.susp

/-- A handler word names a register of a suspended window's outstanding destination (R451). -/
def Warp.suspWait (w : Warp) (i : Instr) : Bool :=
  w.wins.any fun x => x.susp && !x.done && i.names.any x.regs.contains

/-- Hold of a transactional access or of TEND (R523). -/
def Warp.txWait (w : Warp) : Bool :=
  w.husk.any fun e => match e.instr with
    | .tend _ => true
    | _ => e.txl &&& e.pend &&& w.tx.inTx != 0

/-- The warp itself waits before its next word. -/
def Warp.wordWait (w : Warp) : Bool := w.windowWait || w.txWait || w.waits.page.isSome

/-- The warp of a sheaf pair has issued as far as the slack limit lets it, or its twin has not issued so far (R504). -/
def State.slackWait (s : State) (w : Warp) : Bool :=
  match s.twinOf w, s.launch w.ident.lid with
  | some (true, l), _ => decide (l.issued ≤ w.issued) && l.slot != .finished
  | some (false, t), some la => decide (t.issued + la.r.slack + 1 ≤ w.issued) && t.slot != .finished
  | _, _ => false

/-- A leading warp stops for a checkpoint, and both copies for a rollback (R507, R509). -/
def State.pairStop (s : State) (w : Warp) : Bool :=
  match s.leadOf w.ident.sid with
  | none => false
  | some l => l.pair.bad || (l.pair.want && l.sid == w.ident.sid)

/-- A leading warp has issued a HALT that its twin has not matched yet (R502). -/
def Warp.halting (w : Warp) : Bool := w.reads.any (!·.done)

/-- A warp of a sheaf pair waits for its twin. -/
def State.pairWait (s : State) (w : Warp) : Bool := s.slackWait w || s.pairStop w || w.halting

/-- The next word waits before any check of it. -/
def State.holds (s : State) (w : Warp) : Bool := w.wordWait || s.pairWait w

/-- One word issues: it counts in every open window, and windows that are over and written go (R195). -/
def Warp.countWord (w : Warp) : Warp :=
  let l := w.wins.map fun x => if x.susp then x else { x with left := x.left - 1 }
  { w with wins := l.filter fun x => x.susp || x.left != 0 || !x.done }

/-- Open a window whose destination is written at once. -/
def Warp.openDone (w : Warp) (id la : Nat) (regs : List (RegCls × Nat)) : Warp :=
  if la = 0 then w else { w with wins := w.wins ++ [⟨id, la, regs, true, true, false⟩] }

/-- Open a window of an operation in the core's pipelines, with the registers it will write (R213). -/
def Warp.openPipe (w : Warp) (id la : Nat) (regs : List (RegCls × Nat)) (wb : List WB) : Warp :=
  { w with wins := w.wins ++ [⟨id, la, regs, false, true, false⟩], pipe := w.pipe ++ [⟨id, wb⟩] }

/-- Open a window that a husk entry's completion closes; its identifier is the entry's sequence number. -/
def Warp.openHusk (w : Warp) (seq : BitVec 16) (la : Nat) (regs : List (RegCls × Nat)) : Warp :=
  { w with wins := w.wins ++ [⟨seq.toNat, la, regs, false, false, false⟩] }

/-! ## Checks (R201) -/

/-- Every register named lies in the warp's budget (R41). -/
def Warp.budgetOk (w : Warp) (i : Instr) : Bool :=
  i.uses.all fun u => match u.cls with
    | .v => decide (u.n + u.k ≤ w.v.length)
    | .s => decide (u.n + u.k ≤ w.s.length)
    | .a => decide (u.n + u.k ≤ w.acc.length)
    | .p => true

/-- Sources read under a type: a register group and the tags it accepts (R75). -/
structure Src where
  n : R8
  k : Nat
  ok : List Nat
  deriving DecidableEq, Repr

/-- Code 0x28 for a source with tag 15 that is not accepted, 0x04 for another tag that is not (R75, R76). -/
def Warp.tagFault (w : Warp) (l : List Src) : Option Code8 :=
  (l.flatMap fun x => (List.range x.k).map fun j => (x.ok, (w.tag (x.n.toNat + j)).toNat)).findSome? fun (ok, t) =>
    if ok.contains t then none else if t = 15 then some 0x28 else some 0x04

/-- Checks 5 to 7 of R201, for performing lanes `P`. -/
def Warp.check (w : Warp) (i : Instr) (src : List Src) (P : Mask) : Option Code8 :=
  if !w.budgetOk i then some 0x05
  else if w.conflict i then some 0x03
  else if P = 0 then none else w.tagFault src

/-! ## One word -/

/-- Address of the next header of the clause (R179). -/
def Clause.next (c : Clause) : Nat := c.addr + 16 + 8 * c.hdr.count

/-- Address of the next word of a clause. -/
def Clause.word (c : Clause) : Nat := c.addr + 8 + 8 * c.slot

/-- A lane stands at the word into which ERET returned it (R452). -/
def Warp.standsAt (w : Warp) (c : Clause) : Bool := (lanesOf w.live).any fun i => (w.pcOf i).toNat == c.word

/-- The executing lanes advance past the word, which counts (R31, R183, R195). A word into which ERET returned lanes that have all left it is
a word like any other. -/
def Warp.advance (w : Warp) : Warp :=
  let last := w.clause.slot == w.clause.hdr.count
  let a := if last then w.clause.next else w.issueAddr + 8
  let w1 := w.countWord
  let w2 := w1.setPc w.exec fun _ => BitVec.ofNat 64 a
  { w2 with
    mids := w2.mids.filter w2.standsAt
    clause := { w.clause with slot := w.clause.slot + 1, inside := !last }
    turnWords := w.turnWords + 1
    issued := w.issued + 1, held := none, suppress := w.suppress &&& ~~~w.exec }

/-- After the word: at the clause's end doomed lanes resume outside trap mode (R280), and HINT 1 yields (R181). -/
def Warp.clauseEnd (w : Warp) : Warp :=
  if w.clause.inside then w
  else
    let w := if w.trapMode then w else w.undoom w.live
    if w.clause.hdr.hint == 1 then w.endTurn else w

/-- What the performing of a word gives: the machine and the warp after it, and whether the turn ends; a wait before it;
an issue-precise fault (in a machine that drew free values on the way); a trap taken after it; a freeze of the warp's sheaf
after it; or the stop of R454 that writes no register. -/
inductive Res
  | go (s : State) (w : Warp) (stop : Bool)
  | freeze (s : State) (w : Warp) (why : Why)
  | hold (s : State)
  | trap (cause : Code8)
  | trapIn (s : State) (cause : Code8)
  | stop (cause : Code8)
  | after (cause : Code8) (src code : Nat)

/-- A word as stored, for the fault event. -/
def wordOf (i : Instr) : Word64 := (encode i).getD 0

/-- Registers whose value the leading copy forwards (Table 19.1). -/
def forwarded : Special → Bool
  | .timebase | .clock | .lanemap | .gazeAz | .gazeEl | .gazeTime | .gazeSeq => true
  | _ => false

/-- A request that both copies of a pair make at a word count, and no husk entry holds. -/
def asks : Instr → Bool
  | .sread _ _ _ _ sp => forwarded sp
  | .halt .. => true
  | _ => false

/-- A word of a paired warp that issues without a trap is a mismatch: its twin finished at this word count or before it (R505 item 3), the
leading copy trapped at this count and the trailing one has not (item 6), or the leading copy's request at this count is another one (item 2). -/
def State.pairPass (s : State) (w : Warp) (i : Instr) (P : Mask) : Bool :=
  match s.twinOf w with
  | none => false
  | some (trail, t) => (t.slot == .finished && decide (t.issued ≤ w.issued)) || (trail &&
      ((t.traps.contains w.issued && !w.traps.contains w.issued) ||
        match t.reads.find? (·.n == w.issued + 1) with
        | some r => r.word != wordOf i || r.lanes != P
        | none => asks i && P != 0))

/-- Trap point of the word about to issue. -/
def Warp.here (w : Warp) (cause : Code8) : TrapAt :=
  ⟨cause, w.clause.slot, false, !w.clause.inside, 0, 0, w.issueAddr, w.exec⟩

/-- The warp that issues: in its turn, inside a clause, with its sheaf resident. -/
def State.issuer (s : State) : Option Warp :=
  match s.focus with
  | none => none
  | some vw =>
    match s.warp vw with
    | none => none
    | some w => if w.slot == .turn && w.clause.inside && s.mayRun w then some w else none

/-- Issue one word of warp `w`. `f` is what the word does in the performing lanes: it gets the machine, the warp already
advanced past the word, and P (R209). -/
def State.issueAt (s : State) (w : Warp) (i : Instr) (g : Guard) (src : List Src) (f : State → Warp → Mask → Res) : State :=
  let P := w.exec &&& w.guarded g
  if s.holds w || w.suspWait i then s.setWarp (s.held w)
  else match w.check i src P with
  | some c => s.takeTrap w (w.here c) (wordOf i)
  | none =>
    if P = 0 then
      if s.pairPass w i P then s.mismatch w.ident.sid
      else match i.la with
      | some la => { s.putBack (w.advance.openDone s.nextId la i.pending).clauseEnd with nextId := s.nextId + 1 }
      | none => s.putBack w.advance.clauseEnd
    else match f s w.advance P with
      | .go s1 w1 stop =>
        if s.pairPass w i P then s.mismatch w.ident.sid
        else
          let w2 := w1.clauseEnd
          s1.putBack (if stop then w2.endTurn else w2)
      | .freeze s1 w1 why => if s.pairPass w i P then s.mismatch w.ident.sid else (s1.putBack w1.clauseEnd).freezeSheaf w.ident.sid why
      | .hold s1 => s1.modWarp w.vw s1.held
      | .trap c => s.takeTrap w (w.here c) (wordOf i)
      | .trapIn s1 c => s1.takeTrap w (w.here c) (wordOf i)
      | .stop c => (s.issueEvent w c w.exec (wordOf i)).freezeSheaf w.ident.sid .fault
      | .after c x code => s.takeTrap (if w.delivers then w.advance else w.advance.clauseEnd)
          { w.here c with done := true, src := x, code := code } (wordOf i)

/-- The meaning of an instruction word: the issuing warp issues it. -/
def State.issue (s : State) (i : Instr) (g : Guard) (src : List Src) (f : State → Warp → Mask → Res) :
    Host.Outcome State Fault Refusal :=
  match s.issuer with
  | none => .fault .noIssuingWarp
  | some w => .next (s.issueAt w i g src f)

/-! ## Fetch (R136, R137, R463, R466) -/

/-- Enter a page record into the fault batch of a die, one per context and page; a batch that becomes full closes at the end of the step
(R463). -/
def State.pageFault (s : State) (die ctx va : Nat) (need : Need) (hint : Bool) (level : Nat) : State :=
  let page := va / 4096
  let new : PageRec := ⟨ctx, page, need.rd, need.wr, need.ex, hint, level, 0⟩
  let same (r : PageRec) : Bool := r.ctx == ctx && r.page == page
  let add (l : List PageRec) : List PageRec :=
    if l.any same then
      updIf same (fun r => { r with rd := r.rd || need.rd, wr := r.wr || need.wr, ex := r.ex || need.ex,
                                    hint := r.hint && hint }) l
    else l ++ [new]
  let b := if s.cmd.batches.any (·.die == die) then
      updIf (·.die == die) (fun b => { b with recs := add b.recs }) s.cmd.batches
    else s.cmd.batches ++ [⟨die, s.io.time.timebase.toNat, [new]⟩]
  { s with cmd := { s.cmd with batches := b } }

/-- A warp waits for a page: at the word or header where its fetch, or a BGEMV's weights, met an entry that is not valid
(R466, R325). -/
def State.waitPage (s : State) (w : Warp) (va : Nat) (need : Need) (level : Nat) : State :=
  (s.pageFault (dieOf (s.coreOf w)) w.ident.ctx va need false level).setWarp
    { s.held w with waits := { w.waits with page := some (va / 4096) } }

/-- The line of an instruction cache that holds an address. -/
def Mem.iline (m : Mem) (core ctx a : Nat) : Option ILine :=
  m.il.find? fun l => l.core == core && l.ctx == ctx && l.line == a / 128

/-- A core's instruction cache holds 1,024 lines: a line that enters a full one takes the place of an unpinned line that is a free choice
(R17). -/
def State.codeRoom (s : State) (core ctx a : Nat) : State :=
  let mine := s.mem.il.filter (·.core == core)
  let loose := mine.filter (·.pins.isEmpty)
  if mine.length < 1024 || (s.mem.iline core ctx a).isSome then s
  else
    let (x, s) := s.drawWord
    match loose[x.toNat % max 1 loose.length]? with
    | some l => s.setMem { s.mem with il := s.mem.il.erase l }
    | none => s

/-- Read a line of code from its home into a core's instruction cache, keeping the pins of the copy that it replaces; a reserved
compression tag poisons the line (R130). -/
def State.fillLine (s : State) (core ctx a pa : Nat) (pte : Word64) : State × ILine :=
  let b := pa / 128 * 128
  let (bytes, _) := s.mem.read (s.via ctx pte) b 128
  let pins := match s.mem.iline core ctx a with | some l => l.pins | none => []
  let l : ILine := ⟨core, ctx, a / 128, bytes, (List.range 32).filter fun i => (s.mem.read (s.via ctx pte) (b + 4 * i) 4).2, pins, (s.via ctx pte).key⟩
  let s := s.codeRoom core ctx a
  (s.setMem { s.mem with il := upsert (fun x => x.core == core && x.ctx == ctx && x.line == a / 128) l s.mem.il }, l)

/-- Fetch the eight bytes at `a` for a warp (R136): as they stand at their home, or from a copy that the instruction cache
holds, read under the same key (R133); of an unpinned line the cache may have let go, so which of the two is free. -/
def State.fetch (s : State) (w : Warp) (a : Nat) : Except XErr Word64 × State :=
  match s.translate w.who a 8 Need.fetch with
  | (.error e, s) => (.error e, s)
  | (.ok (.dram pa pte), s) =>
    let core := s.coreOf w
    let ctx := w.ident.ctx
    let out (l : ILine) (s : State) : Except XErr Word64 × State :=
      let j := a % 128
      if l.psn.contains (j / 4) || l.psn.contains (j / 4 + 1) then (.error ⟨0x28, 0⟩, s)
      else (.ok (BitVec.ofNat 64 (ofBytes ((l.bytes.drop j).take 8))), s)
    match s.mem.iline core ctx a with
    | none => let (s, l) := s.fillLine core ctx a pa pte; out l s
    | some l =>
      if l.key != (s.via ctx pte).key then let (s, l) := s.fillLine core ctx a pa pte; out l s
      else if !l.pins.isEmpty then out l s
      else
        let (b, s) := s.drawBool
        if b then out l s else let (s, l) := s.fillLine core ctx a pa pte; out l s
  | (.ok _, s) => (.error ⟨0x12, 0⟩, s)

end Sys2Proof.Machine
end

