-- ==== Sys2Proof/Machine/Flags.lean ====
section
/-! DEFINITION. The bits of `FFLAGS` (Table 3.5) and the saturation flag of integer instructions (R70, R227). -/

namespace Sys2Proof.Machine

abbrev FlagSet := BitVec 6

def fNX : FlagSet := 1
def fUF : FlagSet := 2
def fOF : FlagSet := 4
def fDZ : FlagSet := 8
def fNV : FlagSet := 16
def fSAT : FlagSet := 32

/-- A flag when a condition holds. -/
def flagIf (b : Bool) (f : FlagSet) : FlagSet := if b then f else 0

/-- The union of the flags that the lanes of `P` raise (R79). -/
def laneFlags (P : Mask) (f : Nat → FlagSet) : FlagSet := (lanesOf P).foldl (fun a i => a ||| f i) 0

/-- The range of a `w`-bit integer. -/
def loOf (sgn : Bool) (w : Nat) : Int := if sgn then -(2 ^ (w - 1)) else 0
def hiOf (sgn : Bool) (w : Nat) : Int := if sgn then 2 ^ (w - 1) - 1 else 2 ^ w - 1

/-- Clamp to a range, and `SAT` when that changes the value (R70). -/
def clampTo (sgn : Bool) (w : Nat) (x : Int) : Int × FlagSet :=
  let y := max (loOf sgn w) (min (hiOf sgn w) x)
  (y, flagIf (x != y) fSAT)

end Sys2Proof.Machine
end

