-- ==== Sys2Proof/Machine/Operands.lean ====
section
/-! DEFINITION. Operand forms: the tags each type accepts (Table 3.3), packed elements (R69), and the shapes in which the
instruction entries read their sources and write their results (R209, R210). -/

namespace Sys2Proof.Machine

/-! ## Tags (Table 3.3, R76) -/

def tInt : List Nat := [0, 1, 2]
def tRaw : List Nat := List.range 15
def tAny : List Nat := List.range 16
def tF32 : List Nat := [0, 3]
def tF64 : List Nat := [0, 4]

/-- Tags that an integer form accepts, and its result tag (R226). -/
def intTags : Pack → List Nat
  | .none => tInt
  | .p16 => [0, 13]
  | .p8 => [0, 12]
def intTag (t : ITy) : Pack → Tag
  | .none => if t = .i32 then 1 else 2
  | .p16 => 13
  | .p8 => 12

/-- Tags that a floating-point type accepts, and its result tag. -/
def fTags : FTy → List Nat
  | .f32 => tF32
  | .f64 => tF64
  | .h2 => [0, 5]
  | .bf2 => [0, 6]
def fTag : FTy → Tag
  | .f32 => 3
  | .f64 => 4
  | .h2 => 5
  | .bf2 => 6
def dblTags (dbl : Bool) : List Nat := if dbl then tF64 else tF32
def dblTag (dbl : Bool) : Tag := if dbl then 4 else 3

/-- Format tag of a type code where it names a register format (Table 3.2, Table 3.3). -/
def tyTag : Ty → Tag
  | .i32 => 1 | .u32 => 2 | .b32 => 0 | .b64 => 0 | .f32 => 3 | .f64 => 4 | .h2 => 5 | .bf2 => 6 | .e4 => 7 | .e5 => 8
  | .x8 => 9 | .x6 => 10 | .x4 => 11 | .i8 => 12 | .i4 => 14 | .b1 => 14

/-! ## Elements (R69) -/

/-- Element width of a packed form. -/
def packWidth : Pack → Nat
  | .none => 32
  | .p16 => 16
  | .p8 => 8

/-- Element j of a lane, as an integer. -/
def elem (sgn : Bool) (w j : Nat) (x : Word32) : Int :=
  let e := x.toNat / 2 ^ (w * j) % 2 ^ w
  if sgn && decide (2 ^ (w - 1) ≤ e) then (e : Int) - 2 ^ w else e

/-- A lane of `w`-bit elements, each taken modulo 2^w. -/
def packInts (w : Nat) (l : List Int) : Word32 :=
  BitVec.ofNat 32 (l.foldr (fun x acc => acc * 2 ^ w + (x % 2 ^ w).toNat) 0)

/-- Element by element, wrapping. -/
def mapElems (t : ITy) (pk : Pack) (f : Int → Int → Int) (a b : Word32) : Word32 :=
  let w := packWidth pk
  packInts w ((List.range (32 / w)).map fun j => f (elem (t == .i32) w j a) (elem (t == .i32) w j b))

/-- Element by element, saturating. -/
def mapElemsSat (t : ITy) (pk : Pack) (f : Int → Int → Int) (a b : Word32) : Word32 × FlagSet :=
  let w := packWidth pk
  let sg := t == .i32
  let r := (List.range (32 / w)).map fun j => clampTo sg w (f (elem sg w j a) (elem sg w j b))
  (packInts w (r.map (·.1)), r.foldl (fun x y => x ||| y.2) 0)

/-! ## Result shapes -/

/-- Lanes of a register. -/
def Warp.ln (w : Warp) (n : R8) (i : Nat) : Word32 := Lanes.get (w.lanes n.toNat) i

/-- A 64-bit lane value of a pair. -/
def Warp.ln64 (w : Warp) (n : R8) (i : Nat) : Word64 := w.pair n.toNat i

/-- Write one vector register in the lanes of P, with a tag, and raise flags. -/
def Warp.putV (w : Warp) (d : R8) (P : Mask) (t : Tag) (f : Nat → Word32) : Warp := w.vset d.toNat P (Lanes.of f) t

/-- Write a pair. -/
def Warp.putV2 (w : Warp) (d : R8) (P : Mask) (t : Tag) (f : Nat → Word64) : Warp :=
  (w.vset d.toNat P (Lanes.of fun i => (f i).setWidth 32) t).vset (d.toNat + 1) P
    (Lanes.of fun i => (f i).extractLsb' 32 32) t

/-- A per-lane instruction with one vector result and no flag. -/
def State.vop (s : State) (i : Instr) (g : Guard) (src : List Src) (d : R8) (t : Tag) (f : Warp → Nat → Word32) :
    Host.Outcome State Fault Refusal :=
  s.issue i g src fun s w P => .go s (w.putV d P t (f w)) false

/-- A per-lane instruction with one vector result and flags. -/
def State.vopF (s : State) (i : Instr) (g : Guard) (src : List Src) (d : R8) (t : Tag)
    (f : Warp → Nat → Word32 × FlagSet) : Host.Outcome State Fault Refusal :=
  s.issue i g src fun s w P => .go s ((w.putV d P t fun j => (f w j).1).flags (laneFlags P fun j => (f w j).2)) false

/-- A per-lane instruction whose result fills a pair. -/
def State.vop2 (s : State) (i : Instr) (g : Guard) (src : List Src) (d : R8) (t : Tag)
    (f : Warp → Nat → Word64 × FlagSet) : Host.Outcome State Fault Refusal :=
  s.issue i g src fun s w P => .go s ((w.putV2 d P t fun j => (f w j).1).flags (laneFlags P fun j => (f w j).2)) false

/-- A per-lane instruction with a predicate result: bits of lanes of P (R210). -/
def State.pop (s : State) (i : Instr) (g : Guard) (src : List Src) (d : Nat) (f : Warp → Nat → Bool × FlagSet) :
    Host.Outcome State Fault Refusal :=
  s.issue i g src fun s w P =>
    .go s ((w.pset d P (maskOf fun j => (f w j).1)).flags (laneFlags P fun j => (f w j).2)) false

/-- A warp-level instruction with a scalar result. -/
def State.sop (s : State) (i : Instr) (g : Guard) (d : R8) (f : Warp → Word64) : Host.Outcome State Fault Refusal :=
  s.issue i g [] fun s w _ => .go s (w.sset d.toNat (f w)) false

/-- A long-latency instruction of the core's pipelines (R213): its results and flags are those of its issue; they are
written when the pipeline completes. -/
def State.pipeOp (s : State) (i : Instr) (g : Guard) (la : BitVec 4) (src : List Src)
    (f : State → Warp → Mask → List WB × FlagSet) : Host.Outcome State Fault Refusal :=
  s.issue i g src fun s w P =>
    let (wb, fl) := f s w P
    .go { s with nextId := s.nextId + 1 } ((w.flags fl).openPipe s.nextId la.toNat i.pending wb) false

/-- Write-back of one vector register, and of a pair. -/
def wbV (d : R8) (P : Mask) (t : Tag) (f : Nat → Word32) : WB := .v d.toNat P (Lanes.of f) t
def wbV2 (d : R8) (P : Mask) (t : Tag) (f : Nat → Word64) : List WB :=
  [.v d.toNat P (Lanes.of fun i => (f i).setWidth 32) t, .v (d.toNat + 1) P (Lanes.of fun i => (f i).extractLsb' 32 32) t]

/-- Scalar register by field. -/
def Warp.sc (w : Warp) (a : R8) : Word64 := w.sget a.toNat

/-- Second scalar operand (R223). -/
def Warp.sb (w : Warp) : SB → Word64
  | .reg b => w.sc b
  | .imm v => v.signExtend 64

/-- Shift amount of a scalar shift: bits [5:0] (R223). -/
def Warp.shamt (w : Warp) (b : SB) : Nat := (w.sb b).toNat % 64

/-- Predicate named by an eight-bit field. -/
def Warp.pr (w : Warp) (n : R8) : Mask := w.pget n.toNat

end Sys2Proof.Machine
end

