-- ==== Sys2Proof/Machine/Report.lean ====
section
/-! DEFINITION. The checks of firmware images (R434), completion records (R344) and the events of Table 18.2 that several parts of the machine send. -/

namespace Sys2Proof.Machine

/-- Version of an image that may run (R434). -/
def imageVersion (l : List Byte) : Option Nat :=
  match Config.imageFields l with
  | some (v, sig) =>
    if Config.ecdsaVerify Config.firmwareKey (Config.sha256 l) sig && decide (Config.minFirmware ≤ v) then some v else none
  | none => none

/-- A committed image, or the one in place at manufacture, passes the checks of R434. -/
def imagePasses : Option (Nat × List Byte) → Bool
  | some (_, img) => (imageVersion img).isSome
  | none =>
    let (v, hash, sig) := Config.factoryFirmware
    Config.ecdsaVerify Config.firmwareKey hash sig && decide (Config.minFirmware ≤ v)

/-- The mapped queue of a number. -/
def State.queue (s : State) (q : Nat) : Option Queue := s.cmd.queues.find? (·.q == q)
def State.modQueue (s : State) (q : Nat) (f : Queue → Queue) : State :=
  { s with cmd := { s.cmd with queues := updIf (·.q == q) f s.cmd.queues } }

/-- Something leaves the package. -/
def State.send (s : State) (o : Out) : State := { s with io := { s.io with out := s.io.out ++ [o] } }

/-- A port of the package whose link is up: the only way in for anything from outside (R28). -/
def State.hears (s : State) (port : Nat) : Bool :=
  match s.io.ports[port]? with
  | some p => p.up
  | none => false

/-- Something from the host can reach a queue's connection: it stands, and its port's link is up (R28, R496). -/
def State.reached (s : State) (x : Queue) : Bool := !x.lost && s.hears x.port

/-- The two words of a completion record (Table 10.4). -/
def recordWords (q : Queue) (tag : Word32) (status n : Nat) : List Word64 :=
  [at_ tag.toNat 0 ||| at_ status 32 ||| at_ q.q 36, at_ n 0 ||| at_ q.h 20]

/-- Write the next completion record of a queue (R344); nothing reaches a host whose connection is lost (R496). -/
def State.record (s : State) (q n : Nat) (tag : Word32) (cmpl : Bool) (status : Nat) : State :=
  match s.queue q with
  | none => s
  | some x =>
    let slot := x.recNo % 2 ^ x.logS
    let imm := if cmpl then some (BitVec.ofNat 32 (q + x.recNo % 2 ^ 20 * 2 ^ 12)) else none
    let s1 := if x.lost then s
      else s.send (.record q (x.cring + BitVec.ofNat 64 (16 * slot)) x.rkey (recordWords x tag status n) imm)
    s1.modQueue q fun x => { x with recNo := x.recNo + 1 }

/-- A running packet of a queue. -/
def State.running (s : State) (q n : Nat) : Option Running :=
  (s.queue q).bind fun x => x.running.find? (·.n == n)

/-- An event enters the hardware event queue (R347). -/
def State.post (s : State) (e : CmdEv) : State := { s with cmd := { s.cmd with evq := s.cmd.evq ++ [e] } }

/-- A sheaf executes HALT: its status-4 record and the halt event (R222, R344, R359, Table 18.2). -/
def State.halted (s : State) (lid : Nat) (code : BitVec 16) : State :=
  match s.launch lid with
  | none => s
  | some l =>
    let s := match s.running l.queue l.packet with
      | some r => s.record l.queue l.packet r.tag r.cmpl 4
      | none => s
    (s.event (s.evOf 0x10 lid [at_ code.toNat 0] [])).post (.note 0 lid)

end Sys2Proof.Machine
end

