-- ==== Sys2Proof/Machine/Husk.lean ====
section
/-! DEFINITION. Husk entries (R400, R401): taking one, what its operation is to the memory model (R141, R142), what it must wait
for before it is performed (R143, R150, R157), the results it writes, and sheaf pairs (R500 to R506). -/

namespace Sys2Proof.Machine

/-! ## Taking an entry -/

/-- An entry of warp `w` for the performing lanes `P`. -/
def HkEntry.new (w : Warp) (i : Instr) (c : HkClass) (P : Mask) : HkEntry :=
  { instr := i, seq := w.nseq, cls := c, state := .outstanding, rm := w.spr.fmode.extractLsb' 0 2, port := false, planes := P,
    pend := P, perf := 0, prog := 0, cause := 0, faddr := 0, addr := of64 fun _ => 0, data := [], psn := [], scal := [],
    cfg := w.cfg, region := w.region, closes := none, txl := 0, parked := false, chunks := [], sent := 0, queued := false, rep := false }

/-- The husk has no room: 32 entries are live, or the oldest is 32 numbers back (R258, R400). -/
def Warp.huskFull (w : Warp) : Bool :=
  32 ≤ w.husk.length || match w.husk with
    | [] => false
    | e :: _ => decide (32 < (w.nseq - e.seq).toNat)

/-- Take the entry. -/
def Warp.take (w : Warp) (e : HkEntry) : Warp := { w with husk := w.husk ++ [e], nseq := w.nseq + 1 }

/-- Take an entry whose operation is over at once. -/
def Warp.tick (w : Warp) : Warp := { w with nseq := w.nseq + 1 }

/-- The entry of a sequence number, replaced and removed. -/
def Warp.entry (w : Warp) (seq : BitVec 16) : Option HkEntry := w.husk.find? (·.seq == seq)
def Warp.setEntry (w : Warp) (e : HkEntry) : Warp := { w with husk := updIf (·.seq == e.seq) (fun _ => e) w.husk }
def Warp.modEntry (w : Warp) (seq : BitVec 16) (f : HkEntry → HkEntry) : Warp :=
  { w with husk := updIf (·.seq == seq) f w.husk }

/-- The entry completes: its window is written, and it leaves the husk (R258). -/
def Warp.retire (w : Warp) (seq : BitVec 16) : Warp :=
  let wins := updIf (fun x : Win => !x.pipe && x.id == seq.toNat) (fun x => { x with done := true }) w.wins
  { w with husk := w.husk.filter (·.seq != seq), wins := wins.filter fun x => x.susp || x.left != 0 || !x.done }

/-- Lanes whose operation has not been performed. -/
def HkEntry.undone (e : HkEntry) : Mask := e.pend &&& ~~~e.perf

/-- Requests of some lanes of an entry have reached their places. -/
def Warp.unsend (w : Warp) (seq : BitVec 16) (L : Mask) : Warp := w.modEntry seq fun e => { e with sent := e.sent &&& ~~~L }

/-! ## What an operation is to the memory model -/

def acqOrd : Ord → Bool
  | .acq | .ar | .sc => true
  | _ => false

/-- Reads and writes memory, acts as an acquire, is a region boundary (Table 5.1), is a FENCE (Table 8.14). -/
structure Kind where
  loads : Bool
  stores : Bool
  acq : Bool
  bound : Bool
  fence : Option Ord
  deriving DecidableEq, Repr

def kindOf : Instr → Kind
  | .ld _ _ _ o _ _ _ | .lds _ _ _ o _ _ _ => ⟨true, false, acqOrd o, o != .none, none⟩
  | .st _ _ o _ _ _ | .sts _ _ o _ _ _ => ⟨false, true, false, o != .none, none⟩
  | .ldc _ _ _ acq _ _ _ _ => ⟨true, false, acq, acq, none⟩
  | .ldp .. | .ldt .. => ⟨true, false, false, false, none⟩
  | .atom _ _ _ _ o .. | .acas _ _ _ o .. | .red _ _ _ o .. | .vbmin _ o .. => ⟨true, true, acqOrd o, o != .none, none⟩
  | .fence _ o _ => ⟨false, false, false, true, some o⟩
  | .bfence _ => ⟨false, false, true, true, none⟩
  | .tend _ => ⟨true, true, true, true, none⟩
  | .osenter .. => ⟨true, true, true, true, none⟩
  | .osleave .. => ⟨true, true, false, true, none⟩
  | .osreset .. => ⟨true, true, false, false, none⟩
  | .osquery .. => ⟨true, false, false, false, none⟩
  | .bar .. | .phase .. => ⟨false, false, true, true, none⟩
  | .mbinit .. | .mbexp .. => ⟨true, true, false, false, none⟩
  | .mbarr .. => ⟨true, true, false, true, none⟩
  | .mbwait .. | .mbwaitCur .. | .mbtest .. => ⟨true, false, true, true, none⟩
  | .mbtestSnap .. => ⟨true, false, false, false, none⟩
  | .mloop .. | .mcoop .. => ⟨true, false, false, false, none⟩
  | .bgemv .. | .rtquery .. => ⟨true, false, false, false, none⟩
  | .msta .. => ⟨false, true, false, false, none⟩
  | _ => ⟨false, false, false, false, none⟩

def Kind.acc (k : Kind) : Bool := k.loads || k.stores

/-- A load form (R150's second limit, the lanes of R457's first row). -/
def isLoad : Instr → Bool
  | .ld .. | .lds .. | .ldc .. | .ldp .. | .ldt .. => true
  | _ => false
def isStore : Instr → Bool
  | .st .. | .sts .. => true
  | _ => false
def isAtomic : Instr → Bool
  | .atom .. | .acas .. | .red .. | .vbmin .. => true
  | _ => false

/-- Bytes of a lane's access (Table 8.2). -/
def ldBytes : LdW → Nat
  | .full .b64 | .full .f64 => 8
  | .full _ => 4
  | .w8 _ => 1
  | .w16 _ => 2
  | .quad _ => 16
def accBytes : Instr → Nat
  | .ld _ _ w .. | .lds _ _ w .. => ldBytes w
  | .st _ w .. | .sts _ w .. => ldBytes w
  | .ldc _ _ wide .. => if wide then 8 else 4
  | .ldp .. | .ldt .. => 4
  | .atom _ _ _ wide .. | .acas _ _ wide .. | .red _ _ wide .. => if wide then 8 else 4
  | .vbmin .. => 8
  | .mbinit .. | .mbexp .. | .mbarr .. | .mbwait .. | .mbwaitCur .. | .mbtest .. | .mbtestSnap .. => 16
  | _ => 0

/-- A `.q` form. -/
def isQuad : Instr → Bool
  | .ld _ _ (.quad _) .. | .lds _ _ (.quad _) .. | .st _ (.quad _) .. | .sts _ (.quad _) .. => true
  | _ => false

/-- Address that a lane accesses; none for an LDS or STS address outside a slice (R263). -/
def effAddr (i : Instr) (a : Word64) : Option Nat :=
  match i with
  | .lds .. | .sts .. => if a.toNat < 2 ^ 20 then some (0xF1 * 2 ^ 48 + a.toNat) else none
  | _ => some a.toNat

/-- Address and bytes that the operation of lane i touches. -/
def HkEntry.span (e : HkEntry) (i : Nat) : Option (Nat × Nat) :=
  match e.instr with
  | .msta .. => some ((lane64 e.addr i).toNat, e.prog)
  | _ => if accBytes e.instr = 0 then none else (effAddr e.instr (lane64 e.addr i)).map fun a => (a, accBytes e.instr)

/-- Addresses of the aligned words of a span. -/
def spanWords (a n : Nat) : List Nat :=
  if n = 0 then [] else (List.range ((a + n - 1) / 4 - a / 4 + 1)).map fun k => 4 * (a / 4 + k)

/-- The place that a word address names for a party, with no check of permission. -/
def State.locOf (s : State) (who : Who) (a : Nat) : Option Loc :=
  match (s.translate who a 4 ⟨false, false, false⟩).1 with
  | .ok t => some t.loc
  | .error _ => none

/-- The words that lanes of an entry touch. -/
def State.locsOf (s : State) (w : Warp) (e : HkEntry) (L : Mask) : List Loc :=
  (lanesOf L).flatMap fun i =>
    match e.span i with
    | none => []
    | some (a, n) => (spanWords a n).filterMap (s.locOf w.who)

/-- The keys that lanes of an ordered-section entry access: their scope and value (R285). -/
def HkEntry.keysOf (e : HkEntry) (L : Mask) : List (Bool × Word64) :=
  match e.instr with
  | .osenter _ cl .. | .osleave _ cl .. | .osreset _ cl .. | .osquery _ _ cl .. => (lanesOf L).map fun i => (cl, lane64 e.addr i)
  | _ => []

/-- An earlier entry that is not performed keeps a later one from being performed (R143, R150): an acquire that is an access or
parks; every access and boundary, when the later one is a boundary; a load, when the later one writes; an access of the same
word or key (log entry 80). An MBTEST is a boundary before it is known to see a flip, and `mbwait.cur` before it takes its phase (log
entry 98). -/
def State.keeps (s : State) (w : Warp) (x e : HkEntry) (L : Mask) : Bool :=
  let k := kindOf e.instr
  let xk := kindOf x.instr
  (xk.acq && (k.acc || k.bound)) || (k.bound && (xk.acc || xk.bound)) || (k.stores && xk.loads)
    || (k.acc && xk.acc && (s.locsOf w x x.undone).any (s.locsOf w e L).contains)
    || (x.keysOf x.undone).any (e.keysOf L).contains

/-- A FENCE not yet performed keeps a later access from being performed while accesses before it are not (R157). -/
def fenceKeeps (o : Ord) (prior : List HkEntry) (k : Kind) : Bool :=
  let undone (f : Kind → Bool) : Bool := prior.any fun y => y.undone != 0 && f (kindOf y.instr)
  (acqOrd o && k.acc && undone (·.loads)) || (o != .acq && k.stores && undone Kind.acc)
    || (o == .sc && k.loads && undone (·.stores))

/-- An earlier access of the warp to one of these words has still to be performed (R150). -/
def State.accessBefore (s : State) (w : Warp) (e : HkEntry) (l : List Loc) : Bool :=
  (w.husk.takeWhile (·.seq != e.seq)).any fun x =>
    (kindOf x.instr).acc && x.undone != 0 && (s.locsOf w x x.undone).any l.contains

/-- What precedes an entry in its husk keeps its lanes `L` from being performed. -/
def State.blockedBy (s : State) (w : Warp) (e : HkEntry) (L : Mask) : List HkEntry → List HkEntry → Bool
  | _, [] => false
  | prior, x :: r =>
    if x.seq == e.seq then false
    else (x.undone != 0 &&
        (match (kindOf x.instr).fence with
          | some o => fenceKeeps o prior (kindOf e.instr) || ((kindOf e.instr).bound)
          | none => s.keeps w x e L))
      || s.blockedBy w e L (prior ++ [x]) r

/-! ## Results -/

/-- Result tag of a loaded type. -/
def bTag : BTy → Tag
  | .i32 => 1
  | .u32 => 2
  | .b32 => 0
def ldTag : LdW → Tag
  | .full t => tyTag t
  | .quad t => tyTag t
  | .w8 t => bTag t
  | .w16 t => bTag t

/-- Returned tag of an atomic (Table 8.4). -/
def atomTag (op : AOp) (wide : Bool) : Tag :=
  if wide then 0
  else match op with
  | .smin | .smax => 1
  | .umin | .umax | .incw | .decw => 2
  | .fadd => 3
  | _ => 0

/-- `n` vector registers from `d` under one tag. -/
def regsFrom (d : R8) (n : Nat) (t : Tag) : List (Nat × Tag) := (List.range n).map fun j => (d.toNat + j, t)

/-- Tags of a hit record's words (Table 9.13). -/
def hitTags : List Tag := [2, 3, 3, 3, 2, 2, 0, 0]

/-- Vector registers that an entry's completion writes, with their tags. -/
def vdests : Instr → List (Nat × Tag)
  | .ld _ _ w _ _ _ d | .lds _ _ w _ _ _ d => regsFrom d w.regs (ldTag w)
  | .ldp _ _ f _ _ d => regsFrom d 1 (match f with | .x4 => 11 | .i4 => 14 | .x6 => 10)
  | .ldt _ _ t _ d => regsFrom d 1 t
  | .atom _ _ op wide _ _ _ d _ => regsFrom d (wideRegs wide) (atomTag op wide)
  | .acas _ _ wide _ _ _ d _ => regsFrom d (wideRegs wide) 0
  | .osquery _ _ _ d _ => regsFrom d 2 2
  | .deq _ _ d _ | .qtry _ _ d _ _ => regsFrom d 4 0
  | .rtquery _ _ _ d _ _ => hitTags.zipIdx.map fun (t, j) => (d.toNat + j, t)
  | .gzread _ _ d _ => ([3, 3, 2, 0, 0, 0, 0, 0] : List Tag).zipIdx.map fun (t, j) => (d.toNat + j, t)
  | _ => []

/-- The scalar register that an entry's completion writes. -/
def sdest : Instr → Option R8
  | .ldc _ _ _ _ _ _ _ d | .grpq _ _ _ d _ | .bstat _ _ _ d => some d
  | .mbwaitCur _ _ d _ _ | .mbtest _ _ d _ _ | .mbtestSnap _ d _ _ => some d
  | _ => none

/-- What an entry's completion writes: returned words, under tag 15 where a word was poisoned (R457). -/
def HkEntry.results (e : HkEntry) : List WB :=
  ((vdests e.instr).zipIdx.map fun (d, j) =>
    WB.v d.1 e.planes (e.data.getD j (Lanes.all 0)) (if e.psn.getD j false then 15 else d.2))
  ++ (match sdest e.instr with
    | some d => if e.planes = 0 then [] else [WB.s d.toNat (e.scal.headD 0)]
    | none => [])
  ++ match e.instr with
    | .qtry _ _ _ _ q => [WB.p q.toNat (BitVec.allOnes 32) e.planes]
    | _ => []

/-- An entry completes: its results are written, and it retires. -/
def Warp.finish (w : Warp) (e : HkEntry) : Warp := (w.write e.results).retire e.seq

/-! ## Regions (R143, R146) -/

/-- The boundary of an entry is performed: the records of the region it closes go, and the next region is open. -/
def State.boundary (s : State) (vw : Nat) (closes : Option Nat) : State :=
  match closes with
  | none => s
  | some r =>
    let s1 := s.setMem { s.mem with race := s.mem.race.filter fun x => !(x.party == .warp vw && x.region == r) }
    s1.modWarp vw fun w => { w with opened := (r + 1, s.now) :: w.opened.filter (·.1 != r) }

/-- Scope `.sy`. -/
def sysScope : Instr → Bool
  | .ld _ _ _ _ sc .. | .st _ _ _ sc .. | .lds _ _ _ _ sc .. | .sts _ _ _ sc .. | .ldc _ _ _ _ sc .. | .fence _ _ sc
  | .atom _ _ _ _ _ sc .. | .acas _ _ _ _ sc .. | .red _ _ _ _ sc .. | .vbmin _ _ sc .. | .mbarr _ sc .. | .mbwait _ sc ..
  | .mbwaitCur _ sc .. | .mbtest _ sc .. => sc == .sy
  | _ => false

/-- Devices whose slices a party's race-checked accesses of a region reached through the system window. -/
def State.awayOf (s : State) (p : Party) (region : Nat) : List Nat :=
  (s.mem.race.filterMap fun r => match r.loc with
    | .sys a => if r.party == p && r.region == region then some (a / 2 ^ 31 % 2 ^ 20) else none
    | _ => none).eraseDups

/-- Devices that a warp's context has connections to. -/
def State.peersOf (s : State) (w : Warp) : List Nat := (s.cmd.peers.filter fun p => p.ctx == w.ident.ctx && !p.lost).map (·.dev)

/-- Devices are told that a region of a warp, or of its transfer `seq`, ends (R146, R176, R432): kind 3. Of a pair the leading copy tells them
(R502); the message commits a clean sheaf (R513). -/
def State.sysTell (s : State) (w : Warp) (seq : BitVec 16) (xf : Bool) (region : Nat) (devs : List Nat) : State :=
  let devs := if (s.sheaf w.ident.sid).any (·.trail) then [] else devs.filter (s.peersOf w).contains
  let s := if devs.isEmpty then s else s.modSheaf w.ident.sid fun h => { h with clean := false }
  devs.foldl (fun s d => s.send (.sys w.ident.ctx d [3 ||| at_ (b2n xf) 27 ||| at_ (region % 2 ^ 16) 48,
    at_ (w.vw % 2 ^ 48) 0 ||| at_ seq.toNat 48])) s

/-- A release or acquire at `.sy` is told to the peers of the context, another boundary to those that its region reached. -/
def State.sysBound (s : State) (w : Warp) (e : HkEntry) : State :=
  match e.closes with
  | none => s
  | some r => s.sysTell w e.seq false r (if sysScope e.instr then s.peersOf w else s.awayOf (.warp w.vw) r)

/-- An instruction that could have been a boundary is none (R142): its two regions are one. -/
def State.noBoundary (s : State) (vw : Nat) (closes : Option Nat) : State :=
  match closes with
  | none => s
  | some r =>
    let s1 := s.setMem { s.mem with
      race := updIf (fun x => x.party == .warp vw && x.region == r) (fun x => { x with region := r + 1 }) s.mem.race }
    s1.modWarp vw fun w =>
      { w with opened := w.opened.map (fun o => if o.1 == r then (r + 1, o.2) else o)
               husk := w.husk.map fun e => if e.region == r then { e with region := r + 1 } else e }

/-- Mark an entry as a boundary as it issues: it ends the warp's region (R142). -/
def Warp.takeBound (w : Warp) (e : HkEntry) : Warp :=
  if (kindOf e.instr).bound then
    { w.take { e with region := w.region + 1, closes := some w.region } with region := w.region + 1 }
  else w.take e

/-- A record of this sequence number lies below a watermark (R407). -/
def below (seq mark : BitVec 16) : Bool := let d := mark - seq; d != 0 && d.toNat < 2 ^ 15

/-! ## Sheaf pairs (R500 to R508) -/

/-- A window address names a slice of the warp's own sheaf (R501). -/
def State.ownAddr (s : State) (w : Warp) (a : Nat) : Bool :=
  match regionOf a with
  | some (.ownScr _) => true
  | some (.window c _) =>
    match s.sheaf w.ident.sid with
    | some h => match s.lrec h with
      | some r => decide (h.orig ≤ c ∧ c < h.orig + h.width r)
      | none => false
    | none => false
  | _ => false

/-- Lanes that each copy of a pair performs on its own slices (R502). -/
def State.ownLanes (s : State) (w : Warp) (e : HkEntry) : Mask :=
  match e.instr with
  | .fence _ _ sc => if sc == .sy then 0 else e.planes
  | .bar .. | .bfence .. | .mloop .. | .mcoop .. => e.planes
  | _ => e.planes &&& maskOf fun i => match e.span i with
    | some (a, _) => s.ownAddr w a
    | none => false

/-- Lanes of a request as it issued, those that have aborted since among them; a QTRY's entry keeps those that received. -/
def HkEntry.asked (e : HkEntry) : Mask := match e.instr with | .qtry .. => BitVec.allOnes 32 | _ => e.planes ||| e.txl

/-- Lane operands and scalars that a request was made with; what it has received since is left out. -/
def HkEntry.request (e : HkEntry) : List Lanes × List Word64 :=
  match e.instr with
  | .bgemv .. => ([], e.scal.take 5)
  | .ldc .. | .tend _ => ([], [])
  | i => (e.data.drop (vdests i).length, if (sdest i).isSome then [] else e.scal)

/-- The signature of a request, over the lanes `L`: word, lanes, addresses, data and byte masks (R503). -/
def HkEntry.sig (e : HkEntry) (L : Mask) : Word32 :=
  crc32c (bytesOf 8 (wordOf e.instr).toNat ++ bytesOf 4 L.toNat ++
    (lanesOf L).flatMap (fun i => bytesOf 8 (lane64 e.addr i).toNat ++ (e.request.1.flatMap fun x => bytesOf 4 (Lanes.get x i).toNat)
      ++ bytesOf 16 (2 ^ ((e.span i).map (·.2)).getD 0 - 1))
    ++ e.request.2.flatMap fun x => bytesOf 8 x.toNat)

/-- CRC-32C of the write set of a TEND's lanes: addresses, bytes and poison. -/
def Warp.tendSet (w : Warp) (e : HkEntry) : Word32 :=
  crc32c ((lanesOf e.planes).flatMap fun i => (sortBy (·.addr) (w.tx.writes.filter (·.lane == i))).flatMap fun x =>
    bytesOf 8 x.addr ++ [x.byte, BitVec.ofNat 8 (b2n x.psn)])

/-- The signature that a warp's entry is compared by; that of a TEND covers its write set, which its entry keeps once it has committed. -/
def Warp.sigOf (w : Warp) (e : HkEntry) (L : Mask) : Word32 :=
  match e.instr with
  | .tend _ => crc32c (bytesOf 4 (e.sig L).toNat ++ bytesOf 8 ((e.scal.head?).getD ((w.tendSet e).setWidth 64)).toNat)
  | _ => e.sig L

/-- A TEND's write set is complete: every earlier entry of its warp has completed. -/
def Warp.atHead (w : Warp) (e : HkEntry) : Bool :=
  match e.instr with
  | .tend _ => (w.husk.head?).map (·.seq) == some e.seq
  | _ => true

/-- The record of a list that belongs to an entry of a warp. -/
def pairFind (l : List PairLog) (w : Warp) (seq : BitVec 16) : Option PairLog :=
  l.find? fun x => x.member == w.ident.member && x.idWarp == w.ident.idWarp && x.seq == seq

/-- How an entry's lanes outside the sheaf's own slices are handled: by its warp; by its warp once the trailing copy's request
has matched; from a record; or not at all yet (R502 to R504, R509). -/
inductive PairWay
  | own
  | lead
  | take (x : PairLog)
  | wait
  | bad
  deriving DecidableEq, Repr

/-- Operations that are compared, not forwarded (Table 19.1). -/
def compared : Instr → Bool
  | .ld .. | .lds .. | .ldc .. | .ldp .. | .ldt .. | .osquery .. | .rtquery .. | .grpq .. | .bstat .. | .gzread .. => false
  | _ => true

/-- How the lanes of an entry outside the sheaf's own slices are handled. -/
def State.pairWay (s : State) (w : Warp) (e : HkEntry) : PairWay :=
  match s.twinOf w, s.leadOf w.ident.sid with
  | some (trail, t), some l =>
    let L := e.asked &&& ~~~(s.ownLanes w e)
    let sg := w.sigOf e L
    -- the twin's request of this number, whether it is the same one, and whether the twin has passed the number without one (R505 item 1)
    let same (x : HkEntry) : Bool := t.sigOf x (x.asked &&& ~~~(s.ownLanes t x)) == sg
    let gone : Bool := below e.seq t.nseq || t.slot == .finished
    if (L = 0 || e.pend &&& L = 0) && e.planes != 0 then .own
    else if !w.atHead e then .wait
    else match pairFind l.pair.again w e.seq with
    | some x => if x.sig == sg then .take x else .bad
    | none =>
      match if trail then pairFind l.pair.fwd w e.seq else none with
      | some x => if x.sig == sg then .take x else .bad
      | none =>
        if !trail && !compared e.instr then .lead
        else match t.entry e.seq with
        | some x => if !t.atHead x then .wait else if !same x then .bad else if trail then .wait else .lead
        | none => if gone then .bad else .wait
  | _, _ => .own

/-- An operation that an engine carries on once it has matched. -/
def carried : Instr → Bool
  | .ckick .. | .bgemv .. | .rtrace .. => true
  | _ => false

/-- A compared operation that may stay in its husk at a checkpoint: a parking one, or one that an engine carries on (Table 19.2). -/
def mayStay (i : Instr) : Bool := carried i || match i with
  | .osenter .. | .deq .. | .phase .. => true
  | _ => false

/-- Compared operations that take an entry of the compare buffer (Table 19.1, R503). -/
def buffered : Instr → Bool
  | .st .. | .sts .. | .msta .. | .atom .. | .acas .. | .red .. | .vbmin .. | .tend .. | .ckick .. | .bgemv .. | .rtrace .. | .enq ..
  | .deq .. | .qtry .. | .tspawn .. | .cont .. | .osenter .. | .osleave .. | .osreset .. | .phase .. | .fence .. => true
  | _ => false

/-- The operation of an entry needs an entry of the compare buffer: it leaves the sheaf. -/
def State.needsBuffer (s : State) (w : Warp) (e : HkEntry) : Bool := buffered e.instr && e.asked &&& ~~~(s.ownLanes w e) != 0

/-- An entry of a leading warp stands in the compare buffer: until it has matched, and has then been performed or handed to an engine. -/
def State.inBuffer (s : State) (w : Warp) (e : HkEntry) : Bool :=
  s.needsBuffer w e && match s.pairWay w e with
    | .wait => true
    | .lead => e.undone != 0 && !carried e.instr
    | _ => false

/-- The compare buffer of a leading warp's pair is full: it holds 256 entries (R503). -/
def State.bufferFull (s : State) (w : Warp) : Bool :=
  match s.twinOf w with
  | some (false, _) =>
    decide (256 ≤ ((s.warps.filter (·.ident.sid == w.ident.sid)).map fun x => (x.husk.filter (s.inBuffer x)).length + b2n x.halting).sum)
  | _ => false

/-- A compared operation waits at its own instruction while the buffer is full. -/
def State.bufferWait (s : State) (w : Warp) (e : HkEntry) : Bool := s.needsBuffer w e && s.bufferFull w

/-- Requests of the lanes `L` are at their places or on the way: those of a resident warp that no replay has still to issue, and of
any other warp those sent before its freeze (R409). -/
def State.underWay (s : State) (w : Warp) (e : HkEntry) (L : Mask) : Bool :=
  if s.mayRun w then !e.queued else L &&& ~~~e.sent == 0

/-- Perform some lanes of an entry by `f`. The effect of a request that was sent before a freeze stands, with its chaff record; its reply is
dropped, for a replay to recover (R410); one that is refused at its place is no longer under way. -/
def State.lately (s : State) (w : Warp) (e : HkEntry) (L : Mask) (f : State → State) : State :=
  if s.mayRun w then f s
  else
    let s1 := f s
    match (s1.warp w.vw).bind (·.entry e.seq) with
    | some x =>
      let done := e.undone &&& ~~~x.undone
      (if x.state != .awaiting && done &&& L != 0 then s1 else s).setWarp (w.unsend e.seq (L ||| done))
    | none => s1.setWarp (w.unsend e.seq L)

/-- As `lately`, for acknowledgements that are applied to a latched entry: of stores, copied bytes, rows (R410). -/
def State.latched (s : State) (w : Warp) (e : HkEntry) (L : Mask) (f : State → State) : State :=
  if s.mayRun w then f s
  else
    let s1 := f s
    match (s1.warp w.vw).bind (·.entry e.seq) with
    | some x => if x.state == .awaiting then s.setWarp (w.unsend e.seq L) else s1.modWarp w.vw (·.unsend e.seq L)
    | none => s1

/-- An earlier entry of a leading warp stands in the compare buffer and keeps the compared lanes `L` of this one back (R503). -/
def State.pairKeeps (s : State) (w : Warp) (e : HkEntry) (L : Mask) : Bool :=
  buffered e.instr && L &&& ~~~(s.ownLanes w e) != 0 && (w.husk.takeWhile (·.seq != e.seq)).any (s.inBuffer w)

/-- Entry of a warp may be performed for the lanes `L` now: their requests are under way, nothing before it keeps it back, and in a
pair its request has matched and those before it are performed. -/
def State.mayPerform (s : State) (w : Warp) (e : HkEntry) (L : Mask) : Bool :=
  L != 0 && L &&& ~~~e.undone == 0 && s.underWay w e L && !s.blockedBy w e L [] w.husk &&
    match s.pairWay w e with
    | .own => true
    | .lead => !s.pairKeeps w e L
    | _ => L &&& ~~~(s.ownLanes w e) == 0

end Sys2Proof.Machine
end

