-- ==== Sys2Proof/Machine/Access.lean ====
section
/-! DEFINITION. Performing accesses: race checks (R144 to R146), L1 (R116, R151), the values that loads return and the bytes that
stores write, transactional accesses (R169, R523), the store buffer of restartable workgroups (R512), and log-precise faults
(R445, R447, R462). -/

namespace Sys2Proof.Machine

/-! ## Races -/

def Loc.word : Loc → Loc
  | .dram pa => .dram (pa / 4 * 4)
  | .scr sid c o => .scr sid c (o / 4 * 4)
  | .sys a => .sys (a / 4 * 4)

/-- The aligned words of `n` bytes at a target. -/
def Target.words (t : Target) (n : Nat) : List Loc := (List.range ((n + 3) / 4)).map fun k => (t.add (4 * k)).loc.word

/-- An open region of another party that a read or write of the words conflicts with (R144). -/
def State.raceHit (s : State) (p : Party) (l : List Loc) (wr : Bool) : Option RaceRec :=
  s.mem.race.find? fun r => l.contains r.loc && r.party != p && (wr || r.write)

/-- Record an access in the race tables (R146). -/
def State.raceAdd (s : State) (ctx : Nat) (p : Party) (region : Nat) (l : List Loc) (wr : Bool) : State :=
  let new := (l.map fun x => RaceRec.mk x ctx p region wr).filter fun r => !s.mem.race.contains r
  s.setMem { s.mem with race := s.mem.race ++ new }

/-- Whether an access through a leaf entry by a warp is race-checked: not by the trailing copy of a pair (R501). -/
def State.raceOn (s : State) (sid : Nat) (pte : Word64) : Bool :=
  pteBit pte 6 && match s.sheaf sid with
    | some h => !h.trail
    | none => true

/-- `FD.AUX` of a race fault (Table 17.2). -/
def raceAux (r : RaceRec) : Word64 :=
  match r.party with
  | .warp v => at_ (v % 2 ^ 48) 0 ||| at_ (b2n r.write) 48
  | .xfer v _ => at_ (v % 2 ^ 48) 0 ||| at_ (b2n r.write) 48 ||| at_ 1 49
  | .remote _ _ v => at_ (v % 2 ^ 48) 0 ||| at_ (b2n r.write) 48 ||| at_ (b2n (decide (2 ^ 48 ≤ v))) 49

/-! ## Lanes -/

/-- A lane that faults: its cause, the address, the level of an entry that is not valid, and `FD.AUX`. -/
structure LFault where
  lane : Nat
  cause : Code8
  addr : Nat
  level : Nat
  aux : Word64
  deriving DecidableEq, Repr

/-- The sheaf of a restartable launch has done what R513 names. -/
def State.commitSheaf (s : State) (sid : Nat) : State := s.modSheaf sid fun h => { h with clean := false }

/-- An access of another party to a slice commits a clean restartable sheaf (R513). -/
def State.touch (s : State) (sid : Nat) (t : Target) : State :=
  match t with
  | .scr x .. => if x = sid then s else s.modSheaf x fun h => { h with clean := false }
  | _ => s

/-- Translate and race-check an ordinary access of `n` bytes, aligned to `al` and within one page, by a party that acts for warp `w`:
the warp itself or one of its engine transfers. -/
def State.reachSpan (s : State) (w : Warp) (p : Party) (region : Nat) (ins : Instr) (i a al n : Nat) (need : Need) :
    Except LFault Target × State :=
  match s.translate w.who a al need with
  | (.error x, s) => (.error ⟨i, x.cause, a, x.level, wordOf ins⟩, s)
  | (.ok t, s) =>
    if !s.raceOn w.ident.sid t.pte then (.ok t, s.touch w.ident.sid t)
    else
      let l := t.words n
      match s.raceHit p l need.wr with
      | some r => (.error ⟨i, 0x18, a, 0, raceAux r⟩, s)
      | none => (.ok t, (s.raceAdd w.ident.ctx p region l need.wr).touch w.ident.sid t)

/-- An access aligned to its own size. -/
def State.reachAs (s : State) (w : Warp) (p : Party) (region : Nat) (ins : Instr) (i a n : Nat) (need : Need) :
    Except LFault Target × State := s.reachSpan w p region ins i a n n need

/-- Translate and race-check one access of warp `w`. `sync` accesses are synchronising, not race-checked. -/
def State.reach (s : State) (w : Warp) (e : HkEntry) (i a n : Nat) (need : Need) (sync : Bool) :
    Except LFault Target × State :=
  if sync then
    match s.translate w.who a n need with
    | (.error x, s) => (.error ⟨i, x.cause, a, x.level, wordOf e.instr⟩, s)
    | (.ok t, s) => (.ok t, s.touch w.ident.sid t)
  else s.reachAs w (.warp w.vw) e.region e.instr i a n need

/-- An access that fails after its race check is not performed, and leaves no record (R145, R146). -/
def State.unrecord (s s0 : State) : State := s.setMem { s.mem with race := s0.mem.race }

/-! ## Values read -/

/-- Bytes and poisoned words as read at the home or the bank. -/
def State.homeRead (s : State) (ctx : Nat) (t : Target) (n : Nat) : List Byte × List Bool :=
  ((s.readAt ctx t n).1, (List.range ((n + 3) / 4)).map fun k => (s.readAt ctx (t.add (4 * k)) (min 4 n)).2)

/-- The copy of a line in a core's L1. -/
def Mem.l1Line (m : Mem) (core pa : Nat) : Option L1Line := m.l1.find? fun l => l.core == core && l.line == pa / 128

/-- Drop a line from a core's L1. -/
def Mem.l1Drop (m : Mem) (core pa : Nat) : Mem := { m with l1 := m.l1.filter fun l => !(l.core == core && l.line == pa / 128) }

/-- A core's L1 holds 2,048 lines: a line that enters a full one takes the place of a line that is a free choice (R17). -/
def State.l1Room (s : State) (core pa : Nat) : State :=
  let mine := s.mem.l1.filter (·.core == core)
  if mine.length < 2048 || (s.mem.l1Line core pa).isSome then s
  else
    let (x, s) := s.drawWord
    match mine[x.toNat % mine.length]? with
    | some l => s.setMem { s.mem with l1 := s.mem.l1.erase l }
    | none => s

/-- Bring a line into a core's L1 as it stands at its home. -/
def State.l1Fill (s : State) (ctx core pa : Nat) (pte : Word64) : State :=
  let b := pa / 128 * 128
  let (bytes, psn) := s.homeRead ctx (.dram b pte) 128
  let p := (List.range 32).filter fun k => psn.getD k false
  let s := s.l1Room core pa
  s.setMem { s.mem with
    l1 := upsert (fun l => l.core == core && l.line == pa / 128) ⟨core, pa / 128, bytes, p, s.now, (s.via ctx pte).key⟩ s.mem.l1 }

/-- An ordinary load of device memory: a copy in L1 no older than the region's opening, read under the same key (R133), may serve it, or it
is served at the home and brings the line in (R116, R151). Through a race-checked page the value is the home's, so that no region sees part of
what another one wrote (R147, log entry 102, DESIGN CHOICE). -/
def State.l1Read (s : State) (w : Warp) (region pa n : Nat) (pte : Word64) : (List Byte × List Bool) × State :=
  let core := s.coreOf w
  let home := s.homeRead w.ident.ctx (.dram pa pte) n
  let miss (s : State) : (List Byte × List Bool) × State := (home, s.l1Fill w.ident.ctx core pa pte)
  match s.mem.l1Line core pa, w.opened.find? (·.1 == region) with
  | some l, some o =>
    if o.2 ≤ l.stamp && l.key == (s.via w.ident.ctx pte).key then
      let j := pa % 128
      let v := ((l.bytes.drop j).take n, (List.range ((n + 3) / 4)).map fun k => l.psn.contains (j / 4 + k))
      if v = home || pteBit pte 6 then (home, s)
      else
        let (b, s) := s.drawBool
        if b then (v, s) else miss s
    else miss s
  | _, _ => miss s

/-- Lay held stores of a workgroup over bytes read (R512). -/
def overlay (l : List HeldStore) (member : Nat) (t : Target) (b : List Byte × List Bool) : List Byte × List Bool :=
  (l.filter (·.member == member)).foldl (fun b h =>
    (b.1.zipIdx.map fun (x, k) =>
        match (List.range h.data.length).find? fun j => h.loc.add j == (t.add k).loc with
        | some j => h.data.getD j x
        | none => x,
     b.2.zipIdx.map fun (p, k) =>
        if (List.range ((h.data.length + 3) / 4)).any fun j => (h.loc.add (4 * j)).word == (t.add (4 * k)).loc.word
        then (if h.data.length < 4 then p || h.psn else h.psn) else p)) b

/-- The operations of an atomic message, by number. -/
def aops : List AOp := [.add, .sub, .smin, .smax, .umin, .umax, .and, .or, .xor, .exch, .incw, .decw, .fadd]

/-- Number of an atomic's operation: of `aops`, 13 for ACAS, 14 for VBMIN. -/
def sysOp : Instr → Nat
  | .atom _ _ op .. | .red _ op .. => aops.idxOf op
  | .acas .. => 13
  | .vbmin .. => 14
  | _ => 0

/-- The acknowledged watermark of a warp (R407). -/
def Warp.watermark (w : Warp) : BitVec 16 := (w.husk.find? (·.cls != .I)).elim w.nseq (·.seq)

/-- What a chaff record keeps of its place (Table 12.2 `CF.PLACE`): physical word or object address, key hash, queue or group number. -/
def Place.word : Place → Nat
  | .loc (.dram pa) => pa
  | .loc (.scr _ c o) => c * 2 ^ 20 + o
  | .loc (.sys a) => a
  | .keyHome k => k.toNat % 2 ^ 52
  | .queue _ q => q
  | .scheduler g => g
  | .graphics => 0
  | .cluster c | .tasks c | .winnower c | .stack c => c

/-- A chaff record as its 32 bytes (Table 12.2). -/
def Chaff.record (c : Chaff) : List Byte :=
  bytesOf 8 (c.ctx % 2 ^ 12 + c.vw % 2 ^ 48 * 2 ^ 12 + c.kind * 2 ^ 60) ++ bytesOf 8 (c.seq.toNat + c.lanes.toNat * 2 ^ 16)
    ++ bytesOf 8 c.value.toNat ++ bytesOf 8 (c.place.word % 2 ^ 52)

/-- A deferred arrival as a record (Table 12.6a). -/
def Deferred.record (d : Deferred) : List Byte :=
  bytesOf 8 (d.off + d.core * 2 ^ 20 + d.kind * 2 ^ 32) ++ bytesOf 8 (d.value.toNat + d.order.toNat * 2 ^ 32)

/-- A place performs a class D or class O request and makes its record in the same step (R404). -/
def State.chaffed (s : State) (w : Warp) (e : HkEntry) (kind : Nat) (L : Mask) (value : Word64) (place : Place)
    (vals : List (BitVec 128)) : State :=
  s.setMem { s.mem with chaff := s.mem.chaff ++ [⟨w.ident.ctx, w.vw, kind, e.seq, L, value, place, vals⟩] }

/-- A system-scope message to the peer that a window address names (R107, R176, R432), as the model's own data: kind (0 a read, 1
a write, 2 an atomic), bytes, operation, whether it is race-checked, poison, replay bit, whether a transfer of the warp makes it, watermark,
region; the warp and its tag (R404); the address; the data. -/
def State.sysMsg (s : State) (w : Warp) (seq : BitVec 16) (kind n op region a : Nat) (race p rep xf : Bool) (data : List Word64) : State :=
  s.send (.sys w.ident.ctx (a / 2 ^ 31 % 2 ^ 20)
    ([at_ kind 0 ||| at_ n 8 ||| at_ op 16 ||| at_ (b2n race) 24 ||| at_ (b2n p) 25 ||| at_ (b2n rep) 26 ||| at_ (b2n xf) 27
        ||| at_ w.watermark.toNat 32 ||| at_ (region % 2 ^ 16) 48,
      at_ (w.vw % 2 ^ 48) 0 ||| at_ seq.toNat 48, BitVec.ofNat 64 a] ++ data))

/-- The request of an entry. -/
def State.sysSend (s : State) (w : Warp) (e : HkEntry) (kind n : Nat) (p xf : Bool) (a : Nat) (t : Target) (data : List Word64) :
    State :=
  s.sysMsg w e.seq kind n (sysOp e.instr) (if xf then 0 else e.region) a
    (pteBit t.pte 6 && !(kindOf e.instr).bound && kind != 2) p e.rep xf data

/-- The single-copy-atomic accesses of `n` bytes from `a` (R104, R260): one of up to 8 bytes, else words, or bytes where they do not fit. -/
def sysPieces (a n : Nat) : List (Nat × Nat) :=
  if (n = 1 ∨ n = 2 ∨ n = 4 ∨ n = 8) ∧ a % n = 0 then [(a, n)]
  else if a % 4 = 0 ∧ n % 4 = 0 then (List.range (n / 4)).map fun k => (a + 4 * k, 4)
  else (List.range n).map fun k => (a + k, 1)

/-- What a remote bank answers is free (R176, log entry 10): the request is performed, or is refused with one of the causes `l` and its
`FD.AUX`, which for a race only the bank knows. -/
def State.peerCause (s : State) (word : Word64) (l : List Code8) : Option (Code8 × Word64) × State :=
  let (x, s) := s.drawWord
  match l[x.toNat % (l.length + 1)]? with
  | none => (none, s)
  | some c =>
    if c = 0x18 then
      let (y, s) := s.drawWord
      (some (c, y), s)
    else (some (c, word), s)

/-- Causes with which a remote bank may refuse an access: its slice is not allocated, or, if it is race-checked, a race. -/
def awayCauses (race : Bool) : List Code8 := if race then [0x13, 0x18] else [0x13]

/-- Free bytes (log entry 4): what a remote device returns. -/
def State.freeBytes (s : State) : Nat → List Byte × State
  | 0 => ([], s)
  | n + 1 =>
    let (x, s) := s.drawWord
    let (l, s) := State.freeBytes s n
    (bytesOf 8 x.toNat ++ l, s)

/-- What a warp reads at a target whose bytes are `x`: held stores of its workgroup stand over them (R150, R512). -/
def State.laid (s : State) (w : Warp) (t : Target) (x : List Byte × List Bool) : List Byte × List Bool :=
  match s.sheaf w.ident.sid with
  | some h => if h.stores.isEmpty then x else overlay h.stores w.ident.member t x
  | none => x

/-- The bytes that a lane of a load, or with `xf` an engine transfer, reads at its target, with poison; the cause for which a remote bank
refuses. -/
def State.loadBytes (s : State) (w : Warp) (e : HkEntry) (a n : Nat) (t : Target) (ordinary xf : Bool) :
    Except (Code8 × Word64) (List Byte × List Bool) × State :=
  match t with
  | .dram pa pte =>
    if ordinary && pteBit pte 5 then
      let (x, s) := s.l1Read w e.region pa n pte
      (.ok (s.laid w t x), s)
    -- what the warp has read at the home it never reads older again (R149)
    else (.ok (s.laid w t (s.homeRead w.ident.ctx t n)), s.setMem (s.mem.l1Drop (s.coreOf w) pa))
  | .scr .. => (.ok (s.laid w t (s.homeRead w.ident.ctx t n)), s)
  | .sys .. =>
    let s := (sysPieces a n).foldl (fun s (b, k) => s.sysSend w e 0 k false xf b t []) (s.commitSheaf w.ident.sid)
    match s.peerCause (wordOf e.instr) (awayCauses (pteBit t.pte 6 && !(kindOf e.instr).bound)) with
    | (some x, s) => (.error x, s)
    | (none, s) =>
      let (b, s) := s.freeBytes ((n + 7) / 8)
      let (p, s) := s.drawWord
      (.ok (s.laid w t (b.take n, (List.range ((n + 3) / 4)).map p.getLsbD)), s)

/-- Buffered bytes of lane i laid over bytes at `a` (R169). -/
def txOverlay (l : List TxWrite) (i a : Nat) (b : List Byte) : List Byte :=
  l.foldl (fun b x => if x.lane = i ∧ a ≤ x.addr then b.set (x.addr - a) x.byte else b) b

/-- Words of a load's lane: bytes and halfwords are extended (R261). -/
def loadWords (i : Instr) (b : List Byte) : List Word32 :=
  let x := BitVec.ofNat 32 (ofBytes b)
  match i with
  | .ld _ _ (.w8 t) .. | .lds _ _ (.w8 t) .. => [if t = .i32 then (x.setWidth 8).signExtend 32 else x]
  | .ld _ _ (.w16 t) .. | .lds _ _ (.w16 t) .. => [if t = .i32 then (x.setWidth 16).signExtend 32 else x]
  | _ => wordsOf ((b.length + 3) / 4) b

/-- Outcome of a lane's access: words and their poison; done; not performed yet; a fault; a transaction abort. -/
inductive LaneRes
  | val (ws : List Word32) (psn : List Bool)
  | done
  | wait
  | fault (f : LFault)
  | abort (cause : Byte)

/-- A transactional access fails: the lane aborts with FAULT, and a page not present enters the batch as a hint (R472). -/
def State.txFault (s : State) (w : Warp) (f : LFault) (need : Need) : LaneRes × State :=
  (.abort 0x08, if f.cause = 0x10 then s.pageFault (dieOf (s.coreOf w)) w.ident.ctx f.addr need true f.level else s)

/-- A transactional read at the home (R169, R523). -/
def State.txLoad (s : State) (w : Warp) (e : HkEntry) (i a n : Nat) : LaneRes × State :=
  match s.reach w e i a n Need.read true with
  | (.error f, s) => s.txFault w f Need.read
  | (.ok t, s) =>
    let (b, p) := s.laid w t (s.homeRead w.ident.ctx t n)
    let w0 : Nat := a / 4 * 4
    let at4 (x : Nat) : Target := match t with
      | .dram pa pte => .dram (pa / 4 * 4 + (x - w0)) pte
      | t => t
    let words := (spanWords a n).map fun x =>
      (i, x, BitVec.ofNat 32 (ofBytes (s.laid w (at4 x) (s.homeRead w.ident.ctx (at4 x) 4)).1))
    let s := match t with | .dram pa _ => s.setMem (s.mem.l1Drop (s.coreOf w) pa) | _ => s
    if p.any id || t.badChunk s.mem then (.abort 0x08, s)
    else (.val (loadWords e.instr (txOverlay w.tx.writes i a b)) (p.map fun _ => false),
      s.modWarp w.vw fun w => { w with tx := { w.tx with reads := w.tx.reads ++ words } })

/-- A `.q` access is four single-copy-atomic accesses (R260); word k of lane i has been performed ahead of the others (`chunks`). -/
def HkEntry.early (e : HkEntry) (i k : Nat) : Bool := isQuad e.instr && e.chunks.contains (i, k, 0)

/-- Perform a load for lane i. An LDC of a poisoned word faults 0x28 (R265). -/
def State.loadLane (s : State) (w : Warp) (e : HkEntry) (i : Nat) : LaneRes × State :=
  let n := accBytes e.instr
  match effAddr e.instr (lane64 e.addr i) with
  | none => (.fault ⟨i, 0x13, (lane64 e.addr i).toNat, 0, wordOf e.instr⟩, s)
  | some a =>
    if has e.txl i then s.txLoad w e i a n
    else
      let ordinary := !(kindOf e.instr).bound
      let s0 := s
      match s.reach w e i a n Need.read (!ordinary) with
      | (.error f, s) => (.fault f, s)
      | (.ok t, s) =>
        if t.badChunk s.mem then (.fault ⟨i, 0x29, a, 0, s.checkAux w.ident.ctx t⟩, s.unrecord s0)
        else
          match s.loadBytes w e a n t ordinary false with
          | (.error (c, x), s) => (.fault ⟨i, c, a, 0, x⟩, s.unrecord s0)
          | (.ok (b, p), s) =>
            match e.instr with
            | .ldc .. => if p.any id then (.fault ⟨i, 0x28, a, 0, wordOf e.instr⟩, s.unrecord s0) else (.val (loadWords e.instr b) p, s)
            | _ => (.val ((loadWords e.instr b).zipIdx.map fun (x, k) => if e.early i k then Lanes.get (e.data.getD k (Lanes.all 0)) i else x)
                (p.zipIdx.map fun (x, k) => x && !e.early i k), s)

/-! ## Bytes written -/

/-- A store updates a line that the storing core's L1 holds (R116): what has been written, and the doubleword or more around it, stand
there as at the home, so that no load finds bytes together that the home never held together. -/
def State.l1Store (s : State) (ctx core pa n : Nat) (pte : Word64) : State :=
  if (s.mem.l1Line core pa).isNone then s
  else
    let a := pa / 8 * 8
    let k := (pa + n + 7) / 8 * 8 - a
    let (b, psn) := s.homeRead ctx (.dram a pte) k
    let j := a % 128
    let words := (List.range (k / 4)).map (j / 4 + ·)
    let f (x : L1Line) : L1Line :=
      { x with bytes := x.bytes.take j ++ b ++ x.bytes.drop (j + k),
               psn := x.psn.filter (!words.contains ·) ++ words.filter fun i => psn.getD (i - j / 4) false }
    let here (x : L1Line) : Bool := x.core == core && x.line == pa / 128
    let kept := s.mem.l1.filter fun x => !here x || x.key == (s.via ctx pte).key
    s.setMem { s.mem with l1 := updIf here f kept }

/-- The line of a place on the device, as its number. -/
def Loc.line : Loc → Option Loc
  | .dram pa => some (.dram (pa / 128))
  | .scr sid c o => some (.scr sid c (o / 128))
  | .sys _ => none

/-- Note that a line was stored to (R343). -/
def State.noteStore (s : State) (t : Target) : State :=
  match t.loc.line with
  | some l => s.setMem { s.mem with touched := l :: s.mem.touched }
  | none => s

/-- Keep what a line of a bank-layout page held: a bank engine may still find it in the stack (R168). -/
def State.noteStale (s : State) (who : Who) (t : Target) : State :=
  match t with
  | .dram pa pte =>
    if pteBit pte 11 then
      let old := (s.readAt who.ctx (.dram (pa / 128 * 128) pte) 128).1
      s.setMem { s.mem with stale := s.mem.stale ++ [(pa / 128, (s.via who.ctx pte).key, old)] }
    else s
  | _ => s

/-- Write bytes for a party: at the home or the bank, and in the L1 of the core that stores. -/
def State.putBytes (s : State) (who : Who) (core : Option Nat) (t : Target) (l : List Byte) (p : Bool) : State :=
  let s := ((s.noteStale who t).writeAt who t l p).noteStore t
  match t, core with
  | .dram pa pte, some c => s.l1Store who.ctx c pa l.length pte
  | _, _ => s

/-- The pieces in which a store's lane is written: words, or fewer bytes, each with its register's poison. -/
def storeParts (e : HkEntry) (i n : Nat) : List (Nat × List Byte × Bool) :=
  if n < 4 then [(0, bytesOf n (Lanes.get (e.data.getD 0 (Lanes.all 0)) i).toNat, e.psn.getD 0 false)]
  else (List.range (n / 4)).map fun j =>
    (4 * j, bytesOf 4 (Lanes.get (e.data.getD j (Lanes.all 0)) i).toNat, e.psn.getD j false)

/-- Bytes that a lane of a transactional store buffers (R169). -/
def HkEntry.txBytes (e : HkEntry) (i a : Nat) : List TxWrite :=
  (storeParts e i (accBytes e.instr)).flatMap fun (o, l, p) => l.zipIdx.map fun (b, k) => ⟨i, a + o + k, b, p⟩

/-- The workgroups of a sheaf hold their stores back, but for those to its own slices (R512). -/
def State.holdsBack (s : State) (w : Warp) (a : Nat) : Bool :=
  match s.launch w.ident.lid with
  | none => false
  | some l => l.r.restart && !l.r.paired && !s.ownAddr w a

/-- The line of a compressed page in whose request lane i of a store goes: the lanes of one store instruction whose bytes fall in one such
line reach its home as one request (R442). -/
def State.cmpLine (s : State) (w : Warp) (e : HkEntry) (i : Nat) : Option Nat :=
  if !isStore e.instr || has e.txl i then none
  else match effAddr e.instr (lane64 e.addr i) with
  | none => none
  | some a =>
    match (s.translate w.who a (accBytes e.instr) ⟨false, false, false⟩).1 with
    | .ok (.dram pa pte) => if pteBit pte 7 then some (pa / 128) else none
    | _ => none

/-- The lanes still to be performed that go with lane i in one request (R442). -/
def State.request (s : State) (w : Warp) (e : HkEntry) (i : Nat) : Mask :=
  match s.cmpLine w e i with
  | none => maskOf (· == i)
  | some k => maskOf fun j => has e.undone j && s.cmpLine w e j == some k

/-- Words of its line that the lanes of a request write: those of the lanes that pass their checks. -/
def State.requestWords (s : State) (w : Warp) (e : HkEntry) (line : Nat) : List Nat :=
  let passes (i : Nat) : Bool := match (s.reach w e i (lane64 e.addr i).toNat (accBytes e.instr) Need.write (kindOf e.instr).bound).1 with
    | .ok _ => true
    | .error _ => false
  ((lanesOf e.planes).filter fun i => s.cmpLine w e i == some line && passes i).flatMap fun i =>
    (List.range (accBytes e.instr / 4)).map ((lane64 e.addr i).toNat % 128 / 4 + ·)

/-- A line that a request writes whole is not merged into: its chunks take new check values (R139, R442). -/
def Mem.overwrite (m : Mem) (pa : Nat) (words : List Nat) : Mem :=
  if words.eraseDups.length = 32 then m.rechecked (pa / 128 * 128) 128 else m

/-- A store of a lane reaches its home, as part of its request. -/
def State.incoming (s : State) (w : Warp) (e : HkEntry) (t : Target) : State :=
  match t with
  | .dram pa pte => if s.mem.bad pa && pteBit pte 7 then s.setMem (s.mem.overwrite pa (s.requestWords w e (pa / 128))) else s
  | _ => s

/-- Where a held store goes. -/
def HeldStore.target (h : HeldStore) : Target :=
  match h.loc with
  | .dram pa => .dram pa h.pte
  | .scr sid c o => .scr sid c o h.pte
  | .sys a => .sys (a / 2 ^ 31 % 2 ^ 20) (a / 2 ^ 20 % 2 ^ 11) (a % 2 ^ 20) h.pte

/-- The oldest region of a warp that is open. -/
def Warp.oldest (w : Warp) : Nat := w.opened.foldl (fun a o => min a o.1) w.region

/-- A store of rows. -/
def rowStore : Instr → Bool
  | .msta .. => true
  | _ => false

/-- A held store reaches its home, with what its store instruction wrote to the same line (R442); the rows of an MSTA are no lanes. -/
def State.incomingHeld (s : State) (sid : Nat) (h : HeldStore) : State :=
  match h.loc with
  | .dram pa =>
    if s.mem.bad pa && pteBit h.pte 7 && !rowStore h.instr then
      let mine := ((s.sheaf sid).elim [] (·.stores)).filter fun x => x.vw == h.vw && x.seq == h.seq
      s.setMem (s.mem.overwrite pa (mine.flatMap fun x => match x.loc with
        | .dram p => if p / 128 = pa / 128 then (List.range (x.data.length / 4)).map (p % 128 / 4 + ·) else []
        | _ => []))
    else s
  | _ => s

/-- A held store at its place: the cause and `FD.AUX` for which it is not performed. Its race check is made now, in the oldest region of its
warp that is open (R144, R145, R512, log entry 88). -/
def State.performHeld (s : State) (who : Who) (h : HeldStore) : Option (Code8 × Word64) × State :=
  let t := h.target
  let l := t.words h.data.length
  let race := pteBit h.pte 6
  match if race then s.raceHit (.warp h.vw) l true else none with
  | some r => (some (0x18, raceAux r), s)
  | none =>
    let s := s.incomingHeld (who.sid.getD 0) h
    if t.badChunk s.mem then (some (0x29, s.checkAux who.ctx t), s)
    else
      let w := s.warp h.vw
      let region := (w.map Warp.oldest).getD 0
      let s1 := if race then s.raceAdd who.ctx (.warp h.vw) region l true else s
      match h.loc, w with
      | .sys a, some w =>
        match (s1.sysMsg w h.seq 1 h.data.length 0 region a race h.psn false false [BitVec.ofNat 64 (ofBytes h.data)]).peerCause
            (wordOf h.instr) (awayCauses race) with
        | (some x, s2) => (some x, s2.unrecord s)
        | (none, s2) => (none, s2)
      | _, w => (none, (s1.touch (who.sid.getD 0) t).putBytes who (w.map s.coreOf) t h.data h.psn)

/-- Perform a workgroup's whole store buffer in its order (R512); each store performed commits the sheaf (R513). A store that fails stays
in the buffer, and those behind it. -/
def State.drain (s : State) (sid member : Nat) : Option (HeldStore × Code8 × Word64) × State :=
  match s.sheaf sid with
  | none => (none, s)
  | some h =>
    (h.stores.filter (·.member == member)).foldl (fun (hit, s) x =>
      match hit with
      | some r => (some r, s)
      | none => match s.performHeld ⟨s.ctxOf h, none, some sid⟩ x with
        | (some r, s) => (some (x, r), s)
        | (none, s) => (none, s.modSheaf sid fun h => { h with clean := false, stores := h.stores.erase x })) (none, s)

/-! ## Log-precise faults -/

/-- The fault that an entry records: the first of its lanes' with a code other than 0x10, where there is one (R462). -/
def chief : List LFault → Option LFault
  | [] => none
  | f :: fl => some (((f :: fl).find? fun f => f.cause != 0x10).getD f)

/-- The faults of an entry's lanes enter its husk entry (R445, R462), and their pages the fault batch. -/
def State.markFault (s : State) (w : Warp) (seq : BitVec 16) (fl : List LFault) (need : Need) : State :=
  match chief fl with
  | none => s
  | some f =>
    let s := (fl.filter fun f => f.cause == 0x10).foldl (fun s f =>
      s.pageFault (dieOf (s.coreOf w)) w.ident.ctx f.addr need false f.level) s
    s.modWarp w.vw fun w => w.modEntry seq fun e =>
      { e with state := .awaiting, cause := f.cause, faddr := BitVec.ofNat 64 f.addr }

/-- The descriptor of an entry's fault; none of one that waits for pages alone. -/
def Warp.faultItem (w : Warp) (src : Nat) (seq : BitVec 16) (fl : List LFault) : Option (List Word64) :=
  (chief fl).bind fun f =>
    if f.cause = 0x10 then none
    else some (faultDesc f.cause src w.ident.ctx (maskOf fun i => fl.any (·.lane == i)) w.vw seq (BitVec.ofNat 64 f.addr) f.aux)

/-- A fault of these that a restartable sheaf consumes. -/
def eats (fl : List LFault) : Bool := (chief fl).any fun f => f.cause == 0x28 || f.cause == 0x29

/-- Entries of a warp fault at once (R459, R460): a code other than 0x10 freezes the sheaf and sends one fault event, with one descriptor for each
entry in ascending sequence number (R447), or is a consumption. -/
def State.faultEntries (s : State) (w : Warp) (l : List (BitVec 16 × List LFault)) (need : Need) (src : Nat) : State :=
  let s := l.foldl (fun s x => s.markFault w x.1 x.2 need) s
  let items := l.filterMap fun x => w.faultItem src x.1 x.2
  if items.isEmpty then s
  else if (l.any fun x => eats x.2) && s.consumes w.ident.sid then s.consume w.ident.sid
  else (s.event (s.evOf 0x01 w.ident.lid [] items)).freezeSheaf w.ident.sid .fault

/-- The lanes of one entry fault. -/
def State.faultLanes (s : State) (w : Warp) (seq : BitVec 16) (fl : List LFault) (need : Need) (src : Nat) : State :=
  s.faultEntries w [(seq, fl)] need src

/-- As `faultLanes`, from the state `s0` before the instruction's lanes were performed: a consumption of a restartable sheaf performs nothing
(R514). -/
def State.faultFrom (s s0 : State) (w : Warp) (seq : BitVec 16) (fl : List LFault) (need : Need) : State :=
  if eats fl && s0.consumes w.ident.sid && (s0.twinOf w).isNone then
    { s0 with freeIx := s.freeIx }.consume w.ident.sid
  else s.faultLanes w seq fl need 0

/-- Put an entry into a husk at its place by sequence number. -/
def Warp.insertEntry (w : Warp) (e : HkEntry) : Warp :=
  let (a, b) := w.husk.span fun x => below x.seq e.seq
  { w with husk := a ++ e :: b }

/-- The entry of a store as the buffer still holds it: its lanes there, with their data. -/
def State.heldEntry (s : State) (w : Warp) (h : Sheaf) (x : HeldStore) : HkEntry :=
  let mine := h.stores.filter fun y => y.vw == x.vw && y.seq == x.seq
  let L := maskOf fun i => mine.any (·.lane == i)
  let of (i : Nat) : List HeldStore := mine.filter (·.lane == i)
  match w.entry x.seq with
  | some e => { e with pend := e.pend ||| L }
  | none =>
    let n := mine.foldl (fun n y => max n (of y.lane).length) 1
    let slot (k i : Nat) : Word32 := (((of i)[k]?).map fun y => BitVec.ofNat 32 (ofBytes y.data)).getD 0
    { HkEntry.new w x.instr .I L with
      seq := x.seq, addr := of64 fun i => BitVec.ofNat 64 (((of i).head?.map (·.va)).getD 0)
      data := (List.range n).map fun k => Lanes.of (slot k)
      psn := (List.range n).map fun k => (List.range 32).any fun i => ((of i)[k]?).any (·.psn)
      prog := if rowStore x.instr then 4 * n else 0, region := w.oldest }

/-- A held store that fails at a drain faults at its own instruction and lane (R145): its entry, which retired when it entered the buffer, stands
in the husk again; what made the drain is not performed, and drains again when the sheaf goes on (log entry 88). -/
def State.heldFault (s : State) (sid : Nat) (x : HeldStore × Code8 × Word64) : State :=
  match s.sheaf sid, s.warp x.1.vw with
  | some h, some w =>
    if h.state != .resident then s
    else
      let e := s.heldEntry w h x.1
      let w1 := if (w.entry e.seq).isSome then w.setEntry e else w.insertEntry e
      (s.setWarp w1).faultLanes w1 e.seq [⟨x.1.lane, x.2.1, x.1.va, 0, x.2.2⟩] Need.write 0
  | _, _ => s

/-! ## Stores -/

/-- The line of a place, as the store buffers count lines. -/
def Loc.heldLine : Loc → Loc
  | .dram pa => .dram (pa / 128)
  | .scr sid c o => .scr sid c (o / 128)
  | .sys a => .sys (a / 128)

/-- Lines that a workgroup's buffer holds. -/
def heldLines (l : List HeldStore) (member : Nat) : List Loc := ((l.filter (·.member == member)).map fun h => h.loc.heldLine).eraseDups

/-- Lane i of a store entry stands in the buffer: a fault at a drain left it there (log entry 88). -/
def State.standsHeld (s : State) (w : Warp) (e : HkEntry) (i : Nat) : Bool :=
  match s.sheaf w.ident.sid with
  | some h => h.stores.any fun x => x.vw == w.vw && x.seq == e.seq && x.lane == i
  | none => false

/-- The ordinary stores of lanes `L` enter the buffer of their workgroup in issue order (R512). -/
def State.holdTurn (s : State) (w : Warp) (e : HkEntry) (L : Mask) : Bool :=
  let holds (w : Warp) (e : HkEntry) (L : Mask) : Bool := !(kindOf e.instr).bound && (lanesOf (L &&& ~~~e.txl)).any fun i =>
    match effAddr e.instr (lane64 e.addr i) with
    | some a => s.holdsBack w a
    | none => false
  !holds w e L || match s.sheaf w.ident.sid with
    | none => true
    | some h => (h.order.takeWhile (· != (w.vw, e.seq))).all fun (v, q) => match s.warp v with
      | none => true
      | some x => x.ident.member != w.ident.member || (x.entry q).all fun y => !holds x y y.undone

/-- Pieces of lane i's store, each with its target, enter the buffer; a full buffer drains first (R512), and where that drain fails the store
has still to be made. -/
def State.holdStore (s : State) (w : Warp) (e : HkEntry) (i a : Nat) (l : List (Target × List Byte × Bool)) : LaneRes × State :=
  let full := match s.sheaf w.ident.sid with
    | some h => decide (256 ≤ (heldLines h.stores w.ident.member).length)
        && !(l.all fun x => (heldLines h.stores w.ident.member).contains x.1.loc.heldLine)
    | none => false
  if s.standsHeld w e i then (.done, s)
  else match if full then s.drain w.ident.sid w.ident.member else (none, s) with
  | (some x, s) => (.wait, s.heldFault w.ident.sid x)
  | (none, s) => (.done, s.modSheaf w.ident.sid fun h =>
      { h with stores := h.stores ++ l.map fun (t, b, p) =>
          ⟨w.ident.member, w.vw, e.seq, e.instr, i, a, t.loc, t.pte, b, p⟩ })

/-- Pieces of lane i's store go to a remote bank, which answers once for them. `s0` is the state before their race check. -/
def State.sysStore (s s0 : State) (w : Warp) (e : HkEntry) (i a : Nat) (t : Target) (l : List (Nat × List Byte × Bool)) : LaneRes × State :=
  let s := l.foldl (fun s (o, b, p) => s.sysSend w e 1 b.length p false (a + o) t [BitVec.ofNat 64 (ofBytes b)]) (s.commitSheaf w.ident.sid)
  match s.peerCause (wordOf e.instr) (awayCauses (pteBit t.pte 6 && !(kindOf e.instr).bound)) with
  | (some (c, x), s) => (.fault ⟨i, c, a, 0, x⟩, s.unrecord s0)
  | (none, s) => (.done, s)

/-- Perform a store for lane i. A store that is held back is race-checked when it is performed, not now (R144). -/
def State.storeLane (s : State) (w : Warp) (e : HkEntry) (i : Nat) : LaneRes × State :=
  let n := accBytes e.instr
  match effAddr e.instr (lane64 e.addr i) with
  | none => (.fault ⟨i, 0x13, (lane64 e.addr i).toNat, 0, wordOf e.instr⟩, s)
  | some a =>
    let parts := (storeParts e i n).filter fun x => !e.early i (x.1 / 4)
    if !(kindOf e.instr).bound && !has e.txl i && s.holdsBack w a then
      match s.translate w.who a n Need.write with
      | (.error x, s) => (.fault ⟨i, x.cause, a, x.level, wordOf e.instr⟩, s)
      | (.ok t, s) => s.holdStore w e i a (parts.map fun (o, b, p) => (t.add o, b, p))
    else
    let s0 := s
    match s.reach w e i a n Need.write ((kindOf e.instr).bound || has e.txl i) with
    | (.error f, s) => if has e.txl i then s.txFault w f Need.write else (.fault f, s)
    | (.ok t, s) =>
      if has e.txl i then
        (.done, s.modWarp w.vw fun w => { w with tx := { w.tx with writes := w.tx.writes ++ e.txBytes i a } })
      else
      let s := s.incoming w e t
      if t.badChunk s.mem then (.fault ⟨i, 0x29, a, 0, s.checkAux w.ident.ctx t⟩, s.unrecord s0)
      else match t with
      | .sys .. => s.sysStore s0 w e i a t parts
      | t => (.done, parts.foldl (fun s (o, l, p) => s.putBytes w.who (some (s.coreOf w)) (t.add o) l p) s)

/-- Put words into the data slots of lane i. -/
def setLane (d : List Lanes) (i : Nat) (ws : List Word32) : List Lanes :=
  d.zipIdx.map fun (x, j) => Lanes.merge (maskOf (· == i)) (Lanes.all (ws.getD j 0)) x

/-- Lane i of an entry completes, with the words it returns. -/
def HkEntry.laneDone (e : HkEntry) (i : Nat) (ws : List Word32) (p : List Bool) : HkEntry :=
  { e with pend := e.pend &&& ~~~(maskOf (· == i)), data := if ws.isEmpty then e.data else setLane e.data i ws,
           psn := if p.isEmpty then e.psn else e.psn.zipIdx.map fun (x, j) => x || p.getD j false,
           scal := if (sdest e.instr).isNone then e.scal else [(ws.getD 1 0) ++ (ws.getD 0 0)] }

/-- The aligned word of an address, and its byte in it. -/
def State.byteAt (s : State) (w : Warp) (a : Nat) : Option (Loc × Nat) := (s.locOf w.who (a / 4 * 4)).map fun x => (x, a % 4)

/-- Lanes of one store that write the same bytes are performed in ascending order (R104, R258), the rows of an MSTA in ascending order
(R308): no lane that must come before one of `L`, or goes with it in one request (R442), is left out of it. -/
def State.laneOrder (s : State) (w : Warp) (e : HkEntry) (L : Mask) : Bool :=
  let left := lanesOf (e.undone &&& ~~~L)
  let place (i : Nat) : Option (Loc × Nat) := (e.span i).bind fun x => s.byteAt w x.1
  match e.instr with
  | .msta .. => left.all fun j => (lanesOf L).all fun i => decide (i < j)
  | _ => left.all fun j => (lanesOf L).all fun i => (decide (i < j) || (place i).isNone || place i != place j)
      && !(s.cmpLine w e i).any fun k => s.cmpLine w e j == some k

/-- Lanes outside `L` that an entry may perform now, though a lane of `L` faults: the lanes of one instruction that pass every
check perform their accesses (R122, R445, Table 16.8). -/
def State.besides (s : State) (vw : Nat) (seq : BitVec 16) (L : Mask) : Mask :=
  match (s.warp vw).bind fun w => (w.entry seq).map fun e => (w, e) with
  | none => 0
  | some (w, e) => maskOf fun i => has e.undone i && !has L i && s.mayPerform w e (s.request w e i)

/-- Faults in the order of their lanes. -/
def byLane (fl : List LFault) : List LFault := (List.range 32).flatMap fun i => fl.filter (·.lane == i)

/-- Perform the lanes of `L` in ascending order, each by `f`: a lane that passes completes, one that aborts leaves; with `stop`, none
after a fault. The faults of the others, and the state. -/
def State.lanePass (vw : Nat) (seq : BitVec 16) (stop : Bool) (f : State → Warp → HkEntry → Nat → LaneRes × State)
    (L : Mask) (x : List LFault × State) : List LFault × State :=
  (lanesOf L).foldl (fun (fl, s) i =>
    if stop && !fl.isEmpty then (fl, s)
    else match (s.warp vw).bind fun w => (w.entry seq).map fun e => (w, e) with
    | none => (fl, s)
    | some (w, e) =>
      match f s w e i with
      | (.wait, s) => (fl, s)
      | (.val ws p, s) => (fl, s.modWarp vw (·.modEntry seq (·.laneDone i ws p)))
      | (.done, s) => (fl, s.modWarp vw (·.modEntry seq (·.laneDone i [] [])))
      | (.abort c, s) => (fl, s.modWarp vw (·.abortNow (maskOf (· == i)) c))
      | (.fault x, s) => (fl ++ [x], s)) x

/-- Perform the lanes of `L`; where one of them faults, also the entry's other lanes that may be performed; the lanes that fail
fault together. -/
def State.eachLane (s : State) (vw : Nat) (seq : BitVec 16) (L : Mask) (need : Need)
    (f : State → Warp → HkEntry → Nat → LaneRes × State) : State :=
  let x := State.lanePass vw seq false f L ([], s)
  let (fl, t) := if x.1.isEmpty then x else State.lanePass vw seq false f (x.2.besides vw seq L) x
  match t.warp vw with
  | none => t
  | some w => t.faultFrom s w seq (byLane fl) need

/-- Perform the rows of `L` in ascending order, up to the first that faults: no row above it is stored (R308, Table 16.8). -/
def State.eachRow (s : State) (vw : Nat) (seq : BitVec 16) (L : Mask) (f : State → Warp → HkEntry → Nat → LaneRes × State) : State :=
  let (fl, t) := State.lanePass vw seq true f L ([], s)
  match t.warp vw with
  | none => t
  | some w => t.faultFrom s w seq fl Need.write

end Sys2Proof.Machine
end

