-- ==== Sys2Proof/Machine/Keys.lean ====
section
/-! DEFINITION. Ordered-section keys (R172 to R175, R286 to R289, R473, R474): the table, admission, leaving and poisoning. -/

namespace Sys2Proof.Machine

/-- A key as an instruction names it: context, cluster of a `.cl` key, value. -/
structure KeyId where
  ctx : Nat
  cluster : Option Nat
  key : Word64
  deriving DecidableEq, Repr

/-- Key named by a warp (R172): `.cl` keys live at the cluster unit of its original cluster. -/
def Warp.keyId (w : Warp) (cl : Bool) (key : Word64) : KeyId :=
  ⟨w.ident.ctx, if cl then some (w.ident.core / 24) else none, key⟩

def KeyEnt.is (k : KeyEnt) (i : KeyId) : Bool := k.ctx == i.ctx && k.cluster == i.cluster && k.key == i.key

/-- The entry of a key; one never used reads 0 (R172). -/
def State.keyEnt (s : State) (i : KeyId) : KeyEnt :=
  (s.mem.keys.find? (·.is i)).getD ⟨i.ctx, 0, i.cluster, i.key, 0, 0, none, 0, none⟩

/-- Store an entry; one in the unused state takes no room (R172). -/
def State.setKey (s : State) (k : KeyEnt) : State :=
  let i : KeyId := ⟨k.ctx, k.cluster, k.key⟩
  let rest := s.mem.keys.filter fun x => !x.is i
  let unused := k.next == 0 && k.held == 0 && k.poisoned.isNone
  s.setMem { s.mem with keys := if unused then rest else upsert (·.is i) k s.mem.keys }

/-- Poison a key and report it (R473); warps parked on it fault when they are examined. -/
def State.poisonKey (s : State) (k : KeyEnt) (reason : Nat) : State :=
  let s := s.setKey { k with poisoned := some (k.poisoned.getD reason) }
  let d := faultDesc 0x22 3 k.ctx 0 0 0 k.key (at_ reason 0 ||| at_ k.next.toNat 32)
  s.event ⟨0x01, k.ctx, 0, 0, 0, 0, [], [d]⟩

/-- The lanes of `P` leave a key's holders. -/
def KeyEnt.drop (k : KeyEnt) (P : Mask) : KeyEnt :=
  let m := k.mask &&& ~~~P
  { k with held := k.held - count (k.mask &&& P), mask := m, holder := if m = 0 then none else k.holder }

/-- Lanes of a warp whose OSLEAVE of a key has issued and is still to be performed: they hold it no longer at an EXIT that
follows (log entry 79). -/
def Warp.leaving (w : Warp) (k : KeyEnt) : Mask :=
  w.husk.foldl (fun m e => match e.instr with
    | .osleave _ cl _ => m ||| maskOf fun i => has e.pend i && k.is (w.keyId cl (lane64 e.addr i))
    | _ => m) 0

/-- Keys that lanes of `P` hold are poisoned as those lanes exit (Table 17.4 reason 0). -/
def State.exitKeys (s : State) (w : Warp) (P : Mask) : State :=
  (s.mem.keys.filter fun k => k.holder == some w.vw && k.mask &&& (P &&& ~~~(w.leaving k)) != 0).foldl
    (fun s k => s.poisonKey (k.drop (P &&& ~~~(w.leaving k))) 0) s

/-- Keys that a warp holds are poisoned (Table 17.4 reasons 1 and 3). -/
def State.loseKeys (s : State) (vw reason : Nat) : State :=
  (s.mem.keys.filter fun k => k.holder == some vw).foldl (fun s k => s.poisonKey k reason) s

/-- Lanes of an entry that name the key of lane i, in ascending order. -/
def HkEntry.batch (e : HkEntry) (i : Nat) : List Nat :=
  (lanesOf e.planes).filter fun j => lane64 e.addr j == lane64 e.addr i

/-- The lowest lane of each batch. -/
def HkEntry.heads (e : HkEntry) : List Nat := (lanesOf e.planes).filter fun i => (e.batch i).head? == some i

/-- Sequence number of a lane of an OSENTER. -/
def HkEntry.seqNo (e : HkEntry) (i : Nat) : Word32 := Lanes.get (e.data.getD 0 (Lanes.all 0)) i

/-- The numbers of a batch are consecutive in ascending lane order (R173). -/
def HkEntry.consecutive (e : HkEntry) (l : List Nat) : Bool :=
  match l with
  | [] => true
  | i :: _ => l.zipIdx.all fun (j, k) => e.seqNo j == e.seqNo i + BitVec.ofNat 32 k

/-- Fault descriptor AUX of a section-window fault (Table 17.2). -/
def auxWindow (k : KeyEnt) (low : Word32) : Word64 := at_ k.next.toNat 0 ||| at_ low.toNat 32
def auxPoison (k : KeyEnt) : Word64 := at_ (k.poisoned.getD 0) 0 ||| at_ k.next.toNat 32

/-- The lowest sequence number that a batch names (Table 17.2). -/
def HkEntry.lowSeq (e : HkEntry) (l : List Nat) : Word32 :=
  l.foldl (fun a j => if (e.seqNo j).toNat < a.toNat then e.seqNo j else a) (e.seqNo (l.headD 0))

/-- Faults of an OSENTER as its batches stand (R173, R174, R474), of every lane of a batch that fails (R462). The numbers of a batch that are
consecutive modulo 2^32 begin with its lowest lane's. -/
def State.enterFaults (s : State) (w : Warp) (e : HkEntry) (cl : Bool) : List LFault :=
  (lanesOf e.planes).filterMap fun i =>
    let key := lane64 e.addr i
    let k := s.keyEnt (w.keyId cl key)
    let b := e.batch i
    let h := e.seqNo (b.headD i)
    if k.poisoned.isSome then some ⟨i, 0x22, key.toNat, 0, auxPoison k⟩
    else if !e.consecutive b then some ⟨i, 0x23, key.toNat, 0, auxWindow k (e.lowSeq b)⟩
    else if (h - k.next).getLsbD 31 then some ⟨i, 0x23, key.toNat, 0, auxWindow k h⟩
    else none

/-- Every batch is admissible (R173). -/
def State.admissible (s : State) (w : Warp) (e : HkEntry) (cl : Bool) : Bool :=
  e.heads.all fun i =>
    let k := s.keyEnt (w.keyId cl (lane64 e.addr i))
    k.next == e.seqNo i && k.held == 0

/-- Admit every batch in one step (R173, R286). -/
def State.letIn (s : State) (w : Warp) (e : HkEntry) (cl : Bool) : State :=
  e.heads.foldl (fun s i =>
    let b := e.batch i
    let k := s.keyEnt (w.keyId cl (lane64 e.addr i))
    s.setKey { k with next := e.seqNo i + BitVec.ofNat 32 b.length, held := b.length, holder := some w.vw,
                      mask := maskOf b.contains, lid := if k.lid = 0 then w.ident.lid else k.lid }) s

/-- The strip of a fragment warp keeps the keys that the warp uses, which R390 sets back. -/
def State.noteKeys (s : State) (w : Warp) (e : HkEntry) (cl : Bool) : State :=
  let new := (lanesOf e.planes).map fun i => ((w.keyId cl (lane64 e.addr i)).cluster, lane64 e.addr i)
  let note (t : Stream) : Stream :=
    match t.warps.find? fun x => x.sid == w.ident.sid && x.kind == .fragment with
    | none => t
    | some x =>
      let f (y : StripSt) : StripSt := { y with keys := (y.keys ++ new).eraseDups }
      { t with strips := updIf (fun y => y.key == x.key && y.s == x.strip) f t.strips }
  { s with streams := s.streams.map note }

/-- The chaff records of an ordered-section operation: one at the place of each key (R404). -/
def State.keyRecords (s : State) (w : Warp) (e : HkEntry) (cl : Bool) (kind : Nat) : State :=
  e.heads.foldl (fun s i =>
    let key := lane64 e.addr i
    let place : Place := match (w.keyId cl key).cluster with
      | some c => .cluster c
      | none => .keyHome key
    s.chaffed w e kind (maskOf (e.batch i).contains) 0 place []) s

/-- Faults of an OSLEAVE, OSRESET or OSQUERY (R287, R474). An OSLEAVE names no sequence number: `FD.AUX` [63:32] of its 0x23 is 0 (log
entry 96). -/
def State.keyFaults (s : State) (w : Warp) (e : HkEntry) (cl leave : Bool) : List LFault :=
  (lanesOf e.planes).filterMap fun i =>
    let key := lane64 e.addr i
    let k := s.keyEnt (w.keyId cl key)
    if k.poisoned.isSome then some ⟨i, 0x22, key.toNat, 0, auxPoison k⟩
    else if leave && !(k.holder == some w.vw && has k.mask i) then some ⟨i, 0x23, key.toNat, 0, auxWindow k 0⟩
    else none

/-- OSLEAVE of every lane (R287). -/
def State.leave (s : State) (w : Warp) (e : HkEntry) (cl : Bool) : State :=
  e.heads.foldl (fun s i =>
    s.setKey ((s.keyEnt (w.keyId cl (lane64 e.addr i))).drop (maskOf (e.batch i).contains))) s

/-- OSRESET of every lane, in ascending order (R288). -/
def State.osReset (s : State) (w : Warp) (e : HkEntry) (cl : Bool) : State :=
  (lanesOf e.planes).foldl (fun s i =>
    let k := s.keyEnt (w.keyId cl (lane64 e.addr i))
    s.setKey { k with next := e.seqNo i, lid := if k.lid = 0 then w.ident.lid else k.lid }) s

end Sys2Proof.Machine
end

