-- ==== Sys2Proof/Machine/Turn.lean ====
section
/-! DEFINITION. What a warp issues next: the evaluation of a clause header (R32, R181), and the word that follows, in the
order of checks of R455. -/

namespace Sys2Proof.Machine

/-- Debug match source for an address: 1 for DBG0, 2 for DBG1, 0 for none (R449). -/
def dbgMatch (d : Word64 × Word64) (a : Nat) : Nat :=
  let hit (r : Word64) : Bool := r.getLsbD 0 && fld r 55 3 == a / 8 % 2 ^ 53
  if hit d.1 then 1 else if hit d.2 then 2 else 0

/-- DBG0 and DBG1 of a context. -/
def State.dbgOf (s : State) (ctx : Nat) : Word64 × Word64 :=
  match s.cmd.ctxs.find? (·.id == ctx) with
  | some c => (c.dbg0, c.dbg1)
  | none => (0, 0)

/-- Single step applies at this boundary (R453); `inner` says that the boundary is a word whose earlier words have issued
in this turn without a trap. -/
def Warp.steps (w : Warp) (inner : Bool) : Bool := w.spr.tvec.getLsbD 1 && !w.trapMode && !inner

/-- What comes next for a warp: an instruction to execute in a state, or a state already reached. -/
inductive Next
  | instr (i : Instr) (s : State)
  | done (s : State)

/-- The word of a slot: class and last-slot checks (R180, R182), then its decoding (R200, R201). -/
def decodeSlot (c : Clause) (word : Word64) : Except Code8 Instr :=
  let paired := c.hdr.pair.getLsbD c.slot
  if !paired && (!classAdmits c.hdr.cls word || (lastSlotOnly word && c.slot != c.hdr.count)) then .error 0x01
  else decode paired word

/-- The next word of a warp inside a clause (R455 items 2 to 4). -/
def State.nextWord (s : State) (w : Warp) : Next :=
  let a := w.issueAddr
  let sup := w.exec &&& w.suppress != 0
  let d := dbgMatch w.dbg a
  if s.holds w then .done (s.setWarp (s.held w))
  else if !sup && w.steps (w.clause.slot != 0 && !w.clause.broken) then .done (s.takeTrap w (w.here 0x42) 0)
  else if !sup && d != 0 then .done (s.takeTrap w { w.here 0x40 with src := d } 0)
  else match s.fetch w a with
  | (.error e, s) =>
    if e.cause = 0x10 then .done (s.waitPage w a Need.fetch e.level) else .done (s.takeTrap w (w.here e.cause) 0)
  | (.ok word, s) =>
    match decodeSlot w.clause word with
    | .error c => .done (s.takeTrap w (w.here c) word)
    | .ok i => .instr i s

/-- The windows whose outstanding destinations the first word of the clause at `a` reads (R55). -/
def State.firstWaits (s : State) (w : Warp) (a : Nat) (h : Header) : List Nat × State :=
  if w.wins.all (·.done) then ([], s)
  else match s.fetch w (a + 8) with
  | (.ok word, s) =>
    match decodeSlot ⟨true, a, 0, h, false⟩ word with
    | .ok i => ((w.wins.filter fun x => !x.done && i.reads.any x.regs.contains).map (·.id), s)
    | .error _ => ([], s)
  | (.error _, s) => ([], s)

/-- Begin the clause at `a` (R32): the executing lanes stand at its first word. -/
def Warp.begin (w : Warp) (a : Nat) (h : Header) (dbg : Word64 × Word64) : Warp :=
  { w.setPc w.exec (fun _ => BitVec.ofNat 64 (a + 8)) with
    clause := ⟨true, a, 0, h, false⟩, dbg := dbg, suppress := w.suppress &&& ~~~w.exec, held := none,
    waits := { w.waits with mask := 0, first := [] } }

/-- Counters of a mask that are not zero (R197). -/
def Warp.counting (w : Warp) (m : BitVec 6) : Bool := (List.range 6).any fun k => m.getLsbD k && w.dc.toList.getD k 0 != 0

/-- A clause header becomes the issue address (R181, R455 items 1 and 2). -/
def State.nextHeader (s : State) (w : Warp) : State :=
  let a := w.issueAddr
  let sup := w.exec &&& w.suppress != 0
  let dbg := s.dbgOf w.ident.ctx
  let d := dbgMatch dbg a
  if w.running = 0 then s
  else if 4096 ≤ w.turnWords || s.pairWait w then s.putBack w.endTurn
  else match w.mids.find? fun c => c.word == a with
  | some c => s.setWarp { w with clause := c, mids := w.mids.erase c }
  | none =>
    if w.waits.page.isSome then s.putBack w.endTurn
    else if !sup && d != 0 then s.takeTrap w { w.here 0x40 with src := d } 0
    else match s.fetch w a with
    | (.error e, s) =>
      if e.cause = 0x10 then s.waitPage w a Need.fetch e.level else s.takeTrap w (w.here e.cause) 0
    | (.ok word, s) =>
      let h := Header.ofWord word
      match h.check with
      | some c => s.takeTrap w (w.here c) word
      | none =>
        if !sup && w.steps false then s.takeTrap w (w.here 0x42) 0
        else if w.counting h.wait then s.putBack { w.endTurn with waits := { w.waits with mask := h.wait } }
        else
          let (l, s) := s.firstWaits w a h
          if l.isEmpty then s.setWarp (w.begin a h dbg) else s.putBack { w.endTurn with waits := { w.waits with first := l } }

/-- The warp's next clause can begin as far as its header says: the counters that it names are zero, and no outstanding destination is read by
its first word (R55). A header that traps, or whose page is not present, is for the warp to meet in its turn. -/
def State.headerReady (s : State) (w : Warp) : Bool :=
  w.clause.inside || (w.mids.any fun c => c.word == w.issueAddr) ||
    match s.fetch w w.issueAddr with
    | (.error _, _) => true
    | (.ok word, s) =>
      let h := Header.ofWord word
      h.check.isSome || (!w.counting h.wait && (s.firstWaits w w.issueAddr h).1.isEmpty)

/-- What warp `vw` issues next, when it is in its turn and its sheaf is resident. -/
def State.nextOf (s : State) (vw : Nat) : Next :=
  match s.warp vw with
  | none => .done s
  | some w =>
    if w.slot != .turn || !s.mayRun w then .done s
    else if w.clause.inside then s.nextWord w else .done (s.nextHeader w)

end Sys2Proof.Machine
end

