-- ==== Sys2Proof/Machine/Control.lean ====
section
/-! DEFINITION. Control transfers, waiting, debugging, prefetch and pinning of code, 0x00 to 0x0C, and the system
instructions, 0xF0 to 0xF5 (R214 to R222, R448 to R454, R507). -/

namespace Sys2Proof.Machine

/-- NOP (Table 7.1). -/
def execNop (g : Guard) (s : State) : Host.Outcome State Fault Refusal :=
  s.issue (.nop g) g [] fun s w _ => .go s w false

/-! ## Transfers (R215, R216). The lanes of E outside P have already gone to the next header. -/

/-- Target of a BR word: H + 8 × the displacement, in the 56 bits of an address (R30). -/
def Warp.target (w : Warp) (disp : BitVec 32) : Word64 :=
  (BitVec.ofNat 64 w.clause.addr + disp.signExtend 64 * 8) &&& 0x00FFFFFFFFFFFFFF

/-- BRA (R215). -/
def execBra (g : Guard) (disp : BitVec 32) (s : State) : Host.Outcome State Fault Refusal :=
  s.issue (.bra g disp) g [] fun s w P => .go s (w.setPc P fun _ => w.target disp) false

/-- CALL: the link pair takes the next header's address (R215). -/
def execCall (g : Guard) (d : R8) (disp : BitVec 32) (s : State) : Host.Outcome State Fault Refusal :=
  s.issue (.call g d disp) g [] fun s w P =>
    .go s ((w.putV2 d P 0 fun _ => BitVec.ofNat 64 w.clause.next).setPc P fun _ => w.target disp) false

/-- A target that BRX or RET may take (R215). -/
def targetOk (a : Word64) : Bool := a.extractLsb' 0 3 == 0 && a.extractLsb' 56 8 == 0

/-- Transfer of each lane of P to the address in its pair (R215). -/
def State.indirect (s : State) (i : Instr) (g : Guard) (a : R8) : Host.Outcome State Fault Refusal :=
  s.issue i g [⟨a, 2, tRaw⟩] fun s w P =>
    if (lanesOf P).all fun j => targetOk (w.ln64 a j) then .go s (w.setPc P fun j => w.ln64 a j) false else .trap 0x06

/-- BRX (R215). -/
def execBrx (g : Guard) (a : R8) (s : State) : Host.Outcome State Fault Refusal := s.indirect (.brx g a) g a

/-- RET: the effect of BRX (R215). -/
def execRet (g : Guard) (a : R8) (s : State) : Host.Outcome State Fault Refusal := s.indirect (.ret g a) g a

/-- The lanes of `P` exit: they leave their transactions with no resume address to take (R30, R216). When no lane of a
handler is left, trap mode ends as at an ERET with no returning lane (R451); a warp with no live lane has finished. -/
def Warp.exitLanes (w : Warp) (P : Mask) : Warp :=
  let w := (w.abort P 0x09).setPc P fun _ => exited
  let w := { w with tx := { w.tx with doomed := w.tx.doomed &&& ~~~P } }
  let w := if w.trapMode && w.running == 0 then w.eret 0 false 0 w.clause.hdr else w
  if w.live = 0 then { w with slot := .finished } else w

/-- EXIT (R216, R284); a key that an exiting lane holds is poisoned (R473). -/
def execExit (g : Guard) (s : State) : Host.Outcome State Fault Refusal :=
  s.issue (.exit g) g [] fun s w P => let w1 := w.exitLanes P; .go (s.exitKeys w P) w1 (w1.slot == .finished)

/-! ## Waiting (R217) and BRK (R218) -/

/-- WAIT: the turn ends, and the warp is not ready until the counters named are zero. -/
def execWait (g : Guard) (m : BitVec 6) (s : State) : Host.Outcome State Fault Refusal :=
  s.issue (.wait g m) g [] fun s w _ => .go s { w with waits := { w.waits with mask := m } } true

/-- YIELD: the turn ends. -/
def execYield (g : Guard) (s : State) : Host.Outcome State Fault Refusal :=
  s.issue (.yield g) g [] fun s w _ => .go s w true

/-- SLEEP: the turn ends, and the warp is not ready until the time has passed; of no time it is a YIELD. -/
def execSleep (g : Guard) (a : R8) (s : State) : Host.Outcome State Fault Refusal :=
  s.issue (.sleep g a) g [] fun s w _ =>
    let n := min ((w.sc a).toNat % 2 ^ 32) (2 ^ 24)
    if n = 0 then .go s w true
    else .go s { w with waits := { w.waits with wake := s.io.time.timebase + BitVec.ofNat 64 n } } true

/-- BRK (R218). -/
def execBrk (g : Guard) (code : Byte) (s : State) : Host.Outcome State Fault Refusal :=
  s.issue (.brk g code) g [] fun _ _ _ => .after 0x40 0 code.toNat

/-! ## Prefetch and pinning (R137, R219) -/

/-- Line numbers that overlap a range. -/
def linesIn (a n : Nat) : List Nat := if n = 0 then [] else (List.range ((a + n - 1) / 128 - a / 128 + 1)).map (a / 128 + ·)

/-- What IPREF, IPIN and IUNPIN do. -/
inductive CodeOp
  | pref | pin | unpin
  deriving DecidableEq, Repr

/-- Lines pinned in the instruction cache of a core. -/
def Mem.pinned0 (m : Mem) (core : Nat) : Nat := (m.il.filter fun l => l.core == core && !l.pins.isEmpty).length

/-- Home slice of a physical address (R113). -/
def homeSlice (pa : Nat) : Nat × Nat :=
  (pa / 0xC00000000, (pa / 2 ^ 7 % 16) ^^^ (pa / 2 ^ 11 % 16) ^^^ (pa / 2 ^ 15 % 16) ^^^ (pa / 2 ^ 19 % 16))

/-- One line at level 0: fetched again from its home (IPREF), or held and pinned within 64 KiB (IPIN). -/
def State.codeLine0 (s : State) (op : CodeOp) (core ctx sid a pa : Nat) (pte : Word64) : State :=
  let upd (s : State) (f : List Nat → List Nat) : State :=
    let il := updIf (fun l : ILine => l.core == core && l.ctx == ctx && l.line == a / 128)
      (fun l => { l with pins := f l.pins }) s.mem.il
    s.setMem { s.mem with il := il }
  match op with
  | .pref => (s.fillLine core ctx a pa pte).1
  | .pin =>
    match s.mem.iline core ctx a with
    | none =>
      let s := (s.fillLine core ctx a pa pte).1
      if s.mem.pinned0 core < 512 then upd s (sid :: ·) else s
    | some l =>
      if l.key != (s.via ctx pte).key then (s.fillLine core ctx a pa pte).1
      else if !l.pins.isEmpty then s
      else
        -- the cache may have let an unpinned copy go
        let (b, s) := s.drawBool
        let s := if b then s else (s.fillLine core ctx a pa pte).1
        if s.mem.pinned0 core < 512 then upd s (sid :: ·) else s
  | .unpin => upd s fun _ => []

/-- One line at level 1: pinned within 512 KiB of its home slice. -/
def State.codeLine1 (s : State) (op : CodeOp) (ctx pa : Nat) : State :=
  let l := pa / 128
  match op with
  | .pref => s
  | .pin =>
    let same := s.mem.pins1.filter fun p => homeSlice (p.2 * 128) == homeSlice pa
    let full := (same.map (·.2)).eraseDups.length ≥ 4096 && !same.any (·.2 == l)
    if s.mem.pins1.contains (ctx, l) || full then s else s.setMem { s.mem with pins1 := (ctx, l) :: s.mem.pins1 }
  | .unpin => s.setMem { s.mem with pins1 := s.mem.pins1.filter (· != (ctx, l)) }

/-- Act on every line of the range; a line whose translation fails a check, or whose page is not executable, is skipped. -/
def State.codeRange (s : State) (w : Warp) (op : CodeOp) (l1 : Bool) (a n : Nat) : State :=
  (linesIn a n).foldl (fun s l =>
    match s.translate w.who (128 * l) 8 Need.fetch with
    | (.ok (.dram pa pte), s) =>
      if l1 then s.codeLine1 op w.ident.ctx pa
      else s.codeLine0 op (s.coreOf w) w.ident.ctx w.ident.sid (128 * l) pa pte
    | (_, s) => s) s

/-- Issue IPREF, IPIN or IUNPIN. The entry of an IPREF or IPIN, which replays without effect (R212), is over at once. -/
def State.codeOp (s : State) (i : Instr) (g : Guard) (op : CodeOp) (l1 : Bool) (a b : R8) :
    Host.Outcome State Fault Refusal :=
  s.issue i g [] fun s w _ =>
    if op != .unpin && w.huskFull then .hold s
    else .go (s.codeRange w op l1 (w.sc a).toNat ((w.sc b).toNat % 2 ^ 24)) (if op = .unpin then w else w.tick) false

/-- IPREF (R219). -/
def execIpref (g : Guard) (l1 : Bool) (a b : R8) (s : State) : Host.Outcome State Fault Refusal :=
  s.codeOp (.ipref g l1 a b) g .pref l1 a b

/-- IPIN (R219). -/
def execIpin (g : Guard) (l1 : Bool) (a b : R8) (s : State) : Host.Outcome State Fault Refusal :=
  s.codeOp (.ipin g l1 a b) g .pin l1 a b

/-- IUNPIN (R219). -/
def execIunpin (g : Guard) (l1 : Bool) (a b : R8) (s : State) : Host.Outcome State Fault Refusal :=
  s.codeOp (.iunpin g l1 a b) g .unpin l1 a b

/-! ## Special registers (R198, R221) -/

/-- Value of a special register for lane i of a warp that has advanced past the SREAD word. Every core reads one TIMEBASE: a skew of 0 among
the up to 8 ns that R21 leaves open (log entry 103, DESIGN CHOICE). -/
def State.special (s : State) (w : Warp) (sp : Special) (i : Nat) : Word64 :=
  match sp with
  | .idLane => BitVec.ofNat 64 i
  | .idWarp => BitVec.ofNat 64 w.ident.idWarp
  | .idWg => w.ident.idWg
  | .idSheaf => w.ident.idSheaf.setWidth 64
  | .idCore => BitVec.ofNat 64 w.ident.core
  | .idCluster => BitVec.ofNat 64 (w.ident.core / 24)
  | .idDie => BitVec.ofNat 64 (w.ident.core / 144)
  | .idDevice => s.io.start.device.setWidth 64
  | .role => BitVec.ofNat 64 w.ident.role
  | .timebase => s.io.time.timebase
  | .clock => s.cores.clock.getD (s.coreOf w / 24) 0
  | .fmode => w.spr.fmode
  | .fflags => w.spr.fflags
  | .tcause => w.spr.tcause
  | .taddr => w.spr.taddr
  | .tlanes => w.spr.tlanes.setWidth 64
  | .tvec => w.spr.tvec
  | .mprog => w.spr.mprog
  | .rangeLo => w.spr.rangeLo
  | .rangeHi => w.spr.rangeHi
  | .lanemap => ((s.cores.maps.find? (·.1 == s.coreOf w)).map (·.2)).getD 0
  | .gazeAz => w.spr.gazeAz.setWidth 64
  | .gazeEl => w.spr.gazeEl.setWidth 64
  | .gazeTime => w.spr.gazeTime
  | .gazeSeq => w.spr.gazeSeq.setWidth 64
  | .vpc => BitVec.ofNat 64 (w.clause.addr + 8 * w.clause.slot)

/-- Value read by a warp: of a paired warp's forwarded register, the one that the leading copy read at that word count
(R502); the leading copy keeps it. -/
def State.readSpecial (s : State) (w : Warp) (sp : Special) (i : Instr) (P : Mask) : (Nat → Word64) × Warp :=
  let own := s.special w sp
  if !forwarded sp then (own, w)
  else match s.twinOf w with
  | none => (own, w)
  | some (false, _) =>
    match w.reads.find? (·.n == w.issued) with
    | some v => (fun _ => v.x, w)
    | none => (own, { w with reads := ⟨w.issued, wordOf i, P, own 0, true⟩ :: w.reads })
  | some (true, l) =>
    match l.reads.find? (·.n == w.issued) with
    | some v => (fun _ => v.x, w)
    | none => (own, w)

/-- SREAD: the value is that of its issue; the register is written when the pipeline completes (R213, R221). -/
def execSread (g : Guard) (la : BitVec 4) (vec : Bool) (d : R8) (sp : Special) (s : State) :
    Host.Outcome State Fault Refusal :=
  s.issue (.sread g la vec d sp) g [] fun s w P =>
    let (f, w) := s.readSpecial w sp (.sread g la vec d sp) P
    let wb := if !vec then [WB.s d.toNat (f 0)]
      else if sp.wide then wbV2 d P 0 f
      else [wbV d P 0 fun i => (f i).setWidth 32]
    .go { s with nextId := s.nextId + 1 } (w.openPipe s.nextId la.toNat (Instr.sread g la vec d sp).pending wb) false

/-- Write a special register; reserved bits keep their value 0 (R6, Table 3.4, Table 3.5, Table 16.5). -/
def Warp.writeSpecial (w : Warp) (sp : Special) (x : Word64) : Warp :=
  { w with spr := match sp with
    | .fmode => { w.spr with fmode := x &&& 3 }
    | .fflags => { w.spr with fflags := x &&& 0x3F }
    | .tvec => { w.spr with tvec := x &&& 0x00FFFFFFFFFFFFFF }
    | _ => w.spr }

/-- SWRITE: from a scalar, or from the lowest lane of P of a vector register or pair (R221). -/
def execSwrite (g : Guard) (vec : Bool) (a : R8) (sp : Special) (s : State) : Host.Outcome State Fault Refusal :=
  s.issue (.swrite g vec a sp) g (if vec then [⟨a, if sp.wide then 2 else 1, tRaw⟩] else []) fun s w P =>
    let x := if !vec then w.sc a
      else if sp.wide then w.ln64 a (lowest P)
      else (w.ln a (lowest P)).setWidth 64
    -- a BGEMV's flags come with its completion
    if sp == .fflags && w.husk.any (fun e => match e.instr with | .bgemv .. => true | _ => false) then .hold s
    else .go s (w.writeSpecial sp x) false

/-! ## Traps, HALT, CKPT (R222) -/

/-- TRAP (R222). -/
def execTrap (g : Guard) (code : BitVec 16) (s : State) : Host.Outcome State Fault Refusal :=
  s.issue (.trap g code) g [] fun _ _ _ => .after 0x41 0 code.toNat

/-- The word that `TVEC.SKIP` passes over counts as one whose guard is false in every lane: open windows count it, and a long-latency one opens
its own (R195, R452). -/
def State.passOver (s : State) (w : Warp) (c : Clause) : State × Warp :=
  let w1 := { w.countWord with issued := w.issued + 1 }
  match s.fetch w c.word with
  | (.error _, s) => (s, w1)
  | (.ok x, s) => match decodeSlot c x with
    | .error _ => (s, w1)
    | .ok i => match i.la with
      | some la => ({ s with nextId := s.nextId + 1 }, w1.openDone s.nextId la i.pending)
      | none => (s, w1)

/-- ERET: the return of R452, made with the `CLH.COUNT` of the trapping clause's header; outside trap mode the stop of
R454. -/
def execEret (g : Guard) (s : State) : Host.Outcome State Fault Refusal :=
  s.issue (.eret g) g [] fun s w _ =>
    if !w.trapMode then .stop 0x01
    else match s.fetch w w.trapHeader with
    | (.error e, s) =>
      if e.cause = 0x10 then
        .hold (match s.warp w.vw with | some w0 => s.waitPage w0 w.trapHeader Need.fetch e.level | none => s)
      else .trapIn s e.cause
    | (.ok word, s) =>
      let h := Header.ofWord word
      let (ret, inside) := w.eretTarget h.count
      let tc := w.spr.tcause
      let w1 := w.eret ret inside w.trapHeader h
      if w.spr.tvec.getLsbD 2 && !tc.getLsbD 12 && !tc.getLsbD 13 then
        let (s, w1) := s.passOver w1 ⟨true, w.trapHeader, fld tc 11 8, h, false⟩
        .go s w1 false
      else .go s w1 false

/-- HALT (R222, R359): in a sheaf pair the leading copy's waits in the compare buffer, and is performed once, when its twin's has matched it
(Table 19.1, R503); one that was performed before a rollback is not performed again (R509). -/
def execHalt (g : Guard) (code : BitVec 16) (s : State) : Host.Outcome State Fault Refusal :=
  s.issue (.halt g code) g [] fun s w P =>
    match s.twinOf w with
    | some (true, l) =>
      if l.reads.any fun r => r.n == w.issued && r.done then .go s w false
      else .freeze ((s.halted w.ident.lid code).modWarp l.vw fun l =>
        { l with reads := updIf (·.n == w.issued) (fun r => { r with done := true }) l.reads }) w .halt
    | some (false, _) =>
      if w.reads.any (·.n == w.issued) then .go s w false
      else if s.bufferFull w then .hold s
      else .go s { w with reads := ⟨w.issued, wordOf (.halt g code), P, 0, false⟩ :: w.reads } true
    | none =>
      -- a clean restartable sheaf is committed (R513)
      .freeze ((s.halted w.ident.lid code).modSheaf w.ident.sid fun h => { h with clean := false }) w .halt

/-- Cycles of the core that a warp runs on. -/
def State.clockOf (s : State) (w : Warp) : Nat := (s.cores.clock.getD (s.coreOf w / 24) 0).toNat

/-- CKPT: in a paired launch the warp waits for the checkpoint, at most 65,536 cycles; in another it does nothing
(R222, R507). -/
def execCkpt (g : Guard) (s : State) : Host.Outcome State Fault Refusal :=
  s.issue (.ckpt g) g [] fun s w _ =>
    match s.leadOf w.ident.sid with
    | none => .go s w false
    | some _ => .go (s.wantCkpt w.ident.sid) { w with waits := { w.waits with ckpt := some (s.clockOf w + 65536) } } true

end Sys2Proof.Machine
end

