-- ==== Sys2Proof/Machine/Spill.lean ====
section
/-! DEFINITION. The overflow engine: spill pages and their records (R361 to R363, R480, R481), the winnower's bins (R354), work
queues and the range-task store as structures that spill. -/

namespace Sys2Proof.Machine

/-! ## Pages -/

/-- Record bytes of a kind, and records that a page holds (Table 10.12). -/
def recBytes : Nat → Nat
  | 2 => 64
  | 3 | 5 | 6 => 32
  | _ => 16
def perPage (kind : Nat) : Nat := 4032 / recBytes kind

/-- A structure instance: its index (`SP.INST`: queue number, die, cluster, home slice, core, stack), and which of the structures of its
kind it is, as the model's own number above it. -/
def instIndex (inst : Nat) : Nat := inst % 2 ^ 16
def instClass (inst : Nat) : Nat := inst / 2 ^ 16

/-- Page header (Table 10.13). -/
def SpillPage.header (p : SpillPage) : List Byte :=
  bytesOf 64 (p.kind + instIndex p.inst * 2 ^ 8 + p.seq * 2 ^ 32 + p.n * 2 ^ 64)

/-- Pages of one structure instance. -/
def Launch.pagesOf (l : Launch) (kind inst : Nat) : List SpillPage :=
  l.pages.filter fun p => p.kind == kind && p.inst == inst

/-- Records of an instance that are spilled. -/
def Launch.spilled (l : Launch) (kind inst : Nat) : Nat := ((l.pagesOf kind inst).map (·.left)).sum

/-- Where a page of the ring lies; none when it fails a check (R481). -/
def State.spillAt (s : State) (l : Launch) (page : Nat) : Option Target × State :=
  match s.translate ⟨l.ctx, none, none⟩ (l.r.spill + 4096 * page) 8 Need.atomic with
  | (.ok t, s) => (some t, s)
  | (.error _, s) => (none, s)

/-- The overflow engine writes a page, line by line. -/
def State.writePage (s : State) (ctx : Nat) (t : Target) (img : List Byte) : State :=
  (List.range 32).foldl (fun s i =>
    s.putBytes ⟨ctx, none, none⟩ none (t.add (128 * i)) ((img.drop (128 * i)).take 128) false) s

/-- A page as it stands in memory, and whether an uncorrectable error has left poison in it. -/
def State.readPage (s : State) (ctx : Nat) (t : Target) : List Byte × Bool :=
  (List.range 32).foldl (fun (l, p) i => let x := s.readAt ctx (t.add (128 * i)) 128; (l ++ x.1, p || x.2)) ([], false)

/-- The error with which a page of a ring comes back, with its `FD.AUX`: 0x28 for an uncorrectable error, 0x29 for a check value that does not
match (R480, Table 17.2). `FD.AUX` is not known where there is no instruction word, or no page at the address (log entry 10). -/
def State.pageError (s : State) (l : Launch) (p : SpillPage) : Option (Code8 × Option Word64) :=
  match (s.spillAt l p.page).1 with
  | none => some (0x29, none)
  | some t =>
    let (b, psn) := s.readPage l.ctx t
    if psn then some (0x28, none)
    else if crc32c b != crc32c p.img then some (0x29, some (crc32c b ++ crc32c p.img))
    else none

/-- The page with one more record. -/
def SpillPage.append (p : SpillPage) (r : List Byte) : SpillPage :=
  let p := { p with n := p.n + 1, left := p.left + 1 }
  let body := (p.img.drop 64).take (recBytes p.kind * (p.n - 1)) ++ r
  { p with img := padTo 4096 (p.header ++ body) }

/-- The page that the next record of an instance goes to: its youngest while that has room, else the first of the ring that is not in use;
none when the quota is used up. `SP.SEQ` counts the pages of an instance, and begins at 0 again once it has none (log entry 107, DESIGN
CHOICE). -/
def Launch.nextPage (l : Launch) (kind inst : Nat) : Option SpillPage :=
  let mine := l.pagesOf kind inst
  let top := mine.foldl (fun a p => max a p.seq) 0
  match mine.find? fun p => p.seq == top && decide (p.n < perPage kind) with
  | some p => some p
  | none => match (List.range (l.pages.length + 1)).find? fun k => !l.pages.any (·.page == k) with
    | none => none
    | some k => if l.r.quota ≤ k then none else some ⟨k, kind, inst, if mine.isEmpty then 0 else top + 1, 0, 0, []⟩

/-- Spill one record of a launch into a structure instance's page; none is a quota breach (R363): no page is left, or the page fails a check
(R481). -/
def State.spillRec (s : State) (lid kind inst : Nat) (r : List Byte) : Option State :=
  match s.launch lid with
  | none => none
  | some l => match l.nextPage kind inst with
    | none => none
    | some p => match s.spillAt l p.page with
      | (none, _) => none
      | (some t, s) =>
        let p := p.append r
        some ((s.writePage l.ctx t p.img).modLaunch lid fun l => { l with pages := upsert (·.page == p.page) p l.pages })

/-- Refill up to `room` records of an instance from its oldest page: the state and how many; none when the page fails its check. -/
def State.unspill (s : State) (lid kind inst room : Nat) : Option (State × Nat) :=
  match s.launch lid with
  | none => some (s, 0)
  | some l =>
    match sortBy (·.seq) (l.pagesOf kind inst) with
    | [] => some (s, 0)
    | p :: _ =>
      if room = 0 then some (s, 0)
      else match s.spillAt l p.page with
      | (none, _) => none
      | (some _, s) =>
        if (s.pageError l p).isSome then none
        else
          let k := min room p.left
          let f (l : Launch) : Launch :=
            if k = p.left then { l with pages := l.pages.filter (·.page != p.page) }
            else { l with pages := updIf (·.page == p.page) (fun p => { p with left := p.left - k }) l.pages }
          some (s.modLaunch lid f, k)

/-- The page of the ring that an instance's next record needs and that fails a check at the overflow engine's access (R481). -/
def State.failedPage (s : State) (l : Launch) (kind inst : Nat) : Option Nat :=
  (l.nextPage kind inst).bind fun p => if (s.spillAt l p.page).1.isNone then some p.page else none

/-- `FD.AUX` of a quota breach (Table 17.2): a page of the ring that fails a check counts as one in use (R481). -/
def State.auxQuota (s : State) (l : Launch) (kind inst : Nat) : Word64 :=
  let extra := (s.failedPage l kind inst).any fun k => !l.pages.any (·.page == k)
  at_ kind 0 ||| at_ (instIndex inst) 8 ||| at_ (l.pages.length + b2n extra) 32

/-! ## Work queues (R316, R317) -/

/-- A work queue of a launch; one never used is empty. -/
def Launch.wq (l : Launch) (q : Nat) : WQueue := (l.queues.find? (·.q == q)).getD ⟨q, [], [], false⟩
def State.setWq (s : State) (lid : Nat) (x : WQueue) : State :=
  s.modLaunch lid fun l => { l with queues := upsert (·.q == x.q) x l.queues }

/-- Entries that stand in the queue's home. -/
def Launch.atHome (l : Launch) (q : Nat) : Nat := (l.wq q).ents.length - l.spilled 1 q

/-- Entries taken from a queue that stand aside at its home until the chaff record that holds them retires (Table 12.3). -/
def State.aside (s : State) (lid q : Nat) : Nat :=
  ((s.mem.chaff.filter fun c => c.place == .queue (q % 8) q && ((s.warp c.vw).map (·.ident.lid)) == some lid).map (·.vals.length)).sum

/-- A spilled page of a queue is lost: the queue is poisoned, and reported (R490). -/
def State.queueLost (s : State) (l : Launch) (q : Nat) : State :=
  let s := s.modLaunch l.lid fun l => { l with pages := l.pages.filter fun p => !(p.kind == 1 && p.inst == q) }
  (s.setWq l.lid { l.wq q with ents := [], poisoned := true }).event (s.evOf 0x07 l.lid [at_ q 0] [])

/-- Bring the first `n` entries of a queue home: spilled ones are refilled page by page. -/
def State.bringHome (s : State) (lid q n : Nat) : Nat → State
  | 0 => s
  | k + 1 => match s.launch lid with
    | none => s
    | some l =>
      if n ≤ l.atHome q || (l.pagesOf 1 q).isEmpty then s
      else match s.unspill lid 1 q (n - l.atHome q) with
        | none => s.queueLost l q
        | some (s, _) => State.bringHome s lid q n k

/-- Append one entry, spilling it when the home is full or entries before it are spilled. -/
def State.enq1 (s : State) (lid q : Nat) (x : BitVec 128) : Option State :=
  match s.launch lid with
  | none => none
  | some l =>
    let add (s : State) : State :=
      s.modLaunch lid fun l =>
        let y := l.wq q
        { l with queues := upsert (·.q == q) { y with ents := y.ents ++ [x] } l.queues }
    if l.spilled 1 q = 0 && decide (l.atHome q + s.aside lid q < 1024) then some (add s)
    else (s.spillRec lid 1 q (bytesOf 16 x.toNat)).map add

/-- Append a batch; none is a breach. -/
def State.enqAll (s : State) (lid q : Nat) (l : List (BitVec 128)) : Option State :=
  l.foldl (fun s x => s.bind fun s => s.enq1 lid q x) (some s)

/-! ## The winnower (R354) -/

/-- Cycles of a die. -/
def State.dieClock (s : State) (die : Nat) : Nat := (s.cores.clock.getD (6 * die) 0).toNat

/-- A tiller as a record (Table 9.7). -/
def Tiller.bytes (t : Tiller) : List Byte :=
  let tags := t.words.zipIdx.foldl (fun a (x, k) => a + x.2.toNat * 2 ^ (4 * k)) 0
  padTo 64 (bytesOf 8 t.pc ++ bytesOf 8 (tags + t.words.length * 2 ^ 48 + t.role * 2 ^ 52 + t.kind * 2 ^ 54)
    ++ t.words.flatMap fun x => bytesOf 4 x.1.toNat)

/-- A bin is bound to a key. -/
def Bin.is (b : Bin) (die lid : Nat) (t : Tiller) : Bool :=
  b.die == die && b.lid == lid && b.pc == t.pc && b.role == t.role

/-- A tiller joins a bin of its key, or binds a free one; none when none is free. A bin of 32 forms a warp. -/
def State.joinBin (s : State) (die lid : Nat) (t : Tiller) : Option State :=
  let now := s.dieClock die
  let add (b : Bin) : Bin := let l := b.tillers ++ [(t, now)]; { b with tillers := l, formed := b.formed || l.length == 32 }
  let free (b : Bin) : Bool := b.is die lid t && !b.formed
  if s.cmd.bins.any free then some { s with cmd := { s.cmd with bins := updIf free add s.cmd.bins } }
  else if (s.cmd.bins.filter (·.die == die)).length < 64 then
    some { s with cmd := { s.cmd with bins := s.cmd.bins ++ [⟨die, lid, t.pc, t.role, [(t, now)], false, none⟩] } }
  else none

/-- A tiller arrives: behind spilled tillers of its key it spills too. -/
def State.tillerIn (s : State) (die lid : Nat) (t : Tiller) : Option State :=
  match s.launch lid with
  | none => none
  | some l =>
    let behind := l.pool.any fun x => x.1 == die && x.2.pc == t.pc && x.2.role == t.role
    match if behind then none else s.joinBin die lid t with
    | some s => some s
    | none => (s.spillRec lid 2 die t.bytes).map fun s => s.modLaunch lid fun l => { l with pool := l.pool ++ [(die, t)] }

/-! ## The range-task store (R352) -/

/-- Tasks of a die that still have pieces to hand out. -/
def State.tasksOn (s : State) (die : Nat) : Nat :=
  (s.launches.map fun l => (l.tasks.filter fun t => t.die == die && !t.whole).length).sum

/-- Spilled tasks of a die. -/
def State.tasksOut (s : State) (die : Nat) : Nat := (s.launches.map (·.spilled 3 die)).sum

/-- A task enters the store of its die; none is a breach. The layout of a spilled task is not given: its bytes are free. -/
def State.taskIn (s : State) (lid : Nat) (t : Task) : Option State :=
  let add (s : State) : State := s.modLaunch lid fun l => { l with tasks := l.tasks ++ [t] }
  if s.tasksOn t.die - s.tasksOut t.die < 4096 then some (add s)
  else
    let (b, s) := s.freeBytes 4
    (s.spillRec lid 3 t.die b).map add

/-! ## Structures that no instruction fills (kinds 4 to 7) -/

/-- Instances of the bounded structures: cluster units, home slices by package index, scratchpad slices by core, queue homes, task
stores and winnowers by die, logic dies by stack, the scheduler. -/
def homeOf (pa : Nat) : Nat := let (d, k) := homeSlice pa; 16 * d + k
def homeInst (h : Nat) : Nat := 2 ^ 16 + h
def sliceInst (core : Nat) : Nat := 2 * 2 ^ 16 + core

def State.locPlace (s : State) : Loc → Nat
  | .dram pa => homeInst (homeOf pa)
  | .scr sid c _ => sliceInst (((s.sheaf sid).map (·.cur)).getD 0 + c)
  | .sys _ => homeInst 0

/-- Home slice of a `.dv` key (R172). -/
def keyHome (k : Word64) : Nat :=
  (List.range 9).foldl (fun h j => h ^^^ fld k (7 * j + 6) (7 * j)) (b2n (k.getLsbD 63))

def warpLid (s : State) (vw : Nat) : Nat := ((s.warp vw).map (·.ident.lid)).getD 0

/-- Instance and capacity of a place of chaff records (Table 12.4). A saved sheaf's slices hold none (R407). -/
def State.chaffInst (s : State) : Place → Nat × Nat
  | .loc (.scr sid c o) =>
    (s.locPlace (.scr sid c o), if (s.sheaf sid).any (·.state == .saved) then 0 else 1024)
  | .loc l => (s.locPlace l, 16384)
  | .keyHome k => (homeInst (keyHome k), 16384)
  | .cluster c => (c, 4096)
  | .queue d _ => (3 * 2 ^ 16 + d, 2048)
  | .tasks d => (4 * 2 ^ 16 + d, 2048)
  | .winnower d => (5 * 2 ^ 16 + d, 2048)
  | .stack k => (6 * 2 ^ 16 + k, 8192)
  | .scheduler _ => (7 * 2 ^ 16, 2048)
  | .graphics => (8 * 2 ^ 16, 2 ^ 32)

/-- A record of a bounded structure: kind, instance, capacity, launch, and its bytes where the manual lays them out. -/
structure BoundRec where
  kind : Nat
  inst : Nat
  cap : Nat
  lid : Nat
  bytes : Option (List Byte)
  deriving DecidableEq, Repr

/-- The entries that take room in the key tables: those in use, and unused ones that a lane is parked on (R172, R288). -/
def State.tableKeys (s : State) : List KeyEnt :=
  let parked := s.warps.flatMap fun w => (w.husk.filter fun e => e.parked && e.undone != 0).flatMap fun e => match e.instr with
    | .osenter _ cl _ _ => e.heads.map fun i => { s.keyEnt (w.keyId cl (lane64 e.addr i)) with lid := w.ident.lid }
    | _ => []
  s.mem.keys ++ parked.foldl (fun l k => if (s.mem.keys ++ l).any (·.is ⟨k.ctx, k.cluster, k.key⟩) then l else l ++ [k]) []

/-- Every record of kinds 4 to 7 in arrival order. -/
def State.bounded (s : State) : List BoundRec :=
  s.mem.defer.map (fun d => ⟨4, d.cluster, 64, d.lid, some d.record⟩)
  ++ s.mem.chaff.map (fun c =>
      let p := s.chaffInst c.place
      ⟨5, p.1, p.2, warpLid s c.vw, some c.record⟩)
  ++ s.tableKeys.map (fun k => match k.cluster with
      | some c => ⟨6, c, 1024, k.lid, none⟩
      | none => ⟨6, homeInst (keyHome k.key), 4096, k.lid, none⟩)
  ++ (s.mem.race.filter fun r => match r.loc with | .sys _ => false | _ => true).map (fun r =>
      let p := s.locPlace r.loc
      let lid := match r.party with | .warp v | .xfer v _ => warpLid s v | .remote .. => 0
      ⟨7, p, if instClass p = 1 then 65536 else 8192, lid, none⟩)

/-- The records beyond their structures' capacity; those that their structure does not hold at all take no room of it (R407). -/
def overRecs (l : List BoundRec) : List BoundRec :=
  (l.foldl (fun (acc : List ((Nat × Nat) × Nat) × List BoundRec) r =>
    let n := ((acc.1.find? (·.1 == (r.kind, r.inst))).map (·.2)).getD 0
    (if r.cap = 0 then acc.1 else upsert (·.1 == (r.kind, r.inst)) ((r.kind, r.inst), n + 1) acc.1, if r.cap ≤ n then acc.2 ++ [r] else acc.2)) ([], [])).2

/-- The records among those of one structure instance and launch. -/
def recsOf (l : List BoundRec) (lid kind inst : Nat) : List BoundRec := l.filter fun r => r.lid == lid && r.kind == kind && r.inst == inst

/-- Spill one record, with free bytes where the manual does not give them. -/
def State.spillOver (s : State) (r : BoundRec) : Option State :=
  match r.bytes with
  | some b => s.spillRec r.lid r.kind r.inst b
  | none => let (b, s) := s.freeBytes (recBytes r.kind / 8); s.spillRec r.lid r.kind r.inst b

/-- Pages that the structures of kinds 4 to 7 need and do not have yet are taken; the launches whose spill breaches its quota, with
kind and instance. -/
def State.spillBounded (s : State) : State × List (Nat × Nat × Nat) :=
  if s.mem.defer.length ≤ 64 && s.mem.chaff.isEmpty && s.tableKeys.length ≤ 1024 && s.mem.race.length ≤ 8192 then (s, [])
  else
    let l := overRecs s.bounded
    (l.map fun r => (r.lid, r.kind, r.inst)).eraseDups.foldl (fun (s, bad) (lid, k, i) =>
      let mine := recsOf l lid k i
      let have_ := ((s.launch lid).map (·.spilled k i)).getD mine.length
      (mine.drop have_).foldl (fun (s, bad) r =>
        if bad.contains (lid, k, i) then (s, bad)
        else match s.spillOver r with
          | some s => (s, bad)
          | none => (s, bad ++ [(lid, k, i)])) (s, bad)) (s, [])

/-- Records of an instance of kinds 4 to 7 that must stay spilled for a launch. -/
def State.mustStay (s : State) (lid kind inst : Nat) : Nat := (recsOf (overRecs s.bounded) lid kind inst).length

/-- A breach that no single instruction causes freezes the launch and is reported (R363, R481): its descriptor names the page that failed; with no
page left, the address is a free value (log entry 10). -/
def State.breach (s : State) (lid kind inst : Nat) : State :=
  match s.launch lid with
  | none => s
  | some l =>
    if l.held then s
    else
      let (a, s) := s.drawWord
      let a := ((s.failedPage l kind inst).map fun k => BitVec.ofNat 64 (l.r.spill + 4096 * k)).getD a
      let s := s.event (s.evOf 0x03 lid [] [faultDesc 0x20 2 l.ctx 0 0 0 a (s.auxQuota l kind inst)])
      ((s.freezeLaunch lid .quota).modLaunch lid fun l => { l with held := true }).post (.note 1 lid)

/-- A tiller of an RTRACE that its ray engine has traced is written (R333): none is a breach. -/
def State.tillerWrite (s : State) (lid : Nat) (x : OwedTiller) : Option State :=
  (s.tillerIn x.die lid x.tiller).map fun s => match s.warp x.vw with
    | some w => match w.entry x.seq with
      | some e => ((s.commitSheaf w.ident.sid).chaffed w e 5 (maskOf (· == x.lane)) 0 (.winnower x.die) []).modWarp x.vw
          (·.modEntry x.seq fun e => { e with pend := e.pend &&& ~~~(maskOf (· == x.lane)) })
      | none => s
    | none => s

/-- RESUME retries what breached before any sheaf resumes (R481). -/
def State.retryOwed (s : State) (lid : Nat) : State :=
  match s.launch lid with
  | none => s
  | some l => l.owed.foldl (fun s x =>
      if (s.launch lid).any (·.held) then s
      else match s.tillerWrite lid x with
        | some s => s.modLaunch lid fun l => { l with owed := l.owed.filter (· != x) }
        | none => s.breach lid 2 x.die) s

end Sys2Proof.Machine
end

