-- ==== Sys2Proof/Machine/Float.lean ====
section
/-! DEFINITION. Floating-point arithmetic on exact dyadic numbers with one rounding (R71, R77 to R85): formats, rounding
and flags, the IEEE operations, conversions, and the special functions. -/

namespace Sys2Proof.Machine

/-! ## Formats (Table 3.1) -/

/-- A format: fraction bits, exponent bits, bias, and whether it has infinities (E4M3 has none). -/
structure FFmt where
  frac : Nat
  ebits : Nat
  bias : Nat
  ieee : Bool
  deriving DecidableEq, Repr

def F64 : FFmt := ⟨52, 11, 1023, true⟩
def F32 : FFmt := ⟨23, 8, 127, true⟩
def F16 : FFmt := ⟨10, 5, 15, true⟩
def BF16 : FFmt := ⟨7, 8, 127, true⟩
def E4M3 : FFmt := ⟨3, 4, 7, false⟩
def E5M2 : FFmt := ⟨2, 5, 15, true⟩

/-- A value: a NaN, signalling or quiet; an infinity; or ± m × 2^e. -/
inductive FV
  | nan (sig : Bool)
  | inf (neg : Bool)
  | fin (neg : Bool) (m : Nat) (e : Int)
  deriving DecidableEq, Repr

/-- Rounding modes (Table 3.4). -/
inductive RM
  | ne | tz | dn | up
  deriving DecidableEq, Repr

/-- Mode of an `FMODE.RM` field. -/
def RM.of (x : Nat) : RM := if x % 4 = 0 then .ne else if x % 4 = 1 then .tz else if x % 4 = 2 then .dn else .up

namespace FFmt

def width (f : FFmt) : Nat := 1 + f.ebits + f.frac
def emax (f : FFmt) : Nat := 2 ^ f.ebits - 1
/-- Exponent of the smallest subnormal. -/
def qmin (f : FFmt) : Int := 1 - (f.bias : Int) - f.frac
/-- First magnitude pattern that is not a finite number. -/
def top (f : FFmt) : Nat := if f.ieee then f.emax * 2 ^ f.frac else 2 ^ (f.ebits + f.frac) - 1
def signBit (f : FFmt) (neg : Bool) : Nat := if neg then 2 ^ (f.ebits + f.frac) else 0

/-- Canonical NaN (Table 3.6). -/
def nan (f : FFmt) : Nat := if f.ieee then f.emax * 2 ^ f.frac + 2 ^ (f.frac - 1) else 2 ^ (f.ebits + f.frac) - 1

/-- The value of a bit pattern. -/
def value (f : FFmt) (x : Nat) : FV :=
  let neg := x.testBit (f.ebits + f.frac)
  let mag := x % 2 ^ (f.ebits + f.frac)
  let m := mag % 2 ^ f.frac
  let e := mag / 2 ^ f.frac
  if f.ieee && e == f.emax then
    if m = 0 then .inf neg else .nan (!m.testBit (f.frac - 1))
  else if !f.ieee && mag == f.nan then .nan false
  else if e = 0 then .fin neg m f.qmin
  else .fin neg (2 ^ f.frac + m) (f.qmin + e - 1)

end FFmt

/-! ## Rounding (R77, R80, R83) -/

/-- m × 2^e as a whole number of quanta 2^q, with the remainder compared to a half: the quotient, whether anything is left,
and whether more than, or exactly, a half is left. -/
def quanta (m : Nat) (e q : Int) : Nat × Bool × Bool × Bool :=
  if q ≤ e then (m * 2 ^ (e - q).toNat, false, false, false)
  else
    let sh := min (q - e).toNat (m.log2 + 3)
    let d := 2 ^ sh
    let r := m % d
    (m / d, r != 0, decide (d < 2 * r), 2 * r == d)

/-- Whether a quotient is rounded away from zero. -/
def roundsUp (rm : RM) (neg : Bool) (n : Nat) (any more tie : Bool) : Bool :=
  match rm with
  | .ne => more || (tie && n % 2 == 1)
  | .tz => false
  | .dn => any && neg
  | .up => any && !neg

/-- ± m × 2^e rounded to a multiple of 2^q: the multiple, and whether that is inexact. -/
def roundTo (rm : RM) (neg : Bool) (m : Nat) (e q : Int) : Nat × Bool :=
  let (n, any, more, tie) := quanta m e q
  (if roundsUp rm neg n any more tie then n + 1 else n, any)

/-- ± m × 2^e (m not 0) rounded into a format: bit pattern and flags. -/
def FFmt.round (f : FFmt) (rm : RM) (neg : Bool) (m : Nat) (e : Int) : Nat × FlagSet :=
  if m = 0 then (f.signBit neg, 0)
  else
    let top : Int := e + m.log2
    let q := max (top - f.frac) f.qmin
    let (n, inexact) := roundTo rm neg m e q
    let bits := (q - f.qmin).toNat * 2 ^ f.frac + n
    if f.top ≤ bits then
      let big := match rm with
        | .ne => true
        | .tz => false
        | .dn => neg
        | .up => !neg
      (f.signBit neg + (if f.ieee && big then f.emax * 2 ^ f.frac else f.top - 1), fOF ||| fNX)
    else
      let tiny := decide (top < f.qmin + f.frac) && decide ((roundTo rm neg m e (top - f.frac)).1 < 2 ^ (f.frac + 1) ∨ top + 1 < f.qmin + f.frac)
      (f.signBit neg + bits, flagIf inexact fNX ||| flagIf (inexact && tiny) fUF)

/-- A number slightly larger in magnitude than m × 2^e, whose further bits are not known to matter: a bit below the last. -/
def sticky (m : Nat) : Nat := 4 * m + 1

/-- A value into a format: NaNs become canonical, with NV for a signalling one (R81). -/
def FFmt.put (f : FFmt) (rm : RM) : FV → Nat × FlagSet
  | .nan sig => (f.nan, flagIf sig fNV)
  | .inf neg => if f.ieee then (f.signBit neg + f.emax * 2 ^ f.frac, 0) else (f.signBit neg + f.top - 1, fNV)
  | .fin neg m e => f.round rm neg m e

/-! ## Operations on values: the exact result, and NV where the operation is invalid -/

def FV.isNan : FV → Bool
  | .nan _ => true
  | _ => false
def FV.isSig : FV → Bool
  | .nan sig => sig
  | _ => false
def FV.neg? : FV → Bool
  | .nan _ => false
  | .inf n => n
  | .fin n _ _ => n
def FV.isZero : FV → Bool
  | .fin _ m _ => m == 0
  | _ => false
def FV.negate : FV → FV
  | .nan s => .nan s
  | .inf n => .inf !n
  | .fin n m e => .fin (!n) m e

/-- Signed magnitude scaled to an exponent not above the number's own. -/
def scaled (neg : Bool) (m : Nat) (e q : Int) : Int :=
  let x : Int := m * 2 ^ (e - q).toNat
  if neg then -x else x

/-- The exact sum of two finite numbers; an exact zero sum of unlike signs is +0, or −0 under RDN. -/
def addFin (rm : RM) (n1 : Bool) (m1 : Nat) (e1 : Int) (n2 : Bool) (m2 : Nat) (e2 : Int) : FV :=
  if m1 = 0 ∧ m2 = 0 then .fin (if n1 = n2 then n1 else rm == .dn) 0 0
  else if m1 = 0 then .fin n2 m2 e2
  else if m2 = 0 then .fin n1 m1 e1
  else
    let q := min e1 e2
    let x := scaled n1 m1 e1 q + scaled n2 m2 e2 q
    if x = 0 then .fin (rm == .dn) 0 0 else .fin (decide (x < 0)) x.natAbs q

/-- A result: a value to round, and NV. -/
abbrev FRes := FV × FlagSet

/-- Any NaN operand gives a NaN; NV when one is signalling (R81). -/
def nanOf (l : List FV) : FRes := (.nan false, flagIf (l.any FV.isSig) fNV)

def invalid : FRes := (.nan false, fNV)

def FV.add (rm : RM) (a b : FV) : FRes :=
  if a.isNan || b.isNan then nanOf [a, b]
  else match a, b with
  | .inf x, .inf y => if x = y then (.inf x, 0) else invalid
  | .inf x, _ => (.inf x, 0)
  | _, .inf y => (.inf y, 0)
  | .fin n1 m1 e1, .fin n2 m2 e2 => (addFin rm n1 m1 e1 n2 m2 e2, 0)
  | _, _ => nanOf [a, b]

def FV.mul (a b : FV) : FRes :=
  if a.isNan || b.isNan then nanOf [a, b]
  else
    let n := a.neg? != b.neg?
    match a, b with
    | .fin _ m1 e1, .fin _ m2 e2 => (.fin n (m1 * m2) (e1 + e2), 0)
    | _, _ => if a.isZero || b.isZero then invalid else (.inf n, 0)

/-- a × b + c, not rounded between; 0 × ∞ is invalid even with a NaN c (R80). -/
def FV.fma (rm : RM) (a b c : FV) : FRes :=
  if !a.isNan && !b.isNan && (match a, b with
      | .inf _, y => y.isZero
      | x, .inf _ => x.isZero
      | _, _ => false) then invalid
  else if a.isNan || b.isNan || c.isNan then nanOf [a, b, c]
  else (FV.mul a b).1.add rm c

/-- a / b, with at least `k` significant bits of the quotient. -/
def FV.div (k : Nat) (a b : FV) : FRes :=
  if a.isNan || b.isNan then nanOf [a, b]
  else
    let n := a.neg? != b.neg?
    match a, b with
    | .inf _, .inf _ => invalid
    | .inf _, _ => (.inf n, 0)
    | _, .inf _ => (.fin n 0 0, 0)
    | .fin _ m1 e1, .fin _ m2 e2 =>
      if m2 = 0 then (if m1 = 0 then invalid else (.inf n, fDZ))
      else if m1 = 0 then (.fin n 0 0, 0)
      else
        let sh := k + m2.log2 + 2
        let x := m1 * 2 ^ sh
        let q := x / m2
        if x % m2 = 0 then (.fin n q (e1 - e2 - sh), 0) else (.fin n (sticky q) (e1 - e2 - sh - 2), 0)
    | _, _ => nanOf [a, b]

/-- Integer square root, bit by bit from the top. -/
def isqrtFrom (n : Nat) : Nat → Nat → Nat
  | 0, r => r
  | b + 1, r =>
    let t := r + 2 ^ b
    isqrtFrom n b (if t * t ≤ n then t else r)
def isqrt (n : Nat) : Nat := isqrtFrom n (n.log2 / 2 + 1) 0

/-- √a with at least `k` significant bits. -/
def FV.sqrt (k : Nat) (a : FV) : FRes :=
  match a with
  | .nan s => nanOf [.nan s]
  | .inf neg => if neg then invalid else (.inf false, 0)
  | .fin neg m e =>
    if m = 0 then (.fin neg 0 0, 0)
    else if neg then invalid
    else
      let sh := 2 * k + (if (e % 2) = 0 then 0 else 1)
      let x := m * 2 ^ sh
      let r := isqrt x
      let e' := (e - sh) / 2
      if r * r = x then (.fin false r e', 0) else (.fin false (sticky r) (e' - 2), 0)

/-- Order of two finite or infinite values: −1, 0 or 1. -/
def FV.cmp (a b : FV) : Int :=
  match a, b with
  | .inf x, .inf y => if x = y then 0 else if x then -1 else 1
  | .inf x, _ => if x then -1 else 1
  | _, .inf y => if y then 1 else -1
  | .fin n1 m1 e1, .fin n2 m2 e2 =>
    let q := min e1 e2
    (scaled n1 m1 e1 q - scaled n2 m2 e2 q).sign
  | _, _ => 0

/-- minimumNumber and maximumNumber (R82): −0 orders below +0. -/
def FV.pick (mx : Bool) (a b : FV) : FRes :=
  let f := flagIf (a.isSig || b.isSig) fNV
  if a.isNan && b.isNan then (.nan false, f)
  else if a.isNan then (b, f)
  else if b.isNan then (a, f)
  else
    let c := a.cmp b
    let less := decide (c < 0) || (c == 0 && a.neg? && !b.neg?)
    (if less != mx then a else b, f)

/-- Round a result into a format. -/
def FFmt.fin (f : FFmt) (rm : RM) (r : FRes) : Nat × FlagSet :=
  let (x, fl) := f.put rm r.1
  (x, fl ||| r.2)

/-! ## Integral values and integers (R84, R237) -/

/-- A value rounded to an integral one, and whether that changed it. -/
def FV.integral (rm : RM) (a : FV) : FV × Bool :=
  match a with
  | .fin neg m e => if m = 0 then (a, false) else
    let (n, ix) := roundTo rm neg m e 0
    (.fin neg n 0, ix)
  | _ => (a, false)

/-- a − trunc(a), with the sign of a. -/
def FV.fraction (a : FV) : FRes :=
  match a with
  | .nan s => nanOf [.nan s]
  | .inf _ => invalid
  | .fin neg m e =>
    if 0 ≤ e then (.fin neg 0 0, 0) else (.fin neg (m % 2 ^ (min (-e).toNat (m.log2 + 1))) e, 0)

/-- Conversion to a `w`-bit integer (R84). -/
def FV.toInt (rm : RM) (sgn : Bool) (w : Nat) (a : FV) : Int × FlagSet :=
  match a with
  | .nan _ => (0, fNV)
  | .inf neg => (if neg then loOf sgn w else hiOf sgn w, fNV)
  | .fin neg m e =>
    let (n, ix) := if 64 < e + m.log2 then (2 ^ 65, false) else roundTo rm neg m e 0
    let x : Int := if neg then -(n : Int) else n
    if x < loOf sgn w then (loOf sgn w, fNV)
    else if hiOf sgn w < x then (hiOf sgn w, fNV)
    else (x, flagIf ix fNX)

/-- An integer as a value. -/
def FV.ofInt (x : Int) : FV := .fin (decide (x < 0)) x.natAbs 0

/-- a × 2^n (R237); n beyond ±4400 acts as ±4400, past every format's range. -/
def FV.scale (a : FV) (n : Int) : FRes :=
  match a with
  | .nan s => nanOf [.nan s]
  | .inf neg => (.inf neg, 0)
  | .fin neg m e => (.fin neg m (e + max (-4400) (min 4400 n)), 0)

/-- Class mask of VFCLASS (R236). -/
def FV.classOf (f : FFmt) (a : FV) : Word32 :=
  let pick (neg : Bool) (n p : Nat) : Word32 := BitVec.ofNat 32 (2 ^ if neg then n else p)
  match a with
  | .nan sig => if sig then 0x100 else 0x200
  | .inf neg => pick neg 0 7
  | .fin neg m _ => if m = 0 then pick neg 3 4 else if m < 2 ^ f.frac then pick neg 2 5 else pick neg 1 6

/-! ## Special functions (R85, Table 3.8), in fixed point with 400 fraction bits -/

def fxBits : Nat := 400
def fxOne : Nat := 2 ^ fxBits
/-- ln 2 and π, rounded down to 400 fraction bits. -/
def fxLn2 : Nat :=
  0xb17217f7d1cf79abc9e3b39803f2f6af40f343267298b62d8a0d175b8baafa2be7b876206debac98559552fb4afa1b10ed2e
def fxPi : Nat :=
  0x3243f6a8885a308d313198a2e03707344a4093822299f31d0082efa98ec4e6c89452821e638d01377be5466cf34e90c6cc0ac

/-- Σ y^k / k! from term `t` number `k`. -/
def expSeries (y : Nat) : Nat → Nat → Nat → Nat → Nat
  | 0, _, _, acc => acc
  | n + 1, k, t, acc => expSeries y n (k + 1) (t * y / fxOne / k) (acc + t)

/-- e^y for y in [0, 1). -/
def fxExp (y : Nat) : Nat := expSeries y 96 1 fxOne 0

/-- Terms of sine: y2 = y². -/
def sinSeries (y2 : Nat) : Nat → Nat → Nat → Int → Int
  | 0, _, _, acc => acc
  | n + 1, k, t, acc =>
    sinSeries y2 n (k + 2) (t * y2 / fxOne / (k * (k + 1))) (if k % 4 = 2 then acc + t else acc - t)

/-- sin y for y in [0, π/2]. -/
def fxSin (y : Nat) : Nat := (sinSeries (y * y / fxOne) 60 2 y 0).toNat

/-- Terms of the inverse hyperbolic tangent: z2 = z². -/
def athSeries (z2 : Nat) : Nat → Nat → Nat → Nat → Nat
  | 0, _, _, acc => acc
  | n + 1, k, t, acc => athSeries z2 n (k + 2) (t * z2 / fxOne) (acc + t / k)

/-- A dyadic number m × 2^e, e ≥ −400 after scaling, in fixed point. -/
def fxOf (m : Nat) (e : Int) : Nat := (m : Nat) * 2 ^ (e + fxBits).toNat / 2 ^ (-(e + fxBits)).toNat

/-- A fixed-point result that is not exact, rounded into binary32; its last 24 bits carry the error of the series. -/
def fxPut (rm : RM) (neg : Bool) (x : Nat) (e : Int) : Nat × FlagSet :=
  F32.round rm neg (sticky (x / 2 ^ 24)) (e - fxBits + 24 - 2)

/-- 2^x. -/
def exp2Of (rm : RM) (a : FV) : Nat × FlagSet :=
  match a with
  | .nan s => F32.put rm (.nan s)
  | .inf neg => F32.put rm (if neg then .fin false 0 0 else .inf false)
  | .fin neg m e =>
    if m = 0 then F32.round rm false 1 0
    else if 9 ≤ e + m.log2 then F32.round rm false 1 (if neg then -2000 else 2000)
    else if 0 ≤ e then
      let n : Int := m * 2 ^ e.toNat
      F32.round rm false 1 (if neg then -n else n)
    else
      let d := 2 ^ (-e).toNat
      let i : Int := if neg then -((m / d : Nat) : Int) - (if m % d = 0 then 0 else 1) else (m / d : Nat)
      let r := if neg then (d - m % d) % d else m % d
      if r = 0 then F32.round rm false 1 i
      else fxPut rm false (fxExp (fxOf r e * fxLn2 / fxOne)) i

/-- log2 x. -/
def log2Of (rm : RM) (a : FV) : Nat × FlagSet :=
  match a with
  | .nan s => F32.put rm (.nan s)
  | .inf neg => if neg then (F32.nan, fNV) else F32.put rm (.inf false)
  | .fin neg m e =>
    if m = 0 then ((F32.put rm (.inf true)).1, fDZ)
    else if neg then (F32.nan, fNV)
    else
      let k := m.log2
      if m = 2 ^ k then F32.put rm (FV.ofInt (e + k))
      else
        -- x = 2^(e+k') y with y in (0.7, 1.5)
        let up := decide (3 * 2 ^ k ≤ 2 * m)
        let k' : Int := if up then k + 1 else k
        let one : Int := 2 ^ (if up then k + 1 else k)
        let num := (m : Int) - one
        let z := num.natAbs * fxOne / (m + one.toNat)
        let ln := 2 * athSeries (z * z / fxOne) 160 1 z 0
        let lg : Int := (if num < 0 then -1 else 1) * ((ln * fxOne / fxLn2 : Nat) : Int)
        let x : Int := (e + k') * fxOne + lg
        fxPut rm (decide (x < 0)) x.natAbs 0

/-- sin(π (m × 2^e)) for e < 0: result as sign and fixed point; the argument is reduced exactly. -/
def sinPiFx (m : Nat) (e : Int) : Bool × Nat × Bool :=
  let d := 2 ^ (-e).toNat
  let r := m % (2 * d)
  let neg := decide (d ≤ r)
  let r1 := if neg then r - d else r
  let r2 := if d < 2 * r1 then d - r1 else r1
  (neg, fxSin (fxOf r2 e * fxPi / fxOne), 2 * r2 == d)

/-- sin(πx). -/
def sinPiOf (rm : RM) (a : FV) : Nat × FlagSet :=
  match a with
  | .nan s => F32.put rm (.nan s)
  | .inf _ => (F32.nan, fNV)
  | .fin neg m e =>
    if m = 0 ∨ 0 ≤ e ∨ m % 2 ^ (-e).toNat = 0 then F32.round rm neg 0 0
    else
      let (n, x, one) := sinPiFx m e
      if one then F32.round rm (neg != n) 1 0 else fxPut rm (neg != n) x 0

/-- cos(πx), as the sine of π(x + 1/2). -/
def cosPiOf (rm : RM) (a : FV) : Nat × FlagSet :=
  match a with
  | .nan s => F32.put rm (.nan s)
  | .inf _ => (F32.nan, fNV)
  | .fin _ m e =>
    if 0 ≤ e then F32.round rm (m * 2 ^ e.toNat % 2 == 1) 1 0
    else
      let e1 := min e (-1)
      let m1 := m * 2 ^ (e - e1).toNat + 2 ^ (-e1 - 1).toNat
      if m1 % 2 ^ (-e1).toNat = 0 then F32.round rm false 0 0
      else
        let (n, x, one) := sinPiFx m1 e1
        if one then F32.round rm n 1 0 else fxPut rm n x 0

/-- 1/x. -/
def rcpOf (rm : RM) (a : FV) : Nat × FlagSet := F32.fin rm (FV.div 30 (.fin false 1 0) a)

/-- 1/√x: of a dyadic x, as √(1/x) with the quotient taken to enough bits. -/
def rsqOf (rm : RM) (a : FV) : Nat × FlagSet :=
  match a with
  | .nan s => F32.put rm (.nan s)
  | .inf neg => if neg then (F32.nan, fNV) else F32.round rm false 0 0
  | .fin neg m e =>
    if m = 0 then (F32.signBit neg + F32.emax * 2 ^ F32.frac, fDZ)
    else if neg then (F32.nan, fNV)
    else
      let odd := decide (e % 2 ≠ 0)
      let m := if odd then 2 * m else m
      let e := if odd then e - 1 else e
      let sh : Nat := 160
      let x := 2 ^ (2 * sh) / m
      let r := isqrt x
      if r * r * m = 2 ^ (2 * sh) then F32.round rm false r (-(e / 2) - sh)
      else F32.round rm false (sticky r) (-(e / 2) - sh - 2)

end Sys2Proof.Machine
end

