-- ==== Sys2Proof/Machine/Vfp.lean ====
section
/-! DEFINITION. Vector floating-point instructions and special functions, 0x60 to 0x6C and 0x70 to 0x79 (R234 to R240). -/

namespace Sys2Proof.Machine

/-- The dynamic rounding mode (R77). -/
def Warp.rm (w : Warp) : RM := RM.of (fld w.spr.fmode 1 0)

/-- Format of a floating-point type. -/
def fmtOf : FTy → FFmt
  | .f32 => F32
  | .f64 => F64
  | .h2 => F16
  | .bf2 => BF16
def dblFmt (dbl : Bool) : FFmt := if dbl then F64 else F32

/-- An operation on values of a format: the bits of its result and its flags. -/
abbrev FOp := FFmt → RM → List FV → Nat × FlagSet

/-- Apply an operation to a lane of 32-bit registers: one element, or two of 16 bits. -/
def fLane (t : FTy) (rm : RM) (op : FOp) (l : List Word32) : Word32 × FlagSet :=
  let f := fmtOf t
  if f.width = 16 then
    let lo := op f rm (l.map fun x => f.value (x.toNat % 2 ^ 16))
    let hi := op f rm (l.map fun x => f.value (x.toNat / 2 ^ 16))
    (BitVec.ofNat 32 (lo.1 + hi.1 * 2 ^ 16), lo.2 ||| hi.2)
  else
    let r := op f rm (l.map fun x => f.value x.toNat)
    (BitVec.ofNat 32 r.1, r.2)

/-- Apply an operation to a lane of binary64 pairs. -/
def dLane (rm : RM) (op : FOp) (l : List Word64) : Word64 × FlagSet :=
  let r := op F64 rm (l.map fun x => F64.value x.toNat)
  (BitVec.ofNat 64 r.1, r.2)

/-- A per-lane floating-point instruction of any type. -/
def State.fop (s : State) (i : Instr) (g : Guard) (t : FTy) (d : R8) (src : List R8) (op : FOp) :
    Host.Outcome State Fault Refusal :=
  let sl := src.map fun r => (⟨r, t.regs, fTags t⟩ : Src)
  if t = .f64 then s.vop2 i g sl d 4 fun w j => dLane w.rm op (src.map fun r => w.ln64 r j)
  else s.vopF i g sl d (fTag t) fun w j => fLane t w.rm op (src.map fun r => w.ln r j)

/-- The type of a binary32 or binary64 instruction. -/
def dblTy (dbl : Bool) : FTy := if dbl then .f64 else .f32

/-- Operand k of an operation. -/
def arg (l : List FV) (k : Nat) : FV := l.getD k (.nan false)

def addOp : FOp := fun f rm l => f.fin rm ((arg l 0).add rm (arg l 1))
def subOp : FOp := fun f rm l => f.fin rm ((arg l 0).add rm (arg l 1).negate)
def mulOp : FOp := fun f rm l => f.fin rm ((arg l 0).mul (arg l 1))
def fmaOp : FOp := fun f rm l => f.fin rm (FV.fma rm (arg l 0) (arg l 1) (arg l 2))
def minOp : FOp := fun f rm l => f.fin rm ((arg l 0).pick false (arg l 1))
def maxOp : FOp := fun f rm l => f.fin rm ((arg l 0).pick true (arg l 1))
def divOp : FOp := fun f rm l => f.fin rm (FV.div (f.frac + 4) (arg l 0) (arg l 1))
def sqrtOp : FOp := fun f rm l => f.fin rm (FV.sqrt (f.frac + 4) (arg l 0))
def fracOp : FOp := fun f rm l => f.fin rm (arg l 0).fraction

/-- VFADD (Table 7.6). -/
def execVfadd (g : Guard) (t : FTy) (d a b : R8) (s : State) : Host.Outcome State Fault Refusal :=
  s.fop (.vfadd g t d a b) g t d [a, b] addOp

/-- VFSUB (Table 7.6). -/
def execVfsub (g : Guard) (t : FTy) (d a b : R8) (s : State) : Host.Outcome State Fault Refusal :=
  s.fop (.vfsub g t d a b) g t d [a, b] subOp

/-- VFMUL (Table 7.6). -/
def execVfmul (g : Guard) (t : FTy) (d a b : R8) (s : State) : Host.Outcome State Fault Refusal :=
  s.fop (.vfmul g t d a b) g t d [a, b] mulOp

/-- VFMA (Table 7.6, R94). -/
def execVfma (g : Guard) (t : FTy) (d a b c : R8) (s : State) : Host.Outcome State Fault Refusal :=
  s.fop (.vfma g t d a b c) g t d [a, b, c] fmaOp

/-- VFMIN (R82). -/
def execVfmin (g : Guard) (t : FTy) (d a b : R8) (s : State) : Host.Outcome State Fault Refusal :=
  s.fop (.vfmin g t d a b) g t d [a, b] minOp

/-- VFMAX (R82). -/
def execVfmax (g : Guard) (t : FTy) (d a b : R8) (s : State) : Host.Outcome State Fault Refusal :=
  s.fop (.vfmax g t d a b) g t d [a, b] maxOp

/-- The conditions of VFCMP with their NV (Table 7.7). -/
def fcmpHolds (cc : FCond) (a b : FV) : Bool × FlagSet :=
  let un := a.isNan || b.isNan
  let sg := flagIf (a.isSig || b.isSig) fNV
  let any := flagIf un fNV
  let c := a.cmp b
  match cc with
  | .eq => (!un && c == 0, sg)
  | .ne => (un || c != 0, sg)
  | .lt => (!un && decide (c < 0), any)
  | .le => (!un && decide (c ≤ 0), any)
  | .gt => (!un && decide (0 < c), any)
  | .ge => (!un && decide (0 ≤ c), any)
  | .un => (un, sg)
  | .or => (!un, sg)

/-- Value of a lane of a binary32 register or binary64 pair. -/
def Warp.fval (w : Warp) (dbl : Bool) (r : R8) (j : Nat) : FV :=
  if dbl then F64.value (w.ln64 r j).toNat else F32.value (w.ln r j).toNat

/-- VFCMP (R235). -/
def execVfcmp (g : Guard) (cc : FCond) (dbl : Bool) (d a b : R8) (s : State) : Host.Outcome State Fault Refusal :=
  s.pop (.vfcmp g cc dbl d a b) g [⟨a, dblRegs dbl, dblTags dbl⟩, ⟨b, dblRegs dbl, dblTags dbl⟩] d.toNat fun w j =>
    fcmpHolds cc (w.fval dbl a j) (w.fval dbl b j)

/-- VFCLASS (R236). -/
def execVfclass (g : Guard) (dbl : Bool) (d a : R8) (s : State) : Host.Outcome State Fault Refusal :=
  s.vop (.vfclass g dbl d a) g [⟨a, dblRegs dbl, dblTags dbl⟩] d 2 fun w j => (w.fval dbl a j).classOf (dblFmt dbl)

/-- The rounding that a rounding field selects (R237). -/
def rndMode (rm : RM) : Rnd → RM
  | .dyn => rm
  | .rne => .ne
  | .rtz => .tz
  | .rdn => .dn
  | .rup => .up

/-- Rounding to an integral value; NX only in the `.x` forms (R237). -/
def rndOp (m : Rnd) (x : Bool) : FOp := fun f rm l =>
  let r := rndMode rm m
  let (v, ix) := (arg l 0).integral r
  let (y, fl) := f.put r v
  (y, fl ||| flagIf (x && ix) fNX)

/-- VFRND (R237). -/
def execVfrnd (g : Guard) (dbl : Bool) (m : Rnd) (x : Bool) (d a : R8) (s : State) : Host.Outcome State Fault Refusal :=
  s.fop (.vfrnd g dbl m x d a) g (dblTy dbl) d [a] (rndOp m x)

/-- VFSCALE (R237). -/
def execVfscale (g : Guard) (dbl : Bool) (d a b : R8) (s : State) : Host.Outcome State Fault Refusal :=
  let src : List Src := [⟨a, dblRegs dbl, dblTags dbl⟩, ⟨b, 1, tInt⟩]
  let op (n : Word32) : FOp := fun f rm l => f.fin rm ((arg l 0).scale n.toInt)
  if dbl then s.vop2 (.vfscale g dbl d a b) g src d 4 fun w j => dLane w.rm (op (w.ln b j)) [w.ln64 a j]
  else s.vopF (.vfscale g dbl d a b) g src d 3 fun w j => fLane .f32 w.rm (op (w.ln b j)) [w.ln a j]

/-- VFFRAC (R237). -/
def execVffrac (g : Guard) (dbl : Bool) (d a : R8) (s : State) : Host.Outcome State Fault Refusal :=
  s.fop (.vffrac g dbl d a) g (dblTy dbl) d [a] fracOp

/-- A long-latency floating-point instruction (R213). -/
def State.fpipe (s : State) (i : Instr) (g : Guard) (la : BitVec 4) (dbl : Bool) (d : R8) (src : List R8) (op : FOp) :
    Host.Outcome State Fault Refusal :=
  s.pipeOp i g la (src.map fun r => (⟨r, dblRegs dbl, dblTags dbl⟩ : Src)) fun _ w P =>
    if dbl then
      let r (j : Nat) := dLane w.rm op (src.map fun x => w.ln64 x j)
      (wbV2 d P 4 fun j => (r j).1, laneFlags P fun j => (r j).2)
    else
      let r (j : Nat) := fLane .f32 w.rm op (src.map fun x => w.ln x j)
      ([wbV d P 3 fun j => (r j).1], laneFlags P fun j => (r j).2)

/-- VFDIVS (R238). -/
def execVfdivs (g : Guard) (la : BitVec 4) (dbl : Bool) (d a b : R8) (s : State) : Host.Outcome State Fault Refusal :=
  s.fpipe (.vfdivs g la dbl d a b) g la dbl d [a, b] divOp

/-- VFSQRTS (R238). -/
def execVfsqrts (g : Guard) (la : BitVec 4) (dbl : Bool) (d a : R8) (s : State) : Host.Outcome State Fault Refusal :=
  s.fpipe (.vfsqrts g la dbl d a) g la dbl d [a] sqrtOp

/-- VFRCP (R85, R239). -/
def execVfrcp (g : Guard) (la : BitVec 4) (d a : R8) (s : State) : Host.Outcome State Fault Refusal :=
  s.fpipe (.vfrcp g la d a) g la false d [a] fun _ rm l => rcpOf rm (arg l 0)

/-- VFRSQ (R85, R239). -/
def execVfrsq (g : Guard) (la : BitVec 4) (d a : R8) (s : State) : Host.Outcome State Fault Refusal :=
  s.fpipe (.vfrsq g la d a) g la false d [a] fun _ rm l => rsqOf rm (arg l 0)

/-- VFEXP2 (R85, R239). -/
def execVfexp2 (g : Guard) (la : BitVec 4) (d a : R8) (s : State) : Host.Outcome State Fault Refusal :=
  s.fpipe (.vfexp2 g la d a) g la false d [a] fun _ rm l => exp2Of rm (arg l 0)

/-- VFLOG2 (R85, R239). -/
def execVflog2 (g : Guard) (la : BitVec 4) (d a : R8) (s : State) : Host.Outcome State Fault Refusal :=
  s.fpipe (.vflog2 g la d a) g la false d [a] fun _ rm l => log2Of rm (arg l 0)

/-- VFSINP (R85, R239). -/
def execVfsinp (g : Guard) (la : BitVec 4) (d a : R8) (s : State) : Host.Outcome State Fault Refusal :=
  s.fpipe (.vfsinp g la d a) g la false d [a] fun _ rm l => sinPiOf rm (arg l 0)

/-- VFCOSP (R85, R239). -/
def execVfcosp (g : Guard) (la : BitVec 4) (d a : R8) (s : State) : Host.Outcome State Fault Refusal :=
  s.fpipe (.vfcosp g la d a) g la false d [a] fun _ rm l => cosPiOf rm (arg l 0)

/-- One binary32 operation under RNE on bit patterns, flags accumulating. -/
def f32op (op : FV → FV → FRes) (a b : Nat) (fl : FlagSet) : Nat × FlagSet :=
  let (x, f) := F32.fin .ne (op (F32.value a) (F32.value b))
  (x, fl ||| f)

/-- s' := s + exp2((x − m) × c), each step rounded (R100). -/
def smTerm (x m c : Nat) (fl : FlagSet) : Nat × FlagSet :=
  let (t, fl) := f32op (fun a b => a.add .ne b.negate) x m fl
  let (t, fl) := f32op FV.mul t c fl
  let (t, f) := exp2Of .ne (F32.value t)
  (t, fl ||| f)

/-- The running pair after four elements (R100). -/
def smUpdate (m sm : Nat) (x : List Nat) (c : Nat) : Nat × Nat × FlagSet :=
  let (mn, fl) := x.foldl (fun a y => f32op (FV.pick true) a.1 y a.2) (m, (0 : FlagSet))
  let cv := F32.value c
  let bad := match cv with
    | .nan _ => true
    | .inf _ => true
    | .fin neg k _ => neg || k == 0
  if bad then (F32.nan, F32.nan, fl ||| fNV)
  else if F32.value mn = .inf true then (m, sm, fl)
  else
    let (e, fl) := smTerm m mn c fl
    let (acc, fl) := f32op FV.mul sm e fl
    let (acc, fl) := x.foldl (fun a y =>
      let (t, f) := smTerm y mn c a.2
      f32op (FV.add .ne) a.1 t f) (acc, fl)
    (mn, acc, fl)

/-- Next register of a group. -/
def nextReg (r : R8) (k : Nat) : R8 := r + BitVec.ofNat 8 k

/-- VSMUPD (R100, R240). -/
def execVsmupd (g : Guard) (la : BitVec 4) (d a b : R8) (s : State) : Host.Outcome State Fault Refusal :=
  s.pipeOp (.vsmupd g la d a b) g la [⟨d, 2, tF32⟩, ⟨a, 4, tF32⟩, ⟨b, 1, tF32⟩] fun _ w P =>
    let r (j : Nat) := smUpdate (w.ln d j).toNat (w.ln (nextReg d 1) j).toNat
      ((List.range 4).map fun k => (w.ln (nextReg a k) j).toNat) (w.ln b j).toNat
    ([wbV d P 3 fun j => BitVec.ofNat 32 (r j).1, wbV (nextReg d 1) P 3 fun j => BitVec.ofNat 32 (r j).2.1],
      laneFlags P fun j => (r j).2.2)

/-- VSMFIN (R101, R240). -/
def execVsmfin (g : Guard) (la : BitVec 4) (d a : R8) (s : State) : Host.Outcome State Fault Refusal :=
  s.pipeOp (.vsmfin g la d a) g la [⟨a, 2, tF32⟩] fun _ w P =>
    let r (j : Nat) := rcpOf .ne (F32.value (w.ln (nextReg a 1) j).toNat)
    ([wbV d P 3 fun j => w.ln a j, wbV (nextReg d 1) P 3 fun j => BitVec.ofNat 32 (r j).1], laneFlags P fun j => (r j).2)

end Sys2Proof.Machine
end

