-- ==== Sys2Proof/Machine/Memops.lean ====
section
/-! DEFINITION. Loads, stores and cache operations, 0xA0 to 0xA9, and atomics, 0xB0 to 0xB3, as they issue (R257 to R275). -/

namespace Sys2Proof.Machine

/-! ## Addresses (R257) -/

/-- Address of lane i. -/
def mAt (w : Warp) (m : MAddr) (i : Nat) : Word64 :=
  match m with
  | .so a off => w.sc a + sext16 off
  | .vo a off => w.ln64 a i + sext16 off
  | .sv a v => w.sc a + (w.ln v i).setWidth 64
def aAt (w : Warp) (m : AAddr) (i : Nat) : Word64 :=
  match m with
  | .s a => w.sc a
  | .v a => w.ln64 a i
  | .sv a v => w.sc a + (w.ln v i).setWidth 64

/-- Vector registers read for an address, under any tag from 0 to 14. -/
def mSrc : MAddr → List Src
  | .so .. => []
  | .vo a _ => [⟨a, 2, tRaw⟩]
  | .sv _ v => [⟨v, 1, tRaw⟩]
def aSrc : AAddr → List Src
  | .s _ => []
  | .v a => [⟨a, 2, tRaw⟩]
  | .sv _ v => [⟨v, 1, tRaw⟩]

/-! ## Issue -/

/-- Issue an instruction that takes a husk entry for the lanes `P`; a long-latency one opens its window (R195). -/
def State.takeEntry (s : State) (w : Warp) (e : HkEntry) : Res :=
  if s.bufferWait w e then .hold s
  else
    let w := w.takeBound e
    .go s (match e.instr.la with
      | some la => w.openHusk e.seq la e.instr.pending
      | none => w) false

/-- An instruction performs in no lane after all: its window, if it has one, is open and written (R195). -/
def State.takeNone (s : State) (w : Warp) (i : Instr) : Res :=
  match i.la with
  | some la => .go { s with nextId := s.nextId + 1 } (w.openDone s.nextId la i.pending) false
  | none => .go s w false

/-- Lanes of an operation that a transaction does not allow abort with UNSUPPORTED (R169, R284). -/
def Warp.noTx (w : Warp) (P : Mask) : Warp × Mask := (w.abort P 0x09, P &&& ~~~w.tx.inTx)

/-- Operations that a transaction does not allow: the synchronising ones and those of R169; not BSTAT, QTRY, GZREAD and RTQUERY. -/
def txBars : Instr → Bool
  | .bstat .. | .qtry .. | .gzread .. | .rtquery .. => false
  | _ => true

/-- Issue an instruction that takes an entry of class `c`. -/
def State.huskOp (s : State) (i : Instr) (g : Guard) (src : List Src) (c : HkClass) (f : Warp → Mask → HkEntry → HkEntry) :
    Host.Outcome State Fault Refusal :=
  s.issue i g src fun s w P =>
    if w.huskFull then .hold s
    else
      let (w, P) := if txBars i then w.noTx P else (w, P)
      if P = 0 then s.takeNone w i else s.takeEntry w (f w P (HkEntry.new w i c P))

/-! ## Transactional accesses at issue (R169, R523) -/

/-- Lines in the warp's read or write set that lanes of `m` hold. -/
def Warp.txSet (w : Warp) (wr : Bool) (m : Mask) : List Nat :=
  if wr then (w.tx.writes.filter fun x => has m x.lane).map (·.addr / 128)
  else (w.tx.reads.filter fun x => has m x.1).map (·.2.1 / 128)

/-- Lanes aborted, in descending order, until the lines fit. -/
def Warp.txFit (w : Warp) (wr : Bool) (limit : Nat) (addr : Nat → Nat) (A : Mask) : List Nat → Mask → Mask
  | [], out => out
  | i :: r, out =>
    let lines := w.txSet wr (w.tx.inTx &&& ~~~out) ++ (lanesOf (A &&& ~~~out)).map (addr · / 128)
    if lines.eraseDups.length ≤ limit then out
    else Warp.txFit w wr limit addr A r (out ||| maskOf (· == i))

/-- Lanes in transaction that make the accesses `A` of a load or store: those of a synchronising form, or that address no device memory, abort
with UNSUPPORTED (R169, R284), those beyond the capacity with RCAP or WCAP. Gives the warp and the lanes that stay. -/
def Warp.txLanes (w : Warp) (i : Instr) (wr : Bool) (addr : Nat → Word64) (P A : Mask) : Warp × Mask :=
  let T := A &&& w.tx.inTx
  let out := T &&& maskOf fun j => match (effAddr i (addr j)).bind regionOf with
    | some .ordinary => (kindOf i).bound
    | some _ => true
    | none => (effAddr i (addr j)).isNone
  let w := w.abort out 0x09
  let T := T &&& ~~~out
  let cap := w.txFit wr (if wr then 32 else 64) (fun j => (addr j).toNat) T (lanesOf T).reverse 0
  (w.abort cap (if wr then 0x04 else 0x03), P &&& ~~~out &&& ~~~cap)

/-- Issue a load or store: `A` are the lanes of P that access memory (R261, R266), `mk` fills the entry's data,
`eats` says that issuing it is a consumption (R514). -/
def State.memOp (s : State) (i : Instr) (g : Guard) (src : List Src) (m : MAddr) (wr : Bool) (A : Mask)
    (mk : Warp → HkEntry → HkEntry) (eats : State → Warp → Bool := fun _ _ => false) : Host.Outcome State Fault Refusal :=
  s.issue i g src fun s w P =>
    if w.huskFull then .hold s
    else if eats s w then .hold (s.consume w.ident.sid)
    else
      let (w, P) := w.txLanes i wr (mAt w m) P (P &&& A)
      if P = 0 then s.takeNone w i
      else
        let e := HkEntry.new w i .I P
        s.takeEntry w (mk w { e with pend := P &&& A, addr := of64 (mAt w m), txl := P &&& A &&& w.tx.inTx })

/-- Empty data slots of `n` words. -/
def slots (n : Nat) : List Lanes := List.replicate n (Lanes.all 0)

/-- An entry whose lanes return `n` words each. -/
def HkEntry.returns (e : HkEntry) (n : Nat) : HkEntry := { e with data := slots n, psn := List.replicate n false }

/-- Lanes that make an access: under `.x6`, lanes 0 to 23 (R261, R262). -/
def widthLanes : LdW → Mask
  | .full .x6 => 0x00FFFFFF
  | _ => BitVec.allOnes 32

/-- LD (R261). -/
def execLd (g : Guard) (la : BitVec 4) (w : LdW) (o : Ord) (sc : Scope) (m : MAddr) (d : R8) (s : State) :
    Host.Outcome State Fault Refusal :=
  s.memOp (.ld g la w o sc m d) g (mSrc m) m false (widthLanes w) fun _ e => e.returns w.regs

/-- LDS: the checks of R263 are made when the lane is performed. -/
def execLds (g : Guard) (la : BitVec 4) (w : LdW) (o : Ord) (sc : Scope) (m : MAddr) (d : R8) (s : State) :
    Host.Outcome State Fault Refusal :=
  s.memOp (.lds g la w o sc m d) g (mSrc m) m false (widthLanes w) fun _ e => e.returns w.regs

/-- LDT (R264). -/
def execLdt (g : Guard) (la : BitVec 4) (tag : Tag) (m : MAddr) (d : R8) (s : State) : Host.Outcome State Fault Refusal :=
  s.memOp (.ldt g la tag m d) g (mSrc m) m false (BitVec.allOnes 32) fun _ e => e.returns 1

/-- Lanes whose plane an LDP reads (R266). -/
def planeLanes (f : PlFmt) (v : BitVec 2) : Mask :=
  maskOf fun i => match f with
    | .x6 => decide (i < 24) && decide (i % 12 / 2 < v.toNat + 3)
    | _ => decide (i % 8 / 2 < v.toNat + 1)

/-- LDP (R266). -/
def execLdp (g : Guard) (la : BitVec 4) (f : PlFmt) (v : BitVec 2) (m : MAddr) (d : R8) (s : State) :
    Host.Outcome State Fault Refusal :=
  s.memOp (.ldp g la f v m d) g (mSrc m) m false (planeLanes f v) fun _ e => e.returns 1

/-- LDC: one access, of the lowest lane of P that is in no transaction (R265, R284). -/
def execLdc (g : Guard) (la : BitVec 4) (wide acq : Bool) (sc : Scope) (a : R8) (off : BitVec 16) (d : R8) (s : State) :
    Host.Outcome State Fault Refusal :=
  s.huskOp (.ldc g la wide acq sc a off d) g [] .I fun w P e =>
    let L := maskOf (· == lowest P)
    { e.returns (if wide then 2 else 1) with planes := L, pend := L, addr := of64 fun _ => w.sc a + sext16 off }

/-- Tags under which a type's data is read (Table 3.3). -/
def dataTags : Ty → List Nat
  | .i32 | .u32 => tInt
  | .b32 | .b64 => tRaw
  | t => [0, (tyTag t).toNat]
def ldTags : LdW → List Nat
  | .full t => dataTags t
  | .quad t => dataTags t
  | .w8 t => if t = .b32 then tRaw else tInt
  | .w16 t => if t = .b32 then tRaw else tInt

/-- Data registers captured for a store, with their poison (R262). -/
def Warp.capture (w : Warp) (d : R8) (n : Nat) (e : HkEntry) : HkEntry :=
  { e with data := (List.range n).map fun j => w.lanes (d.toNat + j),
           psn := (List.range n).map fun j => w.tag (d.toNat + j) == 15 }

/-- A store of a tag-15 register is a consumption in a clean restartable sheaf (R514). -/
def State.storesPoison (s : State) (w : Warp) (d : R8) (n : Nat) : Bool :=
  (List.range n).any (fun j => w.tag (d.toNat + j) == 15) && s.consumes w.ident.sid && (s.twinOf w).isNone

/-- Issue a store (R262). -/
def State.storeOp (s : State) (i : Instr) (g : Guard) (w : LdW) (m : MAddr) (d : R8) : Host.Outcome State Fault Refusal :=
  s.memOp i g (mSrc m ++ [⟨d, w.regs, 15 :: ldTags w⟩]) m true (widthLanes w) (fun w' e => w'.capture d w.regs e)
    fun s w' => s.storesPoison w' d w.regs

/-- ST (R262). -/
def execSt (g : Guard) (w : LdW) (o : Ord) (sc : Scope) (m : MAddr) (d : R8) (s : State) :
    Host.Outcome State Fault Refusal := s.storeOp (.st g w o sc m d) g w m d

/-- STS (R263). -/
def execSts (g : Guard) (w : LdW) (o : Ord) (sc : Scope) (m : MAddr) (d : R8) (s : State) :
    Host.Outcome State Fault Refusal := s.storeOp (.sts g w o sc m d) g w m d

/-! ## Cache operations (R267). Their entries are over at once; a lane whose address fails a check is skipped, and so
is one whose page may not be read (log entry 97). -/

/-- Act on the line of each lane's address. -/
def State.lineOp (s : State) (i : Instr) (g : Guard) (m : MAddr) (f : State → Warp → Nat → Word64 → State) :
    Host.Outcome State Fault Refusal :=
  s.issue i g (mSrc m) fun s w P =>
    if w.huskFull then .hold s
    else .go ((lanesOf P).foldl (fun s j =>
      match s.translate w.who (mAt w m j).toNat 1 Need.read with
      | (.ok (.dram pa pte), s) => f s w pa pte
      | (_, s) => s) s) w.tick false

/-- PREF: at level 1 the line comes into L1 when its page is cacheable; at level 2 it comes into its home slice, which no value
shows. -/
def execPref (g : Guard) (l2 : Bool) (m : MAddr) (s : State) : Host.Outcome State Fault Refusal :=
  s.lineOp (.pref g l2 m) g m fun s w pa pte =>
    if !l2 && pteBit pte 5 then s.l1Fill w.ident.ctx (s.coreOf w) pa pte else s

/-- CWB: the home writes its copy to the stack, where bank engines find it. -/
def execCwb (g : Guard) (m : MAddr) (s : State) : Host.Outcome State Fault Refusal :=
  s.lineOp (.cwb g m) g m fun s _ pa _ => s.setMem { s.mem with stale := s.mem.stale.filter (·.1 != pa / 128) }

/-- CINV: the line leaves the issuing core's L1. -/
def execCinv (g : Guard) (m : MAddr) (s : State) : Host.Outcome State Fault Refusal :=
  s.lineOp (.cinv g m) g m fun s w pa _ => s.setMem (s.mem.l1Drop (s.coreOf w) pa)

/-! ## Atomics (R268 to R275). The data slots hold the returned words first, then the data, then the expected value. -/

/-- Tags under which an atomic's data is read (Table 8.4). -/
def atomTags (op : AOp) (wide : Bool) : List Nat :=
  if wide then tRaw
  else match op with
  | .and | .or | .xor | .exch => tRaw
  | .fadd => tF32
  | _ => tInt

/-- Issue an atomic: `ret` words return, `regs` are the data registers captured. -/
def State.atomOp (s : State) (i : Instr) (g : Guard) (src : List Src) (m : AAddr) (ret : Nat) (regs : List Nat) :
    Host.Outcome State Fault Refusal :=
  s.huskOp i g (aSrc m ++ src) .D fun w _ e =>
    { e with addr := of64 (aAt w m), data := slots ret ++ regs.map w.lanes, psn := List.replicate ret false }

def regList (d : R8) (n : Nat) : List Nat := (List.range n).map (d.toNat + ·)

/-- ATOM (R270). -/
def execAtom (g : Guard) (la : BitVec 4) (op : AOp) (wide : Bool) (o : Ord) (sc : Scope) (m : AAddr) (d b : R8) (s : State) :
    Host.Outcome State Fault Refusal :=
  let n := wideRegs wide
  s.atomOp (.atom g la op wide o sc m d b) g [⟨b, n, atomTags op wide⟩] m n (regList b n)

/-- ACAS (R272). -/
def execAcas (g : Guard) (la : BitVec 4) (wide : Bool) (o : Ord) (sc : Scope) (m : AAddr) (d b : R8) (s : State) :
    Host.Outcome State Fault Refusal :=
  let n := wideRegs wide
  s.atomOp (.acas g la wide o sc m d b) g [⟨b, n, tRaw⟩, ⟨d, n, tRaw⟩] m n (regList b n ++ regList d n)

/-- RED (R273). -/
def execRed (g : Guard) (op : AOp) (wide : Bool) (o : Ord) (sc : Scope) (m : AAddr) (b : R8) (s : State) :
    Host.Outcome State Fault Refusal :=
  let n := wideRegs wide
  s.atomOp (.red g op wide o sc m b) g [⟨b, n, atomTags op wide⟩] m 0 (regList b n)

/-- VBMIN (R274). -/
def execVbmin (g : Guard) (o : Ord) (sc : Scope) (m : AAddr) (b : R8) (s : State) : Host.Outcome State Fault Refusal :=
  s.atomOp (.vbmin g o sc m b) g [⟨b, 2, tRaw⟩] m 0 (regList b 2)

/-- The new value of a word (Table 8.4, R271). -/
def atomNew (op : AOp) (n : Nat) (old v : BitVec n) : BitVec n :=
  match op with
  | .add => old + v
  | .sub => old - v
  | .smin => if v.slt old then v else old
  | .smax => if old.slt v then v else old
  | .umin => if v.ult old then v else old
  | .umax => if old.ult v then v else old
  | .and => old &&& v
  | .or => old ||| v
  | .xor => old ^^^ v
  | .exch => v
  | .incw => if v.ule old then 0 else old + 1
  | .decw => if old == 0 || v.ult old then v else old - 1
  | .fadd => ((fLane .f32 .ne addOp [old.setWidth 32, v.setWidth 32]).1).setWidth n

/-- The new value that one lane leaves, from the value it finds, its data and its expected value. -/
def laneNew (i : Instr) (old v x : Word64) : Word64 :=
  match i with
  | .atom _ _ op wide .. | .red _ op wide .. =>
    if wide then atomNew op 64 old v else (atomNew op 32 (old.setWidth 32) (v.setWidth 32)).setWidth 64
  | .acas .. => if old == x then v else old
  | .vbmin .. => if v.ult old then v else old
  | _ => old

/-- Words that an atomic returns. -/
def atomRet (i : Instr) : Nat :=
  match i with
  | .atom _ _ _ wide .. | .acas _ _ wide .. => wideRegs wide
  | _ => 0

/-- Operand number `k` of lane i of an atomic's entry: 0 its data, 1 its expected value. -/
def HkEntry.operand (e : HkEntry) (k i : Nat) : Word64 :=
  let n := accBytes e.instr / 4
  let j := atomRet e.instr + k * n
  let lo := Lanes.get (e.data.getD j (Lanes.all 0)) i
  if n = 2 then (Lanes.get (e.data.getD (j + 1) (Lanes.all 0)) i) ++ lo else lo.setWidth 64

/-- A batch from the word before it, in ascending lane order (R269): what each lane finds, and the word after it. -/
def batchRun (e : HkEntry) (lanes : List Nat) (old : Word64) : List (Nat × Word64) × Word64 :=
  lanes.foldl (fun (l, x) i => (l ++ [(i, x)], laneNew e.instr x (e.operand 0 i) (e.operand 1 i))) ([], old)

end Sys2Proof.Machine
end

