-- ==== Sys2Proof/Machine/Sync.lean ====
section
/-! DEFINITION. Fences, transactions, ordered sections, barriers, phases, group queries and MB objects, 0xC0 to 0xC7 (R157 to R175,
R276 to R295): what they do as they issue, and at their places. -/

namespace Sys2Proof.Machine

/-! ## Performing an operation held in the husk -/

/-- An entry's operation is performed: as a boundary it ends the region (R143), and nothing of it is left to perform. -/
def State.performed (s : State) (vw : Nat) (e : HkEntry) (bound : Bool) : State :=
  let s := if bound then (match s.warp vw with | some w => s.sysBound w e | none => s).boundary vw e.closes else s.noBoundary vw e.closes
  s.modWarp vw (·.modEntry e.seq fun x => { x with pend := 0, closes := none })

/-- Before a boundary is performed, the workgroup's store buffer is: a release as R512 says, and any other since no boundary is performed before
every access of the region it ends (R143, log entry 88). -/
def State.release (s : State) (w : Warp) (e : HkEntry) : Option (HeldStore × Code8 × Word64) × State :=
  if (kindOf e.instr).bound then s.drain w.ident.sid w.ident.member else (none, s)

/-- A release or acquire at `.sy` has a message for a peer whose connection is in the error state, which faults 0x13 (R497); FENCE has no log
fault (Table 16.9), and tells the others (log entry 116). -/
def State.boundLost (s : State) (w : Warp) (e : HkEntry) : Bool :=
  (kindOf e.instr).bound && sysScope e.instr && (s.cmd.peers.any fun p => p.ctx == w.ident.ctx && p.lost)
    && match e.instr with | .fence .. => false | _ => true

/-- Every lane of such an entry that is not done faults (R497). -/
def lostFaults (e : HkEntry) : List LFault :=
  (lanesOf e.undone).map fun i => ⟨i, 0x13, (e.span i).elim (lane64 e.addr i).toNat (·.1), 0, wordOf e.instr⟩

/-- Perform a boundary after its drain; it is not performed where a held store fails or a peer that it tells is lost. -/
def State.releasing (s : State) (w : Warp) (e : HkEntry) (f : State → State) : State :=
  match s.release w e with
  | (some x, s) => s.heldFault w.ident.sid x
  | (none, s) => if s.boundLost w e then s.faultLanes w e.seq (lostFaults e) Need.read 0 else f s

/-- A workgroup's held store to one of these places is performed before a later atomic or MB operation on it (R150, R512). -/
def State.drainFor (s : State) (w : Warp) (l : List Loc) : Option (HeldStore × Code8 × Word64) × State :=
  match s.sheaf w.ident.sid with
  | none => (none, s)
  | some h =>
    if h.stores.any fun x => x.member == w.ident.member && (List.range ((x.data.length + 3) / 4)).any fun k =>
        l.contains (x.loc.add (4 * k)).word then s.drain w.ident.sid w.ident.member
    else (none, s)

/-- A warp-level operation: one lane stands for it. -/
def HkEntry.single (e : HkEntry) (P : Mask) : HkEntry := let L := maskOf (· == lowest P); { e with planes := L, pend := L }

/-! ## Fences (R276, R277) -/

/-- FENCE. -/
def execFence (g : Guard) (o : Ord) (sc : Scope) (s : State) : Host.Outcome State Fault Refusal :=
  s.huskOp (.fence g o sc) g [] .I fun _ P e => e.single P

/-- BFENCE. -/
def execBfence (g : Guard) (s : State) : Host.Outcome State Fault Refusal :=
  s.huskOp (.bfence g) g [] .I fun _ P e => e.single P

/-- A BGEMV issued before the entry has not completed (R168). -/
def Warp.bgemvBefore (w : Warp) (seq : BitVec 16) : Bool :=
  (w.husk.takeWhile (·.seq != seq)).any fun x => match x.instr with | .bgemv .. => true | _ => false

/-! ## Transactions (R278 to R284) -/

/-- TBEGIN, which opens no region (log entry 93): lanes of P already in transaction abort with NEST; the others enter (R279). -/
def execTbegin (g : Guard) (d : R8) (s : State) : Host.Outcome State Fault Refusal :=
  s.issue (.tbegin g d) g [] fun s w P =>
    let new := P &&& ~~~w.tx.inTx
    let w := w.abort (P &&& w.tx.inTx) 0x0A
    let set {α : Type} (v : Vector α 32) (x : α) : Vector α 32 := Vector.ofFn fun i : Fin 32 => if has new i then x else v[i]
    let tx : Tx := { w.tx with
      inTx := w.tx.inTx ||| new, resume := set w.tx.resume (BitVec.ofNat 64 w.clause.next), pred := set w.tx.pred (d.setWidth 4),
      cause := set w.tx.cause 0, code := set w.tx.code 0 }
    .go s ({ w with tx := tx }.pset d.toNat new new) false

/-- TEND: an entry for the lanes of P in transaction; with none it does nothing (R281). -/
def execTend (g : Guard) (s : State) : Host.Outcome State Fault Refusal :=
  s.issue (.tend g) g [] fun s w P =>
    let C := P &&& w.tx.inTx
    if C = 0 then .go s w false
    else if w.huskFull then .hold s
    else s.takeEntry w (HkEntry.new w (.tend g) .D C)

/-- TABORT (R282). -/
def execTabort (g : Guard) (code : Byte) (s : State) : Host.Outcome State Fault Refusal :=
  s.issue (.tabort g code) g [] fun s w P =>
    let A := P &&& w.tx.inTx
    let w := w.abort A 0x05
    .go s { w with tx := { w.tx with code := Vector.ofFn fun i : Fin 32 => if has A i then code else w.tx.code[i] } } false

/-- TTEST (R283). -/
def execTtest (g : Guard) (d : R8) (s : State) : Host.Outcome State Fault Refusal :=
  s.vop (.ttest g d) g [] d 2 fun w i =>
    let c : Byte := if h : i < 32 then w.tx.cause[i] else 0
    let k : Byte := if h : i < 32 then w.tx.code[i] else 0
    bitsOf 1 (fun _ => has w.tx.inTx i) ++ (0 : BitVec 15) ++ k ++ c

/-- A line as a place: of device memory where its address translates, else the address itself. -/
def State.lineOf (s : State) (w : Warp) (a : Nat) : Loc :=
  match s.locOf w.who a with
  | some (.dram pa) => .dram (pa / 128)
  | _ => .sys (a / 128)

/-- Stage 1 of R170: lanes that share a line with a lower lane's writes. -/
def State.tendLanes (s : State) (w : Warp) (C : Mask) : Mask :=
  ((lanesOf C).foldl (fun (out, wr) i =>
    let m := maskOf (· == i)
    let W := (w.txSet true m).map fun l => s.lineOf w (128 * l)
    let R := (w.txSet false m).map fun l => s.lineOf w (128 * l)
    if (R ++ W).any wr.contains then (out ||| m, wr) else (out, wr ++ W)) ((0 : Mask), ([] : List Loc))).1

/-- Stage 2 of R170 for one lane: 0 when every word it read is current, else the abort cause (R470, R471). -/
def State.validate (s : State) (w : Warp) (i : Nat) : Byte :=
  let rd := (w.tx.reads.filter (·.1 == i)).map fun (_, a, v) =>
    match (s.translate w.who a 4 Need.read).1 with
    | .ok (.dram pa pte) =>
      let (b, p) := s.homeRead w.ident.ctx (.dram pa pte) 4
      if p.any id || s.mem.bad pa then (0x08 : Byte) else if BitVec.ofNat 32 (ofBytes b) = v then 0 else 0x01
    | _ => 0x08
  let wr := (w.tx.writes.filter (·.lane == i)).map fun x =>
    match (s.translate w.who x.addr 1 Need.write).1 with
    | .ok (.dram pa _) => if s.mem.bad pa then (0x08 : Byte) else 0
    | _ => 0x08
  if (rd ++ wr).contains 0x08 then 0x08 else if rd.contains 0x01 then 0x01 else 0

/-- Write a committing lane's bytes. -/
def State.commitLane (s : State) (w : Warp) (i : Nat) : State :=
  (w.tx.writes.filter (·.lane == i)).foldl (fun s x =>
    match s.translate w.who x.addr 1 Need.write with
    | (.ok t, s) =>
      let s := s.putBytes w.who (some (s.coreOf w)) t [x.byte] x.psn
      if x.psn then s
      else match t with
        | .dram pa _ =>
          -- a word written in full by the lane is no longer poisoned
          if (List.range 4).all fun k => w.tx.writes.any fun y => y.lane == i && y.addr == x.addr / 4 * 4 + k then
            s.setMem { s.mem with psn := psnClr s.mem.psn pa }
          else s
        | _ => s
    | (.error _, s) => s) s

/-- Where the record of a TEND lives: at the home of the lowest-addressed line of the write set, or of the read set when that is empty
(R405); with both sets empty the rule gives none, and it lives at home slice 0 (log entry 111, DESIGN CHOICE). -/
def State.tendPlace (s : State) (w : Warp) (C : Mask) : Place :=
  let low (l : List Nat) : Option Nat := l.foldl (fun a x => some (min x (a.getD x))) none
  match low (w.txSet true C) <|> low (w.txSet false C) with
  | some l => .loc (match s.lineOf w (128 * l) with | .dram k => .dram (128 * k) | _ => .sys (128 * l))
  | none => .loc (.sys 0)

/-- A page of a lane's sets that is not present at TEND enters the batch as a hint (R472). -/
def State.tendHints (w : Warp) (s : State) (i : Nat) : State :=
  let hint (need : Need) (s : State) (a : Nat) : State :=
    match (s.translate w.who a 1 need).1 with
    | .error x => if x.cause = 0x10 then s.pageFault (dieOf (s.coreOf w)) w.ident.ctx a need true x.level else s
    | .ok _ => s
  let s := ((w.tx.reads.filter (·.1 == i)).map (·.2.1)).foldl (hint Need.read) s
  ((w.tx.writes.filter (·.lane == i)).map (·.addr)).foldl (hint Need.write) s

/-- TEND at the homes (R170, R523): both stages, as one step. -/
def State.tendRun (s : State) (w : Warp) (e : HkEntry) : State :=
  let C := e.pend &&& w.tx.inTx
  let paired := (s.twinOf w).isSome
  let cause (i : Nat) : Byte := s.validate w i
  -- a lane that several causes meet records the first of R471: FAULT, LANE, CONFLICT
  let bad8 := C &&& maskOf fun i => cause i == 0x08
  let lane := s.tendLanes w C &&& ~~~bad8
  let rest := C &&& ~~~bad8 &&& ~~~lane
  let bad1 := rest &&& maskOf fun i => cause i == 0x01
  let ok := rest &&& ~~~bad1
  let s := (lanesOf C).foldl (State.tendHints w) s
  let s := (lanesOf ok).foldl (fun s i => s.commitLane w i) s
  let s := s.modWarp w.vw fun w =>
    let w := if paired then w.modEntry e.seq fun x => { x with scal := [(w.tendSet e).setWidth 64] } else w
    let w := ((w.abortNow lane 0x02).abortNow bad8 0x08).abortNow bad1 0x01
    { w with tx := { w.tx with inTx := w.tx.inTx &&& ~~~ok, reads := w.tx.reads.filter (fun r => !has ok r.1),
                               writes := w.tx.writes.filter fun r => !has ok r.lane } }
  let s := if ok = 0 then s else s.commitSheaf w.ident.sid
  let s := s.chaffed w e 6 e.pend (at_ ok.toNat 0 ||| at_ lane.toNat 32) (s.tendPlace w C) []
  s.performed w.vw e (ok != 0)

/-! ## Ordered sections (R285 to R289) -/

/-- Keys named by the lanes. -/
def Warp.keys (w : Warp) (a : R8) : Vector Word64 32 := of64 (w.ln64 a)

/-- A warp parks on the entry it takes (R366). -/
def State.parkEntry (s : State) (w : Warp) (e : HkEntry) : Res :=
  if s.bufferWait w e then .hold s else .go s { w.takeBound { e with parked := true } with slot := .parked } true

/-- OSENTER: lanes in transaction abort with SECTION; the others park until admitted (R173, R174). -/
def execOsenter (g : Guard) (cl : Bool) (a b : R8) (s : State) : Host.Outcome State Fault Refusal :=
  s.issue (.osenter g cl a b) g [⟨a, 2, tRaw⟩, ⟨b, 1, tRaw⟩] fun s w P =>
    if w.huskFull then .hold s
    else
      let w1 := w.abort P 0x07
      let P := P &&& ~~~w.tx.inTx
      if P = 0 then .go s w1 false
      else s.parkEntry w1
        { HkEntry.new w1 (.osenter g cl a b) .O P with addr := w.keys a, data := [w.lanes b.toNat] }

/-- OSLEAVE. -/
def execOsleave (g : Guard) (cl : Bool) (a : R8) (s : State) : Host.Outcome State Fault Refusal :=
  s.huskOp (.osleave g cl a) g [⟨a, 2, tRaw⟩] .O fun w _ e => { e with addr := w.keys a }

/-- OSRESET. -/
def execOsreset (g : Guard) (cl : Bool) (a b : R8) (s : State) : Host.Outcome State Fault Refusal :=
  s.huskOp (.osreset g cl a b) g [⟨a, 2, tRaw⟩, ⟨b, 1, tRaw⟩] .D fun w _ e =>
    { e with addr := w.keys a, data := [w.lanes b.toNat] }

/-- OSQUERY. -/
def execOsquery (g : Guard) (la : BitVec 4) (cl : Bool) (d a : R8) (s : State) : Host.Outcome State Fault Refusal :=
  s.huskOp (.osquery g la cl d a) g [⟨a, 2, tRaw⟩] .I fun w _ e => { e.returns 2 with addr := w.keys a }

/-- One lane of an OSQUERY reads its key's entry at its place (R289). -/
def State.queryLane (cl : Bool) (s : State) (w : Warp) (e : HkEntry) (i : Nat) : LaneRes × State :=
  let key := lane64 e.addr i
  let k := s.keyEnt (w.keyId cl key)
  if k.poisoned.isSome then (.fault ⟨i, 0x22, key.toNat, 0, auxPoison k⟩, s)
  else (.val [k.next, BitVec.ofNat 32 k.held] [false, false], s)

/-! ## Barriers (R290) -/

/-- BAR: the warp parks; its arrival follows every access before it. -/
def execBar (g : Guard) (b : BitVec 2) (s : State) : Host.Outcome State Fault Refusal :=
  s.issue (.bar g b) g [] fun s w P =>
    if w.huskFull then .hold s
    else
      let (w, P) := w.noTx P
      if P = 0 then .go s w false else s.parkEntry w ((HkEntry.new w (.bar g b) .O P).single P)

/-- A barrier of a member, empty when no warp has used it. -/
def Sheaf.bar (h : Sheaf) (member b : Nat) : Barrier :=
  (h.bars.find? fun x => x.member == member && x.b == b).getD ⟨member, b, 0, 0, false⟩
def Sheaf.setBar (h : Sheaf) (x : Barrier) : Sheaf :=
  { h with bars := upsert (fun y => y.member == x.member && y.b == x.b) x h.bars }

/-- A warp arrives: in the round in progress, or in the next when it has arrived in this one. -/
def Barrier.arrive (x : Barrier) (warp : Nat) : Barrier :=
  let m := maskOf (· == warp)
  if x.mask &&& m = 0 then { x with mask := x.mask ||| m } else { x with next := x.next ||| m }

/-- Every warp of the workgroup has arrived or finished. -/
def State.barFull (s : State) (sid : Nat) (x : Barrier) : Bool :=
  x.mask != 0 && (s.warps.filter fun w => w.ident.sid == sid && w.ident.member == x.member).all fun w =>
    w.slot == .finished || has x.mask w.ident.idWarp

/-- The barrier completes: the parked warps that arrived resume. -/
def State.barDone (s : State) (sid : Nat) (x : Barrier) : State :=
  let ws := s.warps.filter fun w => w.ident.sid == sid && w.ident.member == x.member && has x.mask w.ident.idWarp
  let s := ws.foldl (fun s w =>
    match w.husk.find? fun e => match e.instr with | .bar _ b => b.toNat == x.b && e.perf != 0 | _ => false with
    | some e => s.performed w.vw e true
    | none => s) s
  s.modSheaf sid fun h => h.setBar { x with mask := x.next, next := 0, parity := !x.parity }

/-! ## Phases and group queries (R46 to R53, R291, R292) -/

/-- Number of workgroups of a launch. -/
def Launch.wgs (l : Launch) : Nat := l.r.nsheaf * l.r.wgs

/-- The group number `g` of a warp's launch that contains the warp's workgroup; task and tiller warps have none. -/
def State.groupOf (s : State) (w : Warp) (g : Nat) : Option Group :=
  match s.launch w.ident.lid with
  | none => none
  | some l =>
    if w.ident.kind == .task || w.ident.kind == .tiller then none
    else l.groups.find? fun x => x.idx == g && (x.all || x.members.contains w.ident.idWg.toNat)

/-- PHASE (R291): fault 0x02 when the group does not contain the workgroup; else the warp parks. -/
def execPhase (g : Guard) (grp : Byte) (op : POp) (a : R8) (s : State) : Host.Outcome State Fault Refusal :=
  s.issue (.phase g grp op a) g [] fun s w P =>
    if (s.groupOf w grp.toNat).isNone then .trap 0x02
    else if w.huskFull then .hold s
    else
      let w1 := w.noTx P
      if w1.2 = 0 then .go s w1.1 false
      else s.parkEntry w1.1 { (HkEntry.new w1.1 (.phase g grp op a) .O w1.2).single w1.2 with scal := [w.sc a] }

/-- Change one group of a launch. -/
def State.modGroup (s : State) (lid g : Nat) (f : Group → Group) : State :=
  s.modLaunch lid fun l => { l with groups := updIf (·.idx == g) f l.groups }

/-- A warp arrives at the current phase (R48), with what it contributes (R291); an arrival that stands already is not made again
(R406). -/
def State.arrive (s : State) (w : Warp) (e : HkEntry) : State :=
  match e.instr with
  | .phase _ grp op _ =>
    let s := s.modGroup w.ident.lid grp.toNat fun x => if x.arrived.contains w.vw then x else
      { x with arrived := x.arrived ++ [w.vw],
               contrib := if op = .none then x.contrib
                 else x.contrib ++ [(w.ident.idWg.toNat, w.ident.idWarp, op, e.scal.headD 0)] }
    -- at system scope in a system group (R50)
    let sys : Bool := (s.groupOf w grp.toNat).any fun g => g.sys
    let s := match e.closes with
      | none => s
      | some r => s.sysTell w e.seq false r
          (if sys then s.peersOf w else s.awayOf (.warp w.vw) r)
    let s := s.boundary w.vw e.closes
    let s := (s.modWarp w.vw (·.modEntry e.seq fun x => { x with perf := x.pend, closes := none })).chaffed w e 3 e.pend 0
      (.scheduler grp.toNat) []
    (s.commitSheaf w.ident.sid).wantCkpt w.ident.sid
  | _ => s

/-- A copy or bank operation that the warp issued before its PHASE has not landed (R49). -/
def Warp.landing (w : Warp) (g : Nat) : Bool :=
  let isP (e : HkEntry) : Bool := match e.instr with | .phase _ x _ _ => x.toNat == g && e.perf != 0 | _ => false
  w.husk.any isP && (w.husk.takeWhile fun e => !isP e).any fun e => match e.instr with
    | .ckick .. | .bgemv .. => true
    | _ => false

/-- A workgroup has arrived: each of its warps has, or has finished (R48). -/
def State.wgArrived (s : State) (l : Launch) (x : Group) (wg : Nat) : Bool :=
  match s.sheaves.find? fun h => h.lid == l.lid && h.idx == wg / l.r.wgs && h.kind == .member && !h.trail with
  | none => false
  | some h =>
    h.state == .retired || (h.state != .unstarted &&
      (s.warps.filter fun w => w.ident.sid == h.sid && w.ident.member == wg % l.r.wgs).all fun w =>
        (w.slot == .finished || x.arrived.contains w.vw) && !w.landing x.idx)

/-- Every member has arrived, and what was issued before has landed (R49). -/
def State.phaseFull (s : State) (l : Launch) (x : Group) : Bool :=
  if x.all then (List.range l.wgs).all (s.wgArrived l x) else x.members.all (s.wgArrived l x)

/-- One contribution operation. -/
def popRun (op : POp) (a b : Word64) : Word64 :=
  match op with
  | .none => a
  | .add => a + b
  | .umin => if b.ult a then b else a
  | .umax => if a.ult b then b else a
  | .or => a ||| b
  | .and => a &&& b
  | .xor => a ^^^ b

/-- The value of a phase (R291): the operation is that of the contributing arrival with the lowest workgroup, then warp. -/
def combine (l : List (Nat × Nat × POp × Word64)) : Word64 :=
  match sortBy (fun c => c.1 * 64 + c.2.1) l with
  | [] => 0
  | c :: r => (r.filter fun d => d.2.2.1 == c.2.2.1).foldl (fun x d => popRun c.2.2.1 x d.2.2.2) c.2.2.2

/-- A phase completes with a value: the number advances and the parked warps resume (R49). -/
def State.phaseDone (s : State) (lid g : Nat) (v : Word64) : State :=
  match s.launch lid with
  | none => s
  | some l => match l.groups.find? (·.idx == g) with
    | none => s
    | some x =>
      let s := x.arrived.foldl (fun s vw =>
        match s.warp vw with
        | none => s
        | some w =>
          let s := s.modWarp vw fun w => { w with vals := upsert (·.1 == g) (g, v) w.vals,
                                                  opened := (w.region, s.now) :: w.opened.filter (·.1 != w.region) }
          match w.husk.find? fun e => match e.instr with | .phase _ n _ _ => n.toNat == g && e.perf != 0 | _ => false with
          | some e => s.modWarp vw (·.modEntry e.seq fun x => { x with pend := 0 })
          | none => s) s
      s.modGroup lid g fun x => { x with phase := x.phase + 1, arrived := [], contrib := [], last := v, sent := false }

/-- GRPQ (R292). -/
def execGrpq (g : Guard) (la : BitVec 4) (q : GQ) (d : R8) (grp : Byte) (s : State) : Host.Outcome State Fault Refusal :=
  s.issue (.grpq g la q d grp) g [] fun s w P =>
    if (s.groupOf w grp.toNat).isNone then .trap 0x02
    else if w.huskFull then .hold s
    else s.takeEntry w ((HkEntry.new w (.grpq g la q d grp) .I P).single P)

/-- The value that a GRPQ reads at the scheduler. -/
def State.grpqValue (s : State) (w : Warp) (q : GQ) (grp : Nat) : Word64 :=
  match s.launch w.ident.lid, s.groupOf w grp with
  | some l, some x =>
    match q with
    | .phase => x.phase.setWidth 64
    | .size => BitVec.ofNat 64 (if x.all then l.wgs else x.members.length)
    | .rank => if x.all then w.ident.idWg else BitVec.ofNat 64 (x.members.idxOf w.ident.idWg.toNat)
    | .val => ((w.vals.find? (·.1 == grp)).map (·.2)).getD 0
  | _, _ => 0

/-! ## MB objects (R159 to R162, R293 to R295, R482) -/

/-- The fields of an MB object (Table 5.4). -/
structure MbObj where
  phase : Word32
  arr : BitVec 16
  init : BitVec 16
  bytes : Word32
  deriving DecidableEq, Repr

def MbObj.of (l : List Byte) : MbObj :=
  let x := ofBytes l
  ⟨BitVec.ofNat 32 x, BitVec.ofNat 16 (x / 2 ^ 32), BitVec.ofNat 16 (x / 2 ^ 48), BitVec.ofNat 32 (x / 2 ^ 64)⟩
def MbObj.image (m : MbObj) : List Byte :=
  bytesOf 16 (m.phase.toNat + m.arr.toNat * 2 ^ 32 + m.init.toNat * 2 ^ 48 + m.bytes.toNat * 2 ^ 64)

/-- Operations on an MB object (Table 5.5). -/
inductive MbOp
  | init (n : BitVec 16) (b : Word32)
  | exp (b : Word32)
  | arr
  | count (b : Nat)
  deriving DecidableEq, Repr

/-- The flip rule (R160). -/
def MbObj.flip (m : MbObj) : MbObj :=
  if m.arr = 0 ∧ m.bytes = 0 then { m with phase := m.phase + 1, arr := m.init } else m

/-- An operation on an object; none when it is discarded (R482). -/
def MbObj.run (m : MbObj) : MbOp → Option MbObj
  | .init n b => some ⟨0, n, n, b⟩
  | .exp b =>
    let x := m.bytes.toInt + b.toInt
    if -(2 ^ 31) ≤ x ∧ x < 2 ^ 31 then some { m with bytes := BitVec.ofInt 32 x }.flip else none
  | .arr => if m.arr = 0 then none else some { m with arr := m.arr - 1 }.flip
  | .count b =>
    let x := m.bytes.toInt - b
    if -(2 ^ 31) ≤ x ∧ x < 2 ^ 31 then some { m with bytes := BitVec.ofInt 32 x }.flip else none

/-- Kind, value and byte count of a deferred arrival (Table 12.6a): the value of an MBINIT is its count. -/
def MbOp.defer : MbOp → Nat × Word32 × Word32
  | .count b => (0, BitVec.ofNat 32 b, 0)
  | .arr => (1, 0, 0)
  | .exp b => (2, b, 0)
  | .init n b => (3, n.setWidth 32, b)

/-- The operation that a deferred arrival stands for. -/
def Deferred.op (d : Deferred) : MbOp :=
  match d.kind with
  | 0 => .count d.value.toNat
  | 1 => .arr
  | 2 => .exp d.value
  | _ => .init (d.value.setWidth 16) d.bytes

/-- The object at a scratchpad target. -/
def State.mbObj (s : State) (ctx : Nat) (t : Target) : MbObj := MbObj.of (s.homeRead ctx t 16).1

/-- Apply an operation to a resident or frozen sheaf's object, in each copy of a pair for a party outside it (R501); a discarded one sends the
advisory event (R482), for a pair the leading copy's. -/
def State.mbApply (s : State) (who : Who) (lid : Nat) (t : Target) (op : MbOp) (addr : Nat) : State :=
  s.eachCopy who t fun s who t =>
    match (s.mbObj who.ctx t).run op with
    | some m => s.writeAt who t m.image false
    | none =>
      let silent : Bool := match t with | .scr sid .. => (s.sheaf sid).any (·.trail) | _ => false
      if silent then s else s.event (s.evOf 0x01 lid [] [faultDesc 0 4 who.ctx 0 0 0 (BitVec.ofNat 64 addr) 0])

/-- An operation on the object at a target: one of a saved sheaf is deferred, with the next number of its cluster unit (R417). -/
def State.mbOp (s : State) (who : Who) (lid : Nat) (t : Target) (op : MbOp) (addr : Nat) : State :=
  match t with
  | .scr sid c o _ =>
    match s.sheaf sid with
    | none => s
    | some h =>
      if h.state == .saved then
        let cl := h.orig / 24
        let no := ((s.mem.deferNo.find? (·.1 == cl)).map (·.2)).getD 0
        let (k, v, b) := op.defer
        s.setMem { s.mem with
          defer := s.mem.defer ++ [⟨cl, who.ctx, lid, sid, h.orig + c, o, k, v, b, no⟩],
          deferNo := upsert (·.1 == cl) (cl, no + 1) s.mem.deferNo }
      else s.mbApply who lid t op addr
  | _ => s

/-- The place of a word that a bank performs an operation on: a cluster unit for a saved slice (R417). -/
def State.slicePlace (s : State) (t : Target) : Place :=
  match t with
  | .scr sid .. => match s.sheaf sid with
    | some h => if h.state == .saved then .cluster (h.orig / 24) else .loc t.loc
    | none => .loc t.loc
  | _ => .loc t.loc

/-- A read of `q` observes the flip of phase `p` (R295). -/
def observes (p q : Word32) : Bool := let d := q - p; d != 0 && !d.getLsbD 31

/-- Issue an MB operation: one address, from the scalar base and the offset (R257). -/
def State.mbIssue (s : State) (i : Instr) (g : Guard) (c : HkClass) (a : R8) (off : BitVec 16) (x : Warp → List Word64)
    (park : Bool) : Host.Outcome State Fault Refusal :=
  s.issue i g [] fun s w P =>
    if w.huskFull then .hold s
    else
      let (w, P) := w.noTx P
      if P = 0 then s.takeNone w i
      else
        let e := { (HkEntry.new w i c P).single P with addr := of64 fun _ => w.sc a + sext16 off, scal := x w }
        if park then s.parkEntry w e
        else match sdest i with
          | some d => .go s ((w.takeBound e).openHusk e.seq 0 [(.s, d.toNat)]) false
          | none => .go s (w.takeBound e) false

/-- MBINIT (R294). -/
def execMbinit (g : Guard) (a : R8) (off : BitVec 16) (d : R8) (s : State) : Host.Outcome State Fault Refusal :=
  s.mbIssue (.mbinit g a off d) g .D a off (fun w => [w.sc d]) false

/-- MBEXP (R294). -/
def execMbexp (g : Guard) (a : R8) (off : BitVec 16) (d : R8) (s : State) : Host.Outcome State Fault Refusal :=
  s.mbIssue (.mbexp g a off d) g .D a off (fun w => [w.sc d]) false

/-- MBARR (R294). -/
def execMbarr (g : Guard) (sc : Scope) (a : R8) (off : BitVec 16) (s : State) : Host.Outcome State Fault Refusal :=
  s.mbIssue (.mbarr g sc a off) g .O a off (fun _ => []) false

/-- MBWAIT, variant 0: the phase is in the scalar (R295). -/
def execMbwait (g : Guard) (sc : Scope) (d a : R8) (off : BitVec 16) (s : State) : Host.Outcome State Fault Refusal :=
  s.mbIssue (.mbwait g sc d a off) g .I a off (fun w => [w.sc d]) true

/-- MBWAIT, variant 1: the phase is taken when the request reaches the bank (R295). -/
def execMbwaitCur (g : Guard) (sc : Scope) (d a : R8) (off : BitVec 16) (s : State) : Host.Outcome State Fault Refusal :=
  s.mbIssue (.mbwaitCur g sc d a off) g .I a off (fun _ => []) true

/-- MBTEST, variant 0; the next word waits for its scalar, which is not a long-latency result (R295, R297). -/
def execMbtest (g : Guard) (sc : Scope) (d a : R8) (off : BitVec 16) (s : State) : Host.Outcome State Fault Refusal :=
  s.mbIssue (.mbtest g sc d a off) g .I a off (fun w => [w.sc d]) false

/-- MBTEST, variant 1. -/
def execMbtestSnap (g : Guard) (d a : R8) (off : BitVec 16) (s : State) : Host.Outcome State Fault Refusal :=
  s.mbIssue (.mbtestSnap g d a off) g .I a off (fun _ => []) false

/-- What an MB operation needs of its page (log entry 95). -/
def mbNeed : Instr → Need
  | .mbinit .. | .mbexp .. | .mbarr .. => Need.atomic
  | _ => Need.read

/-- An MB operation at its bank (R160, R293); none while it waits. -/
def State.mbRun (s : State) (w : Warp) (e : HkEntry) : Option State :=
  let i := lowest e.planes
  let a := (lane64 e.addr i).toNat
  let x := e.scal.headD 0
  let fail (s : State) (c : Code8) (level : Nat) : State :=
    s.faultLanes w e.seq [⟨i, c, a, level, wordOf e.instr⟩] (mbNeed e.instr) 0
  let here : Bool := match regionOf a with | some (.window ..) | some (.ownScr _) => true | _ => false
  if !here then some (fail s (if a % 16 = 0 then 0x13 else 0x06) 0)
  else match s.translate w.who a 16 (mbNeed e.instr) with
  | (.error f, s) => some (fail s f.cause f.level)
  | (.ok (.scr sid c o pte), s) =>
    let t : Target := .scr sid c o pte
    match s.drainFor w (t.words 16) with
    | (some x, s) => some (s.heldFault w.ident.sid x)
    | (none, s) =>
    let s := s.touch w.ident.sid t
    let q := (s.mbObj w.ident.ctx t).phase
    let res (s : State) (v : Word64) (b : Bool) : State :=
      (s.modWarp w.vw (·.modEntry e.seq fun y => { y with scal := [v] })).performed w.vw e b
    match e.instr with
    | .mbinit .. =>
      some (((s.mbOp w.who w.ident.lid t (.init (x.setWidth 16) (x.extractLsb' 16 32)) a).chaffed w e 2 e.pend 0
        (s.slicePlace t) []).performed w.vw e false)
    | .mbexp .. =>
      some (((s.mbOp w.who w.ident.lid t (.exp (x.setWidth 32)) a).chaffed w e 2 e.pend 0 (s.slicePlace t) []).performed w.vw e false)
    | .mbarr .. => some (s.releasing w e fun s =>
      ((s.mbOp w.who w.ident.lid t .arr a).chaffed w e 3 e.pend 0 (s.slicePlace t) []).performed w.vw e true)
    | .mbwait .. => if observes (x.setWidth 32) q then some (s.releasing w e fun s => s.performed w.vw e true) else none
    | .mbwaitCur .. =>
      if e.prog = 0 then
        some (s.modWarp w.vw (·.modEntry e.seq fun y => { y with prog := 1, scal := [q.setWidth 64] }))
      else if observes (x.setWidth 32) q then some (s.releasing w e fun s => s.performed w.vw e true) else none
    | .mbtest .. =>
      -- a test that observes no flip is no boundary (R142)
      if observes (x.setWidth 32) q then some (s.releasing w e fun s => res s 1 true) else some (res s 0 false)
    | _ => some (res s (q.setWidth 64) false)
  | (.ok _, s) => some (fail s 0x13 0)

/-- An operation of this chapter at its place: none while it must wait. -/
def State.syncRun (s : State) (w : Warp) (e : HkEntry) : Option State :=
  match e.instr with
  | .fence .. => some (s.releasing w e fun s => s.performed w.vw e true)
  | .bfence .. =>
    -- every earlier store reaches the stacks (R168)
    if w.bgemvBefore e.seq then none
    else some (s.releasing w e fun s => (s.setMem { s.mem with stale := [] }).performed w.vw e true)
  | .osenter _ cl _ _ =>
    match s.enterFaults w e cl with
    | [] => if s.admissible w e cl then some (s.releasing w e fun s =>
        ((((s.letIn w e cl).noteKeys w e cl).keyRecords w e cl 3).commitSheaf w.ident.sid).performed w.vw e true) else none
    | fl => some (s.faultLanes w e.seq fl Need.atomic 0)
  | .osleave _ cl _ =>
    match s.keyFaults w e cl true with
    | [] => some (s.releasing w e fun s => ((s.leave w e cl).keyRecords w e cl 3).performed w.vw e true)
    | fl => some (s.faultLanes w e.seq fl Need.atomic 0)
  | .osreset _ cl _ _ =>
    match s.keyFaults w e cl false with
    | [] => some ((((s.osReset w e cl).noteKeys w e cl).keyRecords w e cl 8).performed w.vw e false)
    | fl => some (s.faultLanes w e.seq fl Need.atomic 0)
  | .bar _ b =>
    some (s.releasing w e fun s =>
      (s.modSheaf w.ident.sid fun h => h.setBar ((h.bar w.ident.member b.toNat).arrive w.ident.idWarp)).modWarp w.vw
        (·.modEntry e.seq fun x => { x with perf := x.pend }))
  | .phase .. => some (s.releasing w e fun s => s.arrive w e)
  | .mbinit .. | .mbexp .. | .mbarr .. | .mbwait .. | .mbwaitCur .. | .mbtest .. | .mbtestSnap .. => s.mbRun w e
  | _ => none

end Sys2Proof.Machine
end

