-- ==== Sys2Proof/Machine/Copy.lean ====
section
/-! DEFINITION. Bulk copies, 0xD0 (R313 to R315, R163 to R166, R403). A CKICK's entry holds its four request words; each leg of its
delivery is a triple of member, bytes landed and bytes counted. -/

namespace Sys2Proof.Machine

/-! ## Completion counters (R197) -/

/-- A counted transfer issues. -/
def Warp.countUp (w : Warp) (dc : BitVec 3) : Warp :=
  { w with dc := Vector.ofFn fun i : Fin 6 => if i.val + 1 = dc.toNat then w.dc[i] + 1 else w.dc[i] }

/-- A counted transfer completes. -/
def Warp.countDown (w : Warp) (dc : BitVec 3) : Warp :=
  { w with dc := Vector.ofFn fun i : Fin 6 => if i.val + 1 = dc.toNat then w.dc[i] - 1 else w.dc[i] }

/-- Counter select of an instruction. -/
def dcOf : Instr → BitVec 3
  | .ckick _ dc _ | .tspawn _ dc _ _ | .bgemv _ dc _ _ _ _ | .rtrace _ dc _ _ _ _ _ => dc
  | _ => 0

/-- Issue an engine instruction that takes an entry: it counts, and opens its window if it has one. -/
def State.takeEngine (s : State) (w : Warp) (e : HkEntry) : Res := s.takeEntry (w.countUp (dcOf e.instr)) e

/-- The four scalars of a descriptor group. -/
def Warp.quad (w : Warp) (a : R8) : List Word64 := (List.range 4).map fun k => w.sget (a.toNat + k)

/-! ## Requests -/

/-- Fields of a copy request (Table 9.5). -/
structure Copy where
  src : Nat
  dst : Nat
  len : Nat
  grp : Nat
  mc : Bool
  obj : Nat
  named : Bool
  deriving DecidableEq, Repr

def Copy.of (l : List Word64) : Copy :=
  let x (k : Nat) : Word64 := l.getD k 0
  let mc := (x 2).getLsbD 40
  { src := (x 0).toNat, dst := (x 1).toNat, len := fld (x 2) 31 0, grp := fld (x 2) 39 32, mc := mc,
    obj := if mc then fld (x 3) 19 0 else (x 3).toNat, named := if mc then (x 3).getLsbD 20 else x 3 != 0 }

/-- Reserved bits of the request are zero. -/
def copyBits (l : List Word64) : Bool :=
  let x (k : Nat) : Word64 := l.getD k 0
  let mc := (x 2).getLsbD 40
  fld (x 0) 63 56 == 0 && fld (x 1) 63 (if mc then 20 else 56) == 0 && fld (x 2) 63 41 == 0
    && fld (x 3) 63 (if mc then 21 else 56) == 0

/-- Member workgroups of a group of a launch. -/
def Launch.members (l : Launch) (g : Nat) : List Nat :=
  match l.groups.find? (·.idx == g) with
  | none => []
  | some x => if x.all then List.range l.wgs else x.members

/-- The sheaf of a member workgroup. -/
def State.sheafOf (s : State) (l : Launch) (wg : Nat) : Option Sheaf :=
  s.sheaves.find? fun h => h.lid == l.lid && h.kind == .member && !h.trail && h.idx == wg / l.r.wgs

/-- Members that receive a fill issued now (R315): every one whose sheaf has started and has not retired. -/
def State.receivers (s : State) (l : Launch) (g : Nat) : List Nat :=
  (l.members g).filter fun wg => match s.sheafOf l wg with | some h => h.live | none => false

/-- Window address of offset `o` of a member's own area (R105, R106). -/
def State.areaAddr (s : State) (l : Launch) (wg o : Nat) : Nat :=
  let m := wg % l.r.wgs
  0xF0 * 2 ^ 48 + (((s.sheafOf l wg).map (·.orig)).getD 0 + m % l.r.shape) * 2 ^ 20 + m / l.r.shape * l.r.area + o

/-- Copies in flight on a core. -/
def State.copiesOn (s : State) (core : Nat) : Nat :=
  ((s.warps.filter fun w => s.coreOf w == core).map fun w =>
    (w.husk.filter fun e => match e.instr with | .ckick .. => true | _ => false).length).sum

/-- Faults of a request at issue (R311, R313, R315). -/
def Copy.fault (c : Copy) (l : List Word64) (area : Nat) : Option Code8 :=
  if !copyBits l then some 0x02
  else if c.src % 4 != 0 || c.dst % 4 != 0 || (c.named && c.obj % 16 != 0) then some 0x06
  else if decide (2 ^ 30 < c.len) || c.len % 4 != 0 then some 0x02
  else if c.mc && (decide (area ≤ c.dst) || (c.named && decide (area ≤ c.obj))) then some 0x13
  else none

/-- CKICK (R313). -/
def execCkick (g : Guard) (dc : BitVec 3) (a : R8) (s : State) : Host.Outcome State Fault Refusal :=
  s.issue (.ckick g dc a) g [] fun s w P =>
    let q := w.quad a
    let c := Copy.of q
    let area := match s.launch w.ident.lid with | some l => l.r.area | none => 0
    match c.fault q area with
    | some f => .trap f
    | none =>
      if w.huskFull || decide (128 ≤ s.copiesOn (s.coreOf w)) then .hold s
      else
        let (w, P) := w.noTx P
        if P = 0 then .go s w false
        else
          let legs := if c.mc then match s.launch w.ident.lid with
              | some l => (s.receivers l c.grp).map fun m => (m, 0, 0)
              | none => []
            else [(0, 0, 0)]
          s.takeEngine w { (HkEntry.new w (.ckick g dc a) .I P).single P with scal := q, chunks := legs }

/-! ## Landing (R314, R315, R403) -/

/-- Destination and object of a leg. -/
def State.legAt (s : State) (w : Warp) (c : Copy) (member : Nat) : Nat × Nat :=
  if c.mc then match s.launch w.ident.lid with
    | some l => (s.areaAddr l member c.dst, s.areaAddr l member c.obj)
    | none => (c.dst, c.obj)
  else (c.dst, c.obj)

/-- An engine transfer's access to a place outside its sheaf's own slices commits a clean sheaf (R513). -/
def State.engineWrote (s : State) (w : Warp) (t : Target) : State :=
  match t with
  | .scr sid .. => if some sid = (s.leadOf w.ident.sid).map (·.sid) || sid == w.ident.sid then s else s.commitSheaf w.ident.sid
  | _ => s.commitSheaf w.ident.sid

/-- Read one aligned word for an engine transfer: its bytes and poison. -/
def State.engineRead (s : State) (w : Warp) (e : HkEntry) (a : Nat) : Except LFault (List Byte × Bool) × State :=
  let s0 := s
  match s.reachAs w (.xfer w.vw e.seq) 0 e.instr (lowest e.planes) a 4 Need.read with
  | (.error f, s) => (.error f, s)
  | (.ok t, s) =>
    if t.badChunk s.mem then (.error ⟨lowest e.planes, 0x29, a, 0, s.checkAux w.ident.ctx t⟩, s.unrecord s0)
    else match t with
    | .sys .. => match s.loadBytes w e a 4 t false true with
      | (.error (c, x), s) => (.error ⟨lowest e.planes, c, a, 0, x⟩, s.unrecord s0)
      | (.ok (l, p), s) => (.ok (l, p.any id), s)
    | t => (.ok (s.readAt w.ident.ctx t 4), s)

/-- Write one aligned word for an engine transfer; a write to a slice of a pair reaches both copies (R502). `whole` says that the transfer
writes the word's whole chunk, which then takes a new check value; else the home verifies the chunk as it merges (R139). -/
def State.engineWrite (s : State) (w : Warp) (e : HkEntry) (a : Nat) (l : List Byte) (p whole : Bool) :
    Except LFault State × State :=
  let s0 := s
  match s.reachAs w (.xfer w.vw e.seq) 0 e.instr (lowest e.planes) a 4 Need.write with
  | (.error f, s) => (.error f, s)
  | (.ok t, s) =>
    if t.badChunk s.mem && !whole then (.error ⟨lowest e.planes, 0x29, a, 0, s.checkAux w.ident.ctx t⟩, s.unrecord s0)
    else
    let s := s.engineWrote w t
    let s := match t with
      | .dram pa _ => if whole then s.setMem (s.mem.rechecked (pa / 64 * 64) 64) else s
      | _ => s
    match t with
    | .sys .. => match (s.sysSend w e 1 4 p true a t [BitVec.ofNat 64 (ofBytes l)]).peerCause (wordOf e.instr) (awayCauses (pteBit t.pte 6)) with
      | (some (c, x), s) => (.error ⟨lowest e.planes, c, a, 0, x⟩, s.unrecord s0)
      | (none, s) => (.ok s, s)
    | t => (.ok (s.putBytes ⟨w.ident.ctx, some w.ident.core, none⟩ none t l p), s)

/-- Land up to `n` words of a leg from `done` on: bytes landed, and the fault that stops it. -/
def State.landWords (w : Warp) (e : HkEntry) (src dst : Nat) : Nat → Nat → State → Nat × Option (LFault × Need) × State
  | 0, done, s => (done, none, s)
  | n + 1, done, s =>
    match s.engineRead w e (src + done) with
    | (.error f, s) => (done, some (f, Need.read), s)
    | (.ok (l, p), s) =>
      match s.engineWrite w e (dst + done) l p (chunkIn dst (Copy.of e.scal).len ((dst + done) / 64)) with
      | (.error f, s) => (done, some (f, Need.write), s)
      | (.ok s, _) => State.landWords w e src dst n (done + 4) s

/-- Apply an engine arrival of `b` bytes to the object at an address, in both copies of a pair's slice (R160, R501). -/
def State.engineCount (s : State) (w : Warp) (e : HkEntry) (a b : Nat) : Except LFault State × State :=
  match s.translate w.who a 16 Need.atomic with
  | (.error f, s) => (.error ⟨lowest e.planes, f.cause, a, f.level, wordOf e.instr⟩, s)
  | (.ok (.scr sid c o pte), s) =>
    (.ok ((s.touch w.ident.sid (.scr sid c o pte)).mbOp ⟨w.ident.ctx, some w.ident.core, none⟩ w.ident.lid (.scr sid c o pte) (.count b) a), s)
  | (.ok _, s) => (.error ⟨lowest e.planes, 0x13, a, 0, wordOf e.instr⟩, s)

/-- The watermark of a copy: the lowest offset landed over its legs. -/
def HkEntry.watermark (e : HkEntry) (len : Nat) : Nat := e.chunks.foldl (fun a c => min a c.2.1) len

/-- Counts advance to the common watermark, leg by leg. -/
def State.countLegs (s : State) (w : Warp) (e : HkEntry) (c : Copy) : Option LFault × State :=
  let W := e.watermark c.len
  e.chunks.foldl (fun (f, s) leg =>
    match f with
    | some _ => (f, s)
    | none =>
      let set (s : State) : State := s.modWarp w.vw (·.modEntry e.seq fun x =>
        { x with chunks := updIf (·.1 == leg.1) (fun y => (y.1, y.2.1, W)) x.chunks })
      if !c.named || (W == leg.2.2 && c.len != 0) then (none, set s)
      else match s.engineCount w e (s.legAt w c leg.1).2 (W - leg.2.2) with
        | (.error f, s) => (some f, s)
        | (.ok s, _) => (none, set s)) (none, s)

/-- Every byte has landed and every count has been applied. -/
def HkEntry.copyDone (e : HkEntry) (c : Copy) : Bool := e.chunks.all fun x => x.2.1 == c.len && x.2.2 == c.len

/-- The engine delivers up to `bytes` more bytes to one receiving member: the fault that stops it. -/
def State.copyMove (s : State) (w : Warp) (e : HkEntry) (member bytes : Nat) : Option (LFault × Need) × State :=
  let c := Copy.of e.scal
  let have_ := ((e.chunks.find? (·.1 == member)).map (·.2.1)).getD c.len
  let (n, f, s) := State.landWords w e c.src (s.legAt w c member).1 (min (bytes / 4) ((c.len - have_) / 4)) have_ s
  (f, s.modWarp w.vw (·.modEntry e.seq fun x =>
    { x with chunks := updIf (·.1 == member) (fun y => (y.1, n, y.2.2)) x.chunks }))

/-- Bytes that were in flight at a freeze land and are recorded, with no count (R403, R410); none are left when a chunk is empty or is
refused. -/
def State.copyLate (s : State) (w : Warp) (e : HkEntry) (member bytes : Nat) : State :=
  match s.copyMove w e member bytes with
  | (f, s) => if bytes < 4 || f.isSome then s.modWarp w.vw (·.unsend e.seq e.sent) else s

/-- The engine delivers bytes to one receiving member, then counts; a fault leaves the watermark at the last byte landed and is reported on the
entry (R145, R314). -/
def State.copyLand (s : State) (w : Warp) (e : HkEntry) (member bytes : Nat) : State :=
  let c := Copy.of e.scal
  let (f, s) := s.copyMove w e member bytes
  match (s.warp w.vw).bind (·.entry e.seq) with
  | none => s
  | some e1 =>
    let (g, s) := s.countLegs w e1 c
    let s := s.modWarp w.vw (·.modEntry e.seq fun x =>
      { x with prog := x.watermark c.len, pend := if f.isNone && g.isNone && x.copyDone c then 0 else x.pend })
    match f <|> g.map fun g => (g, Need.atomic) with
    | some (f, need) => s.faultLanes w e.seq [f] need 1
    | none => s

end Sys2Proof.Machine
end

