-- ==== Sys2Proof/Machine/Engines.lean ====
section
/-! DEFINITION. Work queues, range tasks and continuations, 0xD1 to 0xD5, and BSTAT, 0xD7 (R316 to R323, R328), as they issue and
at their homes. -/

namespace Sys2Proof.Machine

/-- Words of a register group, captured. -/
def Warp.group (w : Warp) (d : R8) (n : Nat) : List Lanes := (List.range n).map fun j => w.lanes (d.toNat + j)

/-- Every boundary before the entry has been performed (R312). -/
def Warp.boundsDone (w : Warp) (e : HkEntry) : Bool := (w.husk.takeWhile (·.seq != e.seq)).all fun x => x.closes.isNone

/-- An operation with no address faults at its entry, in every lane, with nothing performed (R457). The manual gives no address for it:
`FD.ADDR` is a free value (log entry 10). -/
def State.portFault (s : State) (w : Warp) (e : HkEntry) (c : Code8) (aux : Word64) : State :=
  let (a, s) := s.drawWord
  s.faultLanes w e.seq ((lanesOf e.planes).map fun i => ⟨i, c, a.toNat, 0, aux⟩) Need.write 0

/-! ## ENQ, DEQ and QTRY -/

/-- Queue named by a scalar (R316). -/
def queueNo (x : Word64) : Nat := x.toNat % 256

/-- ENQ (R317). -/
def execEnq (g : Guard) (a b : R8) (s : State) : Host.Outcome State Fault Refusal :=
  s.huskOp (.enq g a b) g [⟨b, 4, tRaw⟩] .D fun w _ e =>
    { e with port := true, data := w.group b 4, scal := [w.sc a] }

/-- DEQ (R318). -/
def execDeq (g : Guard) (la : BitVec 4) (d a : R8) (s : State) : Host.Outcome State Fault Refusal :=
  s.huskOp (.deq g la d a) g [] .D fun w _ e => { e.returns 4 with scal := [w.sc a] }

/-- QTRY (R319). -/
def execQtry (g : Guard) (la : BitVec 4) (d a : R8) (q : BitVec 4) (s : State) : Host.Outcome State Fault Refusal :=
  s.huskOp (.qtry g la d a q) g [] .D fun w _ e => { e.returns 4 with scal := [w.sc a] }

/-- The entry that lane i appends. -/
def HkEntry.item (e : HkEntry) (i : Nat) : BitVec 128 :=
  let x (k : Nat) : Word32 := Lanes.get (e.data.getD k (Lanes.all 0)) i
  (x 3 ++ x 2) ++ (x 1 ++ x 0)

/-- ENQ at the queue's home: the whole batch, or none of it. -/
def State.enqRun (s : State) (w : Warp) (e : HkEntry) : State :=
  let q := queueNo (e.scal.headD 0)
  match s.launch w.ident.lid with
  | none => s
  | some l =>
    if (l.wq q).poisoned then s.portFault w e 0x28 (wordOf e.instr)
    else match s.enqAll w.ident.lid q ((lanesOf e.planes).map e.item) with
    | none => s.portFault w e 0x20 (s.auxQuota l 1 q)
    | some s => ((s.commitSheaf w.ident.sid).chaffed w e 5 e.planes (at_ e.planes.toNat 0) (.queue (q % 8) q) []).performed w.vw e false

/-- Entries taken from the head go to lanes. -/
def HkEntry.receive (e : HkEntry) (lanes : List Nat) (l : List (BitVec 128)) : HkEntry :=
  { e with data := (lanes.zip l).foldl (fun d (i, x) =>
      setLane d i ((List.range 4).map fun k => x.extractLsb' (32 * k) 32)) e.data }

/-- Take the head entries of a queue for the lanes; they stand aside in the chaff record. -/
def State.take (s : State) (w : Warp) (e : HkEntry) (x : WQueue) (lanes : List Nat) : State :=
  let n := lanes.length
  let s := s.chaffed w e 4 (maskOf lanes.contains) (at_ (s.aside w.ident.lid x.q) 0) (.queue (x.q % 8) x.q) (x.ents.take n)
  let s := s.setWq w.ident.lid { x with ents := x.ents.drop n,
                                        parked := x.parked.filter fun p => p != (w.vw, e.seq) }
  let e1 := e.receive lanes (x.ents.take n)
  ((s.commitSheaf w.ident.sid).modWarp w.vw (·.modEntry e.seq fun _ => { e1 with planes := maskOf lanes.contains })).performed
    w.vw e false

/-- Take from a queue once the first `n` entries are home; a page of them that is lost poisons the queue. -/
def State.taking (s : State) (w : Warp) (e : HkEntry) (q n : Nat) (f : State → WQueue → State) : State :=
  let s := s.bringHome w.ident.lid q n 33
  match s.launch w.ident.lid with
  | none => s
  | some l => if (l.wq q).poisoned then s.portFault w e 0x28 (wordOf e.instr) else f s (l.wq q)

/-- DEQ at the home: it takes its entries, or its warp parks behind the DEQs already parked; none when it stays parked. -/
def State.deqRun (s : State) (w : Warp) (e : HkEntry) : Option State :=
  let q := queueNo (e.scal.headD 0)
  match s.launch w.ident.lid with
  | none => none
  | some l =>
    let x := l.wq q
    let me := (w.vw, e.seq)
    if x.poisoned then some (s.portFault w e 0x28 (wordOf e.instr))
    else if (x.parked.isEmpty || x.parked.head? == some me) && decide (count e.planes ≤ x.ents.length) then
      some (s.taking w e q (count e.planes) fun s x => s.take w e x (lanesOf e.planes))
    else if x.parked.contains me then none
    else
      let s := s.setWq w.ident.lid { x with parked := x.parked ++ [me] }
      let s := s.modWarp w.vw fun w => { w.endTurn.modEntry e.seq (fun x => { x with parked := true }) with slot := .parked }
      some { s with focus := if s.focus = some w.vw then none else s.focus }

/-- QTRY at the home. -/
def State.qtryRun (s : State) (w : Warp) (e : HkEntry) : State :=
  let q := queueNo (e.scal.headD 0)
  match s.launch w.ident.lid with
  | none => s
  | some l =>
    let x := l.wq q
    if x.poisoned then s.portFault w e 0x28 (wordOf e.instr)
    else
      let L := if x.parked.isEmpty then (lanesOf e.planes).take x.ents.length else []
      s.taking w e q L.length fun s x => s.take w e x L

/-! ## TSPAWN and CONT -/

/-- Number of roles of a warp's launch. -/
def State.roles (s : State) (w : Warp) : Nat := match s.launch w.ident.lid with | some l => l.r.roles.length | none => 0

/-- TSPAWN (R320). -/
def execTspawn (g : Guard) (dc : BitVec 3) (a b : R8) (s : State) : Host.Outcome State Fault Refusal :=
  s.issue (.tspawn g dc a b) g [] fun s w P =>
    let q := w.quad a
    let x (k : Nat) : Word64 := q.getD k 0
    if fld (x 0) 63 56 != 0 || fld (x 3) 63 18 != 0 then .trap 0x02
    else if fld (x 0) 2 0 != 0 then .trap 0x06
    else if s.roles w ≤ fld (x 3) 17 16 then .trap 0x02
    else if w.huskFull then .hold s
    else
      let (w, P) := w.noTx P
      if P = 0 then .go s w false
      else if (x 2).ule (x 1) then .go s w.tick false
      else s.takeEngine w { (HkEntry.new w (.tspawn g dc a b) .D P).single P with port := true, scal := q ++ w.quad b }

/-- A task enters its store. A counted TSPAWN holds its entry until the task completes. -/
def State.tspawnRun (s : State) (w : Warp) (e : HkEntry) : State :=
  let x (k : Nat) : Word64 := e.scal.getD k 0
  let (id, s1) := s.fresh
  let die := dieOf (s.coreOf w)
  let t : Task := { id := id, die := die, vw := w.vw, seq := e.seq, pc := (x 0).toNat, lo := (x 1).toNat, hi := (x 2).toNat,
                    grain := fld (x 3) 15 0, role := fld (x 3) 17 16, args := e.scal.drop 4, running := [], whole := false }
  match s.launch w.ident.lid with
  | none => s
  | some l => match s1.taskIn w.ident.lid t with
    | none => s.portFault w e 0x20 (s.auxQuota l 3 die)
    | some s =>
      let s := (s.commitSheaf w.ident.sid).chaffed w e 5 e.pend 0 (.tasks die) []
      if dcOf e.instr = 0 then s.performed w.vw e false
      else s.modWarp w.vw (·.modEntry e.seq fun y => { y with perf := y.pend })

/-- CONT (R323). -/
def execCont (g : Guard) (a b : R8) (n : BitVec 4) (r : BitVec 2) (s : State) : Host.Outcome State Fault Refusal :=
  s.issue (.cont g a b n r) g [⟨a, 2, tRaw⟩] fun s w P =>
    if s.roles w ≤ r.toNat then .trap 0x02
    else if !(lanesOf P).all fun i => targetOk (w.ln64 a i) then .trap 0x06
    else if w.huskFull then .hold s
    else
      let (w, P) := w.noTx P
      if P = 0 then .go s w false
      else
        let tags := (List.range n.toNat).map fun j => (w.tag (b.toNat + j)).setWidth 64
        s.takeEntry w { HkEntry.new w (.cont g a b n r) .D P with
          port := true, addr := of64 (w.ln64 a), data := w.group b n.toNat, scal := tags }

/-- Tiller of lane i of a CONT. -/
def HkEntry.tiller (e : HkEntry) (role i : Nat) : Tiller :=
  ⟨(lane64 e.addr i).toNat, role, 0, e.data.zipIdx.map fun (x, j) => (Lanes.get x i, (e.scal.getD j 0).setWidth 4)⟩

/-- Tillers reach the winnower of the issuing core's die: all of them, or none. -/
def State.contRun (s : State) (w : Warp) (e : HkEntry) (role : Nat) : State :=
  let die := dieOf (s.coreOf w)
  let r := (lanesOf e.planes).foldl (fun s i => s.bind fun s : State => s.tillerIn die w.ident.lid (e.tiller role i)) (some s)
  match r, s.launch w.ident.lid with
  | some s, _ => ((s.commitSheaf w.ident.sid).chaffed w e 5 e.pend 0 (.winnower die) []).performed w.vw e false
  | none, some l => s.portFault w e 0x20 (s.auxQuota l 2 die)
  | none, none => s

/-! ## BSTAT -/

/-- BSTAT (R328). -/
def execBstat (g : Guard) (la : BitVec 4) (q : BQ) (d : R8) (s : State) : Host.Outcome State Fault Refusal :=
  s.huskOp (.bstat g la q d) g [] .I fun _ P e => e.single P

/-- BGEMVs of a warp not yet complete. -/
def Warp.bgemvs (w : Warp) : Nat := (w.husk.filter fun x => match x.instr with | .bgemv .. => true | _ => false).length

/-- Value of a query (Table 9.9). -/
def State.bstatValue (s : State) (w : Warp) (q : BQ) : Word64 :=
  match q, s.launch w.ident.lid with
  | .busy, _ => BitVec.ofNat 64 w.bgemvs
  | .rows, some l => BitVec.ofNat 64 l.rows
  | .rayinv, some l => BitVec.ofNat 64 l.rayinv
  | .rays, some l => BitVec.ofNat 64 l.rays
  | _, none => 0

/-! ## At their homes -/

/-- A result that comes at once. -/
def State.answer (s : State) (w : Warp) (e : HkEntry) (v : Word64) : State :=
  (s.modWarp w.vw (·.modEntry e.seq fun y => { y with scal := [v] })).performed w.vw e false

/-- A port or query operation at its home: none while it must wait. -/
def State.portRun (s : State) (w : Warp) (e : HkEntry) : Option State :=
  if e.undone = 0 || e.state != .outstanding then none
  else match e.instr with
  | .enq .. => if w.boundsDone e then some (s.enqRun w e) else none
  | .deq .. => s.deqRun w e
  | .qtry .. => some (s.qtryRun w e)
  | .tspawn .. => if w.boundsDone e then some (s.tspawnRun w e) else none
  | .cont _ _ _ _ r => if w.boundsDone e then some (s.contRun w e r.toNat) else none
  | .bstat _ _ q _ => some (s.answer w e (s.bstatValue w q))
  | .grpq _ _ q _ g => some (s.answer w e (s.grpqValue w q g.toNat))
  | _ => none

end Sys2Proof.Machine
end

