-- ==== Sys2Proof/Machine/Block.lean ====
section
/-! DEFINITION. Block floating point (R86 to R89), register images (Table 3.11), and quantising a block (R88). -/

namespace Sys2Proof.Machine

/-- Element width, magnitude width and depth of a block format (Table 3.9). -/
def bxW : BxFmt → Nat
  | .x8 => 8 | .x6 => 6 | .x4 => 4
def bxM : BxFmt → Nat
  | .x8 => 6 | .x6 => 4 | .x4 => 2
def bxD : BxFmt → Nat
  | .x8 => 2 | .x6 => 2 | .x4 => 1

/-- Format tag of a block format. -/
def bxTag : BxFmt → Tag
  | .x8 => 9 | .x6 => 10 | .x4 => 11

/-- Exponent of one unit of magnitude under exponent byte `e`; 0xFF reads as 254 (R86, R87). -/
def bxExp (f : BxFmt) (e : Nat) : Int := (min e 254 : Nat) - 127 - (bxM f - 1)

/-- The value of an element code: sign, magnitude, exponent (R86). -/
def bxValue (f : BxFmt) (code ea eb : Nat) : FV :=
  let w := bxW f
  let mag := code % 2 ^ bxM f
  let e := bxExp f (if code.testBit (w - 1) then eb else ea)
  if mag = 0 then .fin false 0 0 else .fin (code.testBit (w - 2)) mag e

/-- A nonnegative dyadic number. -/
abbrev Mag := Nat × Int

/-- Magnitude of an input, ∞ standing for 2^128; none for a NaN (R88). -/
def magIn : FV → Option Mag
  | .nan _ => none
  | .inf _ => some (1, 128)
  | .fin _ m e => some (m, e)

def magLt (a b : Mag) : Bool :=
  let q := min a.2 b.2
  decide (a.1 * 2 ^ (a.2 - q).toNat < b.1 * 2 ^ (b.2 - q).toNat)

def magMax (l : List Mag) : Mag := l.foldl (fun a b => if magLt a b then b else a) (0, 0)

/-- rne(m / scale(e)). -/
def bxUnits (f : BxFmt) (m : Mag) (e : Nat) : Nat := (roundTo .ne false m.1 m.2 (bxExp f e)).1

/-- fit(m): the least exponent byte under which the magnitude fits, 254 when none. -/
def bxFit (f : BxFmt) (m : Mag) : Nat :=
  ((List.range 255).find? fun e => decide (bxUnits f m e ≤ 2 ^ bxM f - 1)).getD 254

/-- Distance between a magnitude and q units under exponent byte e. -/
def bxErr (f : BxFmt) (m : Mag) (q e : Nat) : Mag :=
  let x := bxExp f e
  let lo := min m.2 x
  (((m.1 * 2 ^ (m.2 - lo).toNat : Nat) - (q * 2 ^ (x - lo).toNat : Nat) : Int).natAbs, lo)

/-- One element of a block: code and flags (R88). -/
def bxElem (f : BxFmt) (ea eb : Nat) (x : FV) : Nat × FlagSet :=
  match magIn x with
  | none => (0, fNV)
  | some m =>
    let mx := 2 ^ bxM f - 1
    let qa := min (bxUnits f m ea) mx
    let qb := min (bxUnits f m eb) mx
    let useB := magLt (bxErr f m qb eb) (bxErr f m qa ea)
    let (q, e) := if useB then (qb, eb) else (qa, ea)
    let fl := flagIf (match x with | .inf _ => true | _ => false) fNV ||| flagIf (decide (mx < bxUnits f m e)) fSAT
      ||| flagIf ((bxErr f m q e).1 != 0) fNX
    let sel := if q = 0 then 0 else b2n useB
    let sg := if q = 0 then 0 else b2n x.neg?
    (q + sg * 2 ^ (bxW f - 2) + sel * 2 ^ (bxW f - 1), fl)

/-- VBXQ's block: codes, EA, EB, flags (R88). -/
def bxQuant (f : BxFmt) (x : List FV) : List Nat × Nat × Nat × FlagSet :=
  let live := (x.filterMap magIn).filter fun m => m.1 != 0
  let ea := if live.isEmpty then 0 else bxFit f (magMax live)
  let deep := live.filter fun m => magLt m (1, (ea : Int) - 127 - bxD f)
  let eb := if deep.isEmpty then ea else bxFit f (magMax deep)
  let r := x.map (bxElem f ea eb)
  (r.map (·.1), ea, eb, r.foldl (fun a y => a ||| y.2) 0)

/-! ## Register images (Table 3.11, R243, R245) -/

/-- Lane and bit of bit `k` from the top of element `e` in half-group `h` of group `g`; `six` for the BX6 arrangement. -/
def planeAt (six : Bool) (g h k e : Nat) : Nat × Nat := ((if six then 12 else 8) * g + 2 * k + h, e)

/-- Lane and bit of bit `j` of element `e` of block `b`. -/
def bxAt (f : BxFmt) (b e j : Nat) : Nat × Nat :=
  match f with
  | .x8 => (8 * b + e / 4, 8 * (e % 4) + j)
  | .x6 => planeAt true (b / 2) (b % 2) (5 - j) e
  | .x4 => planeAt false (b / 2) (b % 2) (3 - j) e

/-- Element `e` of block `b` of an image. -/
def bxGet (f : BxFmt) (img : Lanes) (b e : Nat) : Nat :=
  (List.range (bxW f)).foldl (fun a j =>
    let (l, i) := bxAt f b e j
    a + b2n ((Lanes.get img l).getLsbD i) * 2 ^ j) 0

/-- The lanes that a block's codes fill in an image, with their words. -/
def bxLanes (f : BxFmt) (b : Nat) (codes : List Nat) : Mask × Lanes :=
  let bits := (List.range 32).flatMap fun e => (List.range (bxW f)).map fun j => (bxAt f b e j, (codes.getD e 0).testBit j)
  let m := maskOf fun l => bits.any fun x => x.1.1 == l
  (m, Lanes.of fun l => bits.foldl (fun a x =>
    if x.1.1 = l && x.2 then a ||| (1#32 <<< x.1.2) else a) 0)

end Sys2Proof.Machine
end

