-- ==== Sys2Proof/Machine/Convert.lean ====
section
/-! DEFINITION. Conversion and format instructions, 0x80 to 0x87 (R241 to R246). -/

namespace Sys2Proof.Machine

/-- A conversion of one lane value: from the source's bits to the destination's (R83, R84, R241). -/
def cvtLane (cv : Cvt) (rm : RM) (x : Nat) : Nat × FlagSet :=
  let ofI (sgn : Bool) (f : FFmt) : Nat × FlagSet := f.put rm (FV.ofInt (elem sgn 32 0 (BitVec.ofNat 32 x)))
  let toI (sgn : Bool) (f : FFmt) : Nat × FlagSet :=
    let (v, fl) := (f.value x).toInt rm sgn 32
    ((v % 2 ^ 32).toNat, fl)
  match cv with
  | .f32i32 => ofI true F32
  | .f32u32 => ofI false F32
  | .f64i32 => ofI true F64
  | .f64u32 => ofI false F64
  | .i32f32 => toI true F32
  | .u32f32 => toI false F32
  | .i32f64 => toI true F64
  | .u32f64 => toI false F64
  | .f64f32 => F64.put rm (F32.value x)
  | .f32f64 => F32.put rm (F64.value x)

/-- Tags of the source and of the result of a VCVT. -/
def cvtSrcTags : Cvt → List Nat
  | .f32i32 | .f32u32 | .f64i32 | .f64u32 => tInt
  | .i32f32 | .u32f32 | .f64f32 => tF32
  | .i32f64 | .u32f64 | .f32f64 => tF64
def cvtTag : Cvt → Tag
  | .f32i32 | .f32u32 | .f32f64 => 3
  | .f64i32 | .f64u32 | .f64f32 => 4
  | .i32f32 | .i32f64 => 1
  | .u32f32 | .u32f64 => 2

/-- VCVT (R241). -/
def execVcvt (g : Guard) (cv : Cvt) (m : Rnd) (d a : R8) (s : State) : Host.Outcome State Fault Refusal :=
  let src : List Src := [⟨a, dblRegs cv.dblS, cvtSrcTags cv⟩]
  let r (w : Warp) (j : Nat) : Nat × FlagSet :=
    cvtLane cv (rndMode w.rm m) (if cv.dblS then (w.ln64 a j).toNat else (w.ln a j).toNat)
  if cv.dblD then
    s.vop2 (.vcvt g cv m d a) g src d (cvtTag cv) fun w j => (BitVec.ofNat 64 (r w j).1, (r w j).2)
  else s.vopF (.vcvt g cv m d a) g src d (cvtTag cv) fun w j => (BitVec.ofNat 32 (r w j).1, (r w j).2)

/-- Element format of a packed floating-point format; none for the integer ones (Table 7.8). -/
def packF : PackFmt → Option FFmt
  | .h2 => some F16
  | .bf2 => some BF16
  | .e4 => some E4M3
  | .e5 => some E5M2
  | .i8 | .i16 => none

/-- Packed tag (Table 7.8). -/
def packTag : PackFmt → Tag
  | .h2 => 5 | .bf2 => 6 | .e4 => 7 | .e5 => 8 | .i8 => 12 | .i16 => 13

/-- Bits of one element. -/
def packW (f : PackFmt) : Nat := 32 / f.n

/-- Tags and tag of the wide side. -/
def wideTags (f : PackFmt) : List Nat := if (packF f).isSome then tF32 else tInt
def wideTag (f : PackFmt) : Tag := if (packF f).isSome then 3 else 1

/-- One element narrowed. -/
def packElem (f : PackFmt) (rm : RM) (x : Word32) : Nat × FlagSet :=
  match packF f with
  | some ff => ff.put rm (F32.value x.toNat)
  | none =>
    let (v, fl) := clampTo true (packW f) x.toInt
    ((v % 2 ^ packW f).toNat, fl)

/-- VPACK (R242). -/
def execVpack (g : Guard) (f : PackFmt) (m : Rnd) (d a : R8) (s : State) : Host.Outcome State Fault Refusal :=
  s.vopF (.vpack g f m d a) g [⟨a, f.n, wideTags f⟩] d (packTag f) fun w j =>
    let r := (List.range f.n).map fun k => packElem f (rndMode w.rm m) (w.ln (nextReg a k) j)
    (BitVec.ofNat 32 (r.foldr (fun x acc => acc * 2 ^ packW f + x.1) 0), r.foldl (fun x y => x ||| y.2) 0)

/-- One element widened. -/
def unpackElem (f : PackFmt) (k : Nat) (x : Word32) : Word32 × FlagSet :=
  let e := x.toNat / 2 ^ (packW f * k) % 2 ^ packW f
  match packF f with
  | some ff =>
    let (y, fl) := F32.put .ne (ff.value e)
    (BitVec.ofNat 32 y, fl)
  | none => (BitVec.ofInt 32 (elem true (packW f) k x), 0)

/-- VUNPACK (R242). -/
def execVunpack (g : Guard) (f : PackFmt) (d a : R8) (s : State) : Host.Outcome State Fault Refusal :=
  s.issue (.vunpack g f d a) g [⟨a, 1, [0, (packTag f).toNat]⟩] fun s w P =>
    let w1 := (List.range f.n).foldl (fun v k =>
      v.putV (nextReg d k) P (wideTag f) fun j => (unpackElem f k (w.ln a j)).1) w
    .go s (w1.flags (laneFlags P fun j => (List.range f.n).foldl (fun x k => x ||| (unpackElem f k (w.ln a j)).2) 0)) false

/-- VBXQ (R243): all 32 lanes contribute. Of two results in one register, that of ve stands (log entry 94). -/
def execVbxq (g : Guard) (f : BxFmt) (blk : BitVec 3) (d e a : R8) (s : State) : Host.Outcome State Fault Refusal :=
  s.issue (.vbxq g f blk d e a) g [⟨a, 1, tF32⟩] fun s w _ =>
    let b := blk.toNat
    let (codes, ea, eb, fl) := bxQuant f ((List.range 32).map fun j => F32.value (w.ln a j).toNat)
    let (m, x) := bxLanes f b codes
    let m := if f = .x6 then m ||| 0xFF000000 else m
    let w1 := (w.vset d.toNat m x (bxTag f)).vset e.toNat (maskOf (· == b)) (Lanes.of fun _ => BitVec.ofNat 32 (ea + 256 * eb)) 0
    .go s (w1.flags fl) false

/-- VBXD (R244). -/
def execVbxd (g : Guard) (f : BxFmt) (blk : BitVec 3) (d a e : R8) (s : State) : Host.Outcome State Fault Refusal :=
  s.vop (.vbxd g f blk d a e) g [⟨a, 1, [0, (bxTag f).toNat]⟩, ⟨e, 1, tRaw⟩] d 3 fun w j =>
    let x := (w.ln e blk.toNat).toNat
    let v := bxValue f (bxGet f (w.lanes a.toNat) blk.toNat j) (x % 256) (x / 256 % 256)
    BitVec.ofNat 32 (F32.put .ne v).1

/-- Width, tag and arrangement of a plane format (R245). -/
def plW : PlFmt → Nat
  | .x6 => 6
  | .x4 | .i4 => 4
def plTag : PlFmt → Tag
  | .x6 => 10 | .x4 => 11 | .i4 => 14
def plSix (f : PlFmt) : Bool := f == .x6

/-- VPLANE (R245). -/
def execVplane (g : Guard) (f : PlFmt) (d a : R8) (s : State) : Host.Outcome State Fault Refusal :=
  s.issue (.vplane g f d a) g [⟨a, f.q, tRaw⟩] fun s w _ =>
    let n := plW f
    let per := if plSix f then 12 else 8
    let x := Lanes.of fun l =>
      if plSix f && decide (24 ≤ l) then 0
      else
        let k := l % per / 2
        bitsOf 32 fun i => (w.ln (nextReg a (2 * (l / per) + l % 2)) i).getLsbD (n - 1 - k)
    .go s (w.vset d.toNat (BitVec.allOnes 32) x (plTag f)) false

/-- VUNPLANE (R245). -/
def execVunplane (g : Guard) (f : PlFmt) (d a : R8) (s : State) : Host.Outcome State Fault Refusal :=
  s.issue (.vunplane g f d a) g [⟨a, 1, [0, (plTag f).toNat]⟩] fun s w _ =>
    let n := plW f
    let code (r i : Nat) : Nat := (List.range n).foldl (fun acc j =>
      acc + b2n ((w.ln a (planeAt (plSix f) (r / 2) (r % 2) (n - 1 - j) i).1).getLsbD i) * 2 ^ j) 0
    let val (r i : Nat) : Word32 :=
      if f = .i4 then (BitVec.ofNat 4 (code r i)).signExtend 32 else BitVec.ofNat 32 (code r i)
    .go s ((List.range f.q).foldl (fun v r =>
      v.vset (d.toNat + r) (BitVec.allOnes 32) (Lanes.of (val r)) (if f = .i4 then 1 else 0)) w) false

/-- VTAG: a poisoned source stays poisoned (R246). -/
def execVtag (g : Guard) (d a : R8) (tag : Tag) (s : State) : Host.Outcome State Fault Refusal :=
  s.issue (.vtag g d a tag) g [⟨a, 1, tAny⟩] fun s w P =>
    .go s (w.putV d P (if w.tag a.toNat = 15 then 15 else tag) fun j => w.ln a j) false

end Sys2Proof.Machine
end

