-- ==== Sys2Proof/Machine/Matrix.lean ====
section
/-! DEFINITION. Accumulators and the matrix engine, 0xE0 to 0xE7 (R298 to R309): configuration, the K-step of MLOOP and MCOOP
(R95 to R97, R302, R303, R126), and the joins. -/

namespace Sys2Proof.Machine

/-! ## Step shapes (Table 9.1) -/

/-- Step depth K. -/
def matK : Ty → Nat
  | .f64 => 8
  | .f32 => 1
  | .h2 | .bf2 => 4
  | .x4 => 32
  | _ => 16

/-- Accumulator tag that a step of the type updates. -/
def matTag : Ty → Tag
  | .f64 => 4
  | .i8 => 1
  | _ => 3

/-- Rows of B, and columns of the output tile. -/
def matRows : Ty → Nat
  | .f64 => 16
  | _ => 32

/-- The pairs of types that are rows of Table 9.1. -/
def matPair (a b : Ty) : Bool :=
  match a with
  | .f64 | .f32 | .h2 | .bf2 | .i8 | .x8 | .x6 | .x4 => a == b
  | .e4 | .e5 => b == .e4 || b == .e5
  | _ => false

/-- Types of a configuration. -/
def MatCfg.ta (c : MatCfg) : Ty := (Ty.of c.aty).getD .f32
def MatCfg.tb (c : MatCfg) : Ty := (Ty.of c.bty).getD .f32

/-! ## Configuration (R300, R301) -/

/-- MCFG, minor 0: a pair that is no row of Table 9.1 is refused. -/
def execMcfgTy (g : Guard) (ta tb : Ty) (s : State) : Host.Outcome State Fault Refusal :=
  s.issue (.mcfgTy g ta tb) g [] fun s w _ =>
    if matPair ta tb then .go s { w with cfg := { w.cfg with aty := ta.code, bty := tb.code } } false else .trap 0x01

/-- A minor that sets an address: bits [63:56] of it must be zero. -/
def State.mcfg (s : State) (i : Instr) (g : Guard) (a b : R8) (f : MatCfg → BitVec 56 → Word32 → MatCfg) :
    Host.Outcome State Fault Refusal :=
  s.issue i g [] fun s w _ =>
    if (w.sc a).extractLsb' 56 8 != 0 then .trap 0x13
    else .go s { w with cfg := f w.cfg ((w.sc a).setWidth 56) ((w.sc b).setWidth 32) } false

def execMcfgA (g : Guard) (a b : R8) (s : State) : Host.Outcome State Fault Refusal :=
  s.mcfg (.mcfgA g a b) g a b fun c x y => { c with abase := x, astr := y }
def execMcfgB (g : Guard) (a b : R8) (s : State) : Host.Outcome State Fault Refusal :=
  s.mcfg (.mcfgB g a b) g a b fun c x y => { c with bbase := x, bstr := y }
def execMcfgAx (g : Guard) (a b : R8) (s : State) : Host.Outcome State Fault Refusal :=
  s.mcfg (.mcfgAx g a b) g a b fun c x y => { c with axb := x, axs := y }
def execMcfgBx (g : Guard) (a b : R8) (s : State) : Host.Outcome State Fault Refusal :=
  s.mcfg (.mcfgBx g a b) g a b fun c x y => { c with bxb := x, bxs := y }
def execMcfgK (g : Guard) (a : R8) (s : State) : Host.Outcome State Fault Refusal :=
  s.issue (.mcfgK g a) g [] fun s w _ => .go s { w with cfg := { w.cfg with kpos := (w.sc a).setWidth 32 } } false

/-- Bytes of an element held as bytes. -/
def elemBytes : Ty → Nat
  | .f64 => 8
  | .f32 => 4
  | .h2 | .bf2 => 2
  | _ => 1

/-- Planes of an element held as planes. -/
def planesOf : Ty → Nat
  | .x4 => 4
  | .x6 => 6
  | _ => 0

/-- Alignment of a row base. -/
def rowAlign (t : Ty) : Nat := if planesOf t = 0 then elemBytes t else 8

/-- Every row base of A and of B is aligned (R302). -/
def MatCfg.rowsOk (c : MatCfg) : Bool :=
  let ok (t : Ty) (b : BitVec 56) (str : Word32) : Bool := b.toNat % rowAlign t == 0 && str.toNat % rowAlign t == 0
  ok c.ta c.abase c.astr && ok c.tb c.bbase c.bstr

/-! ## MLOOP and MCOOP as they issue (R303, R309) -/

/-- Accumulator that an MLOOP or MCOOP updates. -/
def accOf : Instr → Option Nat
  | .mloop _ d _ _ | .mcoop _ d _ _ _ _ _ => some d.toNat
  | _ => none

/-- An MLOOP or MCOOP on the accumulator is in the husk. -/
def Warp.accBusy (w : Warp) (d : Nat) : Bool := w.husk.any fun e => accOf e.instr == some d

/-- Issue an MLOOP or MCOOP of `n` steps: the accumulator's tag is checked, an unbound name is bound, and `MC.KPOS` moves. -/
def State.loopOp (s : State) (i : Instr) (g : Guard) (acc : BitVec 4) (noinc : Bool) (count : Warp → Nat) :
    Host.Outcome State Fault Refusal :=
  s.issue i g [] fun s w P =>
    if w.huskFull then .hold s
    else
      let d := acc.toNat
      let a := w.accGet d
      let n := count w
      if a.tag = 15 then .trap 0x28
      else if a.tag != matTag w.cfg.ta then .trap 0x04
      else if !w.cfg.rowsOk then .trap 0x06
      else
        let e := { (HkEntry.new w i .I P).single P with scal := [BitVec.ofNat 64 n] }
        let w := (w.take e).accSet d { a with bound := true }
        let k := if noinc then w.cfg.kpos else w.cfg.kpos + BitVec.ofNat 32 (n * matK w.cfg.ta)
        .go s { w with cfg := { w.cfg with kpos := k } } false

def execMloop (g : Guard) (acc : BitVec 4) (n : MCnt) (noinc : Bool) (s : State) : Host.Outcome State Fault Refusal :=
  s.loopOp (.mloop g acc n noinc) g acc noinc fun w => match n with
    | .imm n => n.toNat
    | .reg a => (w.sc a).toNat % 2 ^ 16

def execMcoop (g : Guard) (acc : BitVec 4) (a : R8) (ti : BitVec 2) (tj : BitVec 4) (id : BitVec 3) (noinc : Bool)
    (s : State) : Host.Outcome State Fault Refusal :=
  s.loopOp (.mcoop g acc a ti tj id noinc) g acc noinc fun w => (w.sc a).toNat % 2 ^ 16

/-! ## Operand rows (R302) -/

/-- An operand of an entry: type, base and stride of its rows and of their exponent streams, first row, rows. -/
structure Operand where
  ty : Ty
  base : Nat
  str : Nat
  xb : Nat
  xs : Nat
  first : Nat
  rows : Nat
  deriving DecidableEq, Repr

/-- First rows of A and B: those of an MCOOP's tile (R309). -/
def tileOf (i : Instr) (nb : Nat) : Nat × Nat :=
  match i with
  | .mcoop _ _ _ ti tj _ _ => (32 * ti.toNat, nb * tj.toNat)
  | _ => (0, 0)

def HkEntry.opA (e : HkEntry) : Operand :=
  ⟨e.cfg.ta, e.cfg.abase.toNat, e.cfg.astr.toNat, e.cfg.axb.toNat, e.cfg.axs.toNat, (tileOf e.instr 0).1, 32⟩
def HkEntry.opB (e : HkEntry) : Operand :=
  let nb := matRows e.cfg.ta
  ⟨e.cfg.tb, e.cfg.bbase.toNat, e.cfg.bstr.toNat, e.cfg.bxb.toNat, e.cfg.bxs.toNat, (tileOf e.instr nb).2, nb⟩

/-- Block format of a type. -/
def bxOf : Ty → Option BxFmt
  | .x8 => some .x8
  | .x6 => some .x6
  | .x4 => some .x4
  | _ => none

/-- A span of bytes that a step uses: its address and length, and the unused bytes before and after it in its plane word. -/
structure Span where
  a : Nat
  n : Nat
  pre : Nat
  post : Nat
  deriving DecidableEq, Repr

/-- Spans of the data of elements k0 to k0 + K − 1 of a row at `b`: of planes, the bytes of each plane word that hold bits of them (R90). -/
def dataSpans (t : Ty) (b k0 K : Nat) : List Span :=
  if planesOf t = 0 then [⟨b + k0 * elemBytes t, K * elemBytes t, 0, 0⟩]
  else
    let last := k0 + K - 1
    (List.range (last / 64 - k0 / 64 + 1)).flatMap fun j =>
      let g := k0 / 64 + j
      let lo := (max k0 (64 * g) - 64 * g) / 8
      let hi := (min last (64 * g + 63) - 64 * g) / 8
      (List.range (planesOf t)).map fun k => ⟨b + g * 8 * planesOf t + 8 * k + lo, hi - lo + 1, lo, 7 - hi⟩

/-- The span of their exponents, in the stream at `x` (R91). -/
def expSpans (t : Ty) (x k0 K : Nat) : List Span :=
  if (bxOf t).isSome then [⟨x + 2 * (k0 / 32), 2 * ((k0 + K - 1) / 32 - k0 / 32 + 1), 0, 0⟩] else []

/-- The code of element e from the bytes of its plane groups, the first of which is number g0 (R90). -/
def planeCode (n g0 e : Nat) (l : List Byte) : Nat :=
  (List.range n).foldl (fun a k =>
    2 * a + b2n ((ofBytes ((l.drop (8 * (n * (e / 64 - g0) + k))).take 8)).testBit (e % 64))) 0

/-- Elements k0 to k0 + K − 1 as values, from their bytes `l` and exponent bytes `x`. -/
def elemVals (t : Ty) (k0 K : Nat) (l x : List Byte) : List FV :=
  (List.range K).map fun j =>
    let e := k0 + j
    let code := if planesOf t = 0 then ofBytes ((l.drop (j * elemBytes t)).take (elemBytes t))
      else planeCode (planesOf t) (k0 / 64) e l
    match bxOf t with
    | some f =>
      let b := 2 * (e / 32 - k0 / 32)
      bxValue f code ((x.getD b 0).toNat) ((x.getD (b + 1) 0).toNat)
    | none => match t with
      | .f64 => F64.value code
      | .f32 => F32.value code
      | .h2 => F16.value code
      | .bf2 => BF16.value code
      | .e4 => E4M3.value code
      | .e5 => E5M2.value code
      | _ => FV.ofInt (elem true 8 0 (BitVec.ofNat 32 code))

/-- Pieces of a span, one aligned word or part of it each. -/
def rowPieces (a n : Nat) : List (Nat × Nat) := (spanWords a n).map fun x => (max a x, min (a + n) (x + 4) - max a x)

/-- Read a span as ordinary reads of the issuing warp, word by word (R122, R302): bytes, and whether a word is poisoned. -/
def State.warpRead (s : State) (w : Warp) (e : HkEntry) (a n : Nat) : Except LFault (List Byte × Bool) × State :=
  (rowPieces a n).foldl (fun (r, s) (b, k) =>
    match r with
    | .error f => (.error f, s)
    | .ok (l, p) =>
      let s0 := s
      -- alignment is that of a byte
      match s.reachAs w (.warp w.vw) e.region e.instr (lowest e.planes) b 1 Need.read with
      | (.error f, s) => (.error f, s)
      | (.ok t0, s) =>
        if t0.badChunk s.mem then (.error ⟨lowest e.planes, 0x29, b, 0, s.checkAux w.ident.ctx t0⟩, s.unrecord s0)
        else
          match s.loadBytes w e b k t0 true false with
          | (.error (c, x), s) => (.error ⟨lowest e.planes, c, b, 0, x⟩, s.unrecord s0)
          | (.ok (m, q), s) => (.ok (l ++ m, p || q.any id), s)) (.ok ([], false), s)

/-- Read spans one after another: their bytes, with zeros for those that are not used, and whether a word is poisoned. -/
def State.spansRead (s : State) (w : Warp) (e : HkEntry) (l : List Span) : Except LFault (List Byte × Bool) × State :=
  l.foldl (fun (r, s) x =>
    match r with
    | .error f => (.error f, s)
    | .ok (b, p) => match s.warpRead w e x.a x.n with
      | (.error f, s) => (.error f, s)
      | (.ok (m, q), s) => (.ok (b ++ List.replicate x.pre 0 ++ m ++ List.replicate x.post 0, p || q), s)) (.ok ([], false), s)

/-- Values of a row for one step, and whether a word was poisoned. -/
def State.rowRead (s : State) (w : Warp) (e : HkEntry) (o : Operand) (row k0 K : Nat) :
    Except LFault (List FV × Bool) × State :=
  let b := o.base + (o.first + row) * o.str
  if b % rowAlign o.ty != 0 then (.error ⟨lowest e.planes, 0x06, b, 0, wordOf e.instr⟩, s)
  else match s.spansRead w e (dataSpans o.ty b k0 K) with
  | (.error f, s) => (.error f, s)
  | (.ok (l, p), s) => match s.spansRead w e (expSpans o.ty (o.xb + (o.first + row) * o.xs) k0 K) with
    | (.error f, s) => (.error f, s)
    | (.ok (x, q), s) => (.ok (elemVals o.ty k0 K l x, p || q), s)

/-- Every row of an operand for one step, each with its poison; a fault says how many rows were fetched. -/
def State.rowsRead (s : State) (w : Warp) (e : HkEntry) (o : Operand) (k0 K : Nat) :
    Except (LFault × Nat) (List (List FV × Bool)) × State :=
  (List.range o.rows).foldl (fun (r, s) row =>
    match r with
    | .error f => (.error f, s)
    | .ok l => match s.rowRead w e o row k0 K with
      | (.error f, s) => (.error (f, row), s)
      | (.ok v, s) => (.ok (l ++ [v]), s)) (.ok [], s)

/-! ## Sums of a step (R95 to R97) -/

/-- The exact sum of terms: infinities and NaNs as R96 gives; an exact zero is −0 only when every term is −0. -/
def sumTerms (l : List FV) : FRes :=
  let infs := l.filter fun x => match x with | .inf _ => true | _ => false
  let clash := infs.any FV.neg? && infs.any (fun x => !x.neg?)
  if l.any FV.isNan then ((nanOf l).1, if clash then (nanOf l).2 ||| invalid.2 else (nanOf l).2)
  else
    if clash then invalid
    else match infs with
      | x :: _ => (x, 0)
      | [] =>
        let q := l.foldl (fun q x => match x with | .fin _ m e => if m = 0 then q else min q e | _ => q) 0
        let x := l.foldl (fun a x => match x with | .fin n m e => if m = 0 then a else a + scaled n m e q | _ => a) (0 : Int)
        if x = 0 then (.fin (l.all fun y => y.isZero && y.neg?) 0 0, 0) else (.fin (decide (x < 0)) x.natAbs q, 0)

/-- One rounding under RNE of the accumulator and the exact products (R96). -/
def narrowStep (old : Word32) (a b : List FV) : Word32 × FlagSet :=
  let p := a.zipWith FV.mul b
  let fl := p.foldl (fun x y => x ||| y.2) 0
  let (y, f) := F32.fin .ne (sumTerms (F32.value old.toNat :: p.map (·.1)))
  (BitVec.ofNat 32 y, fl ||| f)

/-- A chain of correctly rounded FMAs (R95). -/
def fmaChain (f : FFmt) (rm : RM) (old : Nat) (a b : List FV) : Nat × FlagSet :=
  (a.zip b).foldl (fun (x, fl) (u, v) =>
    let (y, g) := f.fin rm (FV.fma rm u v (f.value x))
    (y, fl ||| g)) (old, 0)

/-- The value of an element of an INT8 operand. -/
def FV.int : FV → Int
  | .fin n m e => scaled n m e 0
  | _ => 0

/-- One element of a step in a 32-bit accumulator. -/
def elemStep (t : Ty) (rm : RM) (old : Word32) (a b : List FV) : Word32 × FlagSet :=
  match t with
  | .f32 =>
    let (y, f) := fmaChain F32 rm old.toNat a b
    (BitVec.ofNat 32 y, f)
  | .i8 =>
    let (y, f) := clampTo true 32 (old.toInt + (a.zipWith (fun u v => u.int * v.int) b).sum)
    (BitVec.ofInt 32 y, f)
  | _ => narrowStep old a b

/-- One row of the output tile; sums that a poisoned element enters raise no flag (R303, log entry 99). -/
def rowStep (t : Ty) (rm : RM) (old : Lanes) (a : List FV × Bool) (b : List (List FV × Bool)) : Lanes × FlagSet :=
  let kept (v : List FV × Bool) (f : FlagSet) : FlagSet := if a.2 || v.2 then 0 else f
  if t = .f64 then
    let r := b.zipIdx.map fun (v, j) =>
      let (x, f) := fmaChain F64 rm ((Lanes.get old (2 * j + 1)) ++ (Lanes.get old (2 * j))).toNat a.1 v.1
      (x, kept v f)
    (Lanes.of fun k =>
      let x := (r.getD (k / 2) (0, 0)).1
      BitVec.ofNat 32 (if k % 2 = 0 then x else x / 2 ^ 32), r.foldl (fun x y => x ||| y.2) 0)
  else
    let r := b.zipIdx.map fun (v, j) =>
      let (x, f) := elemStep t rm (Lanes.get old j) a.1 v.1
      (x, kept v f)
    (Lanes.of fun j => (r.getD j (0, 0)).1, r.foldl (fun x y => x ||| y.2) 0)

/-- The whole tile. -/
def tileStep (t : Ty) (rm : RM) (old : List Lanes) (a b : List (List FV × Bool)) : List Lanes × FlagSet :=
  let r := old.zipIdx.map fun (x, i) => rowStep t rm x (a.getD i ([], false)) b
  (r.map (·.1), r.foldl (fun x y => x ||| y.2) 0)

/-! ## One K-step (MLOOP_STEP) -/

/-- `MPROG` of an entry stopped by a fault (Table 4.4). -/
def mprogOf (opB : Bool) (acc step row : Nat) : Word64 :=
  1 ||| at_ (b2n opB) 1 ||| at_ acc 2 ||| at_ (step % 2 ^ 16) 8 ||| at_ (row % 256) 24

/-- Steps that an entry takes. -/
def HkEntry.steps (e : HkEntry) : Nat := (e.scal.headD 0).toNat

/-- The entry is the oldest of its warp on its accumulator (R304). -/
def Warp.loopTurn (w : Warp) (e : HkEntry) : Bool :=
  match w.husk.find? fun x => accOf x.instr == accOf e.instr with
  | some x => x.seq == e.seq
  | none => false

/-- A fault stops the entry at its step (R126); `MPROG` describes the oldest stopped one. -/
def State.loopFault (s : State) (w : Warp) (e : HkEntry) (f : LFault) (opB : Bool) (row : Nat) : State :=
  let v := mprogOf opB ((accOf e.instr).getD 0) e.prog row
  let older := (w.husk.takeWhile (·.seq != e.seq)).any fun x => (accOf x.instr).isSome && x.state == .awaiting
  let s := s.modWarp w.vw fun w =>
    let w := w.modEntry e.seq fun x => { x with scal := [x.scal.headD 0, v] }
    if older then w else { w with spr := { w.spr with mprog := v } }
  s.faultLanes w e.seq [f] Need.read 0

/-- A step of an entry: rows of A, then of B, then the sums. A poisoned operand gives the accumulator tag 15; the steps that are left then
read nothing (R303, log entry 89). -/
def State.loopStep (s : State) (w : Warp) (e : HkEntry) : State :=
  let t := e.cfg.ta
  let K := matK t
  let k0 := (e.cfg.kpos.toNat + e.prog * K) % 2 ^ 32
  let d := (accOf e.instr).getD 0
  let acc := w.accGet d
  let next (s : State) (f : Warp → Warp) : State :=
    s.modWarp w.vw fun w => (f w).modEntry e.seq fun x => { x with prog := x.prog + 1 }
  if acc.tag = 15 then next s id
  else match s.rowsRead w e e.opA k0 K with
  | (.error (f, row), s) => s.loopFault w e f false row
  | (.ok a, s) =>
    match s.rowsRead w e e.opB k0 K with
    | (.error (f, row), s) => s.loopFault w e f true row
    | (.ok b, s) =>
      let (x, fl) := tileStep t (RM.of e.rm.toNat) acc.x a b
      next s fun w => (w.accSet d { acc with x := x, tag := if (a ++ b).any (·.2) then 15 else acc.tag }).flags fl

/-- Places that the next step reads, which an earlier access of the warp to the same words keeps back (R150). -/
def State.loopLocs (s : State) (w : Warp) (e : HkEntry) : List Loc :=
  let K := matK e.cfg.ta
  let k0 := (e.cfg.kpos.toNat + e.prog * K) % 2 ^ 32
  let of (o : Operand) : List Nat := (List.range o.rows).flatMap fun r =>
    (dataSpans o.ty (o.base + (o.first + r) * o.str) k0 K ++ expSpans o.ty (o.xb + (o.first + r) * o.xs) k0 K).flatMap fun x =>
      spanWords x.a x.n
  (of e.opA ++ of e.opB).filterMap (s.locOf w.who)

/-- The next step of an entry may be taken. -/
def State.loopReady (s : State) (w : Warp) (e : HkEntry) : Bool :=
  e.state == .outstanding && (accOf e.instr).isSome && w.loopTurn e && decide (e.prog < e.steps) && s.mayRun w && !e.queued
    && !s.blockedBy w e e.undone [] w.husk && !s.accessBefore w e (s.loopLocs w e)

/-! ## Joins (R306 to R308) -/

/-- A join on an accumulator: it issues when no MLOOP or MCOOP on it is outstanding. -/
def State.join (s : State) (i : Instr) (g : Guard) (src : List Src) (acc : BitVec 4)
    (f : State → Warp → Mask → Acc → Res) : Host.Outcome State Fault Refusal :=
  s.issue i g src fun s w P => if w.accBusy acc.toNat then .hold s else f s w P (w.accGet acc.toNat)

/-- Tag of a cleared accumulator. -/
def mzTag : MzTy → Tag
  | .f32 => 3
  | .f64 => 4
  | .i32 => 1

/-- MZERO (R306). -/
def execMzero (g : Guard) (t : MzTy) (acc : BitVec 4) (s : State) : Host.Outcome State Fault Refusal :=
  s.join (.mzero g t acc) g [] acc fun s w _ _ =>
    .go s (w.accSet acc.toNat ⟨true, mzTag t, List.replicate 32 (Lanes.all 0)⟩) false

/-- MFREE (R306). -/
def execMfree (g : Guard) (acc : BitVec 4) (s : State) : Host.Outcome State Fault Refusal :=
  s.join (.mfree g acc) g [] acc fun s w _ _ => .go s (w.accSet acc.toNat Acc.unbound) false

/-- A form that does not suit the accumulator's tag (R307). -/
def formBad (f : MForm) (t : Tag) : Bool := t != 15 && ((f == .f64) != (t == 4))

/-- Row r of an accumulator. -/
def Acc.row (a : Acc) (r : Nat) : Lanes := a.x.getD r (Lanes.all 0)

/-- What register number k of an MMOVA receives in lane j. -/
def movaWord (f : MForm) (a : Acc) (r k j : Nat) : Word32 :=
  match f with
  | .one => Lanes.get (a.row r) j
  | .oct => Lanes.get (a.row (r + k)) j
  | .f64 => Lanes.get (a.row (r + j / 16)) (2 * (j % 16) + k)

/-- MMOVA: written back later, as a long-latency result (R194, R213). -/
def execMmova (g : Guard) (la : BitVec 4) (f : MForm) (d : R8) (acc : BitVec 4) (r : BitVec 5) (s : State) :
    Host.Outcome State Fault Refusal :=
  s.join (.mmova g la f d acc r) g [] acc fun s w P a =>
    if formBad f a.tag then .trap 0x04
    else
      let wb := (List.range f.regs).map fun k => WB.v (d.toNat + k) P (Lanes.of (movaWord f a r.toNat k)) a.tag
      .go { s with nextId := s.nextId + 1 }
        (w.openPipe s.nextId la.toNat (Instr.mmova g la f d acc r).pending wb) false

/-- Tags under which an MMOVV reads its source. -/
def movvTags (t : Tag) : List Nat :=
  if t = 15 then tRaw else if t = 4 then tF64 else if t = 1 then tInt else tF32

/-- The accumulator after an MMOVV. -/
def movvRun (w : Warp) (f : MForm) (a : Acc) (v : R8) (r : Nat) (P : Mask) : List Lanes :=
  let reg (k j : Nat) : Word32 := Lanes.get (w.lanes (v.toNat + k)) j
  match f with
  | .one => a.x.zipIdx.map fun (x, i) => if i = r then Lanes.merge P (Lanes.of (reg 0)) x else x
  | .oct => a.x.zipIdx.map fun (x, i) => if r ≤ i ∧ i < r + 8 then Lanes.merge P (Lanes.of (reg (i - r))) x else x
  | .f64 => a.x.zipIdx.map fun (x, i) =>
    if r ≤ i ∧ i < r + 2 then
      Lanes.of fun c =>
        let j := 16 * (i - r) + c / 2
        if has P j then reg (c % 2) j else Lanes.get x c
    else x

/-- MMOVV: an unbound name is first bound (R307). -/
def execMmovv (g : Guard) (f : MForm) (acc : BitVec 4) (a : R8) (r : BitVec 5) (s : State) :
    Host.Outcome State Fault Refusal :=
  s.join (.mmovv g f acc a r) g [] acc fun s w P x =>
    if formBad f x.tag then .trap 0x04
    else match w.tagFault [⟨a, f.regs, movvTags x.tag⟩] with
      | some c => .trap c
      | none => .go s (w.accSet acc.toNat { x with bound := true, x := movvRun w f x a r.toNat P }) false

/-- Accumulator tag that an MSTA type suits. -/
def mstaTag : MsTy → Tag
  | .i32 => 1
  | .f64 => 4
  | _ => 3

/-- Element format of a narrowing MSTA type. -/
def mstaFmt : MsTy → Option FFmt
  | .h2 => some F16
  | .bf2 => some BF16
  | .e4 => some E4M3
  | .e5 => some E5M2
  | _ => none

/-- Bytes of a stored row. -/
def mstaBytes : MsTy → Nat
  | .i32 | .f32 | .f64 => 128
  | .h2 | .bf2 => 64
  | .e4 | .e5 => 32

/-- The words of a stored row, and flags (R83, R308). -/
def mstaRow (t : MsTy) (rm : RM) (x : Lanes) : List Word32 × FlagSet :=
  match mstaFmt t with
  | none => ((List.range 32).map (Lanes.get x), 0)
  | some f =>
    let r := (List.range 32).map fun j => f.put rm (F32.value (Lanes.get x j).toNat)
    (wordsOf (mstaBytes t / 4) (r.flatMap fun y => bytesOf (f.width / 8) y.1), r.foldl (fun a y => a ||| y.2) 0)

/-- MSTA: the rows are captured, converted under the mode at issue; lane r of the entry is row r (R308). -/
def execMsta (g : Guard) (t : MsTy) (a b : R8) (acc : BitVec 4) (s : State) : Host.Outcome State Fault Refusal :=
  s.join (.msta g t a b acc) g [] acc fun s w _ x =>
    let n := if t = .f64 then 8 else 4
    let base := (w.sc a).toNat
    let str := (w.sc b).toNat % 2 ^ 32
    if w.huskFull then .hold s
    else if x.tag != 15 && x.tag != mstaTag t then .trap 0x04
    else if base % n != 0 || str % n != 0 then .trap 0x06
    else
      let rows := x.x.map (mstaRow t w.rm)
      let k := mstaBytes t / 4
      let e := { HkEntry.new w (.msta g t a b acc) .I (BitVec.allOnes 32) with
        addr := of64 (fun r => BitVec.ofNat 64 (base + r * str)), prog := mstaBytes t,
        data := (List.range k).map (fun j => Lanes.of fun r => ((rows.getD r ([], 0)).1).getD j 0),
        psn := List.replicate k (x.tag == 15) }
      let fl := if x.tag = 15 then 0 else rows.foldl (fun y z => y ||| z.2) 0
      if s.bufferWait w e then .hold s else .go s ((w.take e).flags fl) false

/-- Store one row of an MSTA: its words are checked together, then written (R308). -/
def State.rowLane (s : State) (w : Warp) (e : HkEntry) (i : Nat) : LaneRes × State :=
  let a := (lane64 e.addr i).toNat
  let held := s.holdsBack w a
  let s0 := s
  let (r, s) := (List.range (e.prog / 4)).foldl (fun (r, s) j =>
    match r with
    | .error f => (.error f, s)
    | .ok l =>
      match if held then (match s.translate w.who (a + 4 * j) 4 Need.write with
          | (.error x, s) => (.error ⟨i, x.cause, a + 4 * j, x.level, wordOf e.instr⟩, s)
          | (.ok t, s) => (.ok t, s))
        else s.reach w e i (a + 4 * j) 4 Need.write false with
      | (.error f, s) => (.error f, s)
      | (.ok t, s) => (.ok (l ++ [t]), s)) ((.ok [] : Except LFault (List Target)), s)
  let parts := (List.range (e.prog / 4)).map fun j =>
    (4 * j, bytesOf 4 (Lanes.get (e.data.getD j (Lanes.all 0)) i).toNat, e.psn.getD j false)
  match r with
  | .error f => (.fault f, s.unrecord s0)
  | .ok ts =>
    if held then s.holdStore w e i a (ts.zip (parts.map (·.2)))
    else match (ts.zipIdx.find? fun (t, j) => t.badChunk s.mem && !chunkIn a e.prog ((a + 4 * j) / 64)).map (·.1) with
    | some t => (.fault ⟨i, 0x29, a, 0, s.checkAux w.ident.ctx t⟩, s.unrecord s0)
    | none =>
      match ts.find? fun t => match t with | .sys .. => true | _ => false with
      | some t => s.sysStore s0 w e i a t parts
      | none =>
        -- chunks that the row covers take new check values (R139)
        let s := ts.foldl (fun s t => match t with
          | .dram pa _ => if s.mem.bad pa then s.setMem (s.mem.rechecked (pa / 64 * 64) 64) else s
          | _ => s) s
        (.done, (ts.zip parts).foldl (fun s (t, _, l, p) => s.putBytes w.who (some (s.coreOf w)) t l p) s)

end Sys2Proof.Machine
end

