-- ==== Sys2Proof/Machine/Bank.lean ====
section
/-! DEFINITION. BGEMV, 0xD6 (R324 to R327, R134, R168): the checks at issue, the reading of x, and the landing of one row. Its entry
holds the four descriptor words, the row count and the flags of the rows so far; `data` is the staged x operand, 32 words a
slot; `chunks` holds rows landed and rows counted. -/

namespace Sys2Proof.Machine

/-! ## Rows (R134) -/

/-- Element type of a bank-layout page. -/
def bankTy (pte : Word64) : Ty :=
  match fld pte 14 12 with
  | 0 => .x4
  | 1 => .x6
  | 2 => .x8
  | 3 => .e4
  | 4 => .e5
  | _ => .bf2

/-- Elements of a row. -/
def rowLen (pte : Word64) : Nat := 1024 * 2 ^ fld pte 17 15

/-- Bytes of a row's data, and of the row with its exponent stream. -/
def rowData (pte : Word64) : Nat :=
  let L := rowLen pte
  match bankTy pte with
  | .x4 => L / 2
  | .x6 => L * 3 / 4
  | .bf2 => 2 * L
  | _ => L
def rowBytes (pte : Word64) : Nat := rowData pte + if (bxOf (bankTy pte)).isSome then rowLen pte / 16 else 0
def rowStride (pte : Word64) : Nat := (rowBytes pte + 255) / 256 * 256

/-- Bytes of the page that an address lies in: of the leaf that a translation structure holds, else of the one that a walk finds. -/
def State.leafSize (s : State) (ctx a : Nat) : Nat :=
  match s.mem.tlb.find? fun t => t.ctx == ctx && decide (t.base ≤ a ∧ a < t.base + t.size) with
  | some t => t.size
  | none => match s.cmd.ctxs.find? (·.id == ctx) with
    | some c => pageSize (((walk s.mem a 4 0 c.root).1.getLast?).map (·.1) |>.getD 3)
    | none => pageSize 3

/-- Translate the pages that `n` rows from `a` reach; the page must be like `like` when given. Gives the faulting address and error. -/
def State.bankPages (w : Warp) (like : Option Word64) : Nat → Nat → Nat → State → Except (Nat × XErr) Word64 × State
  | 0, a, _, s => (.error (a, ⟨0x12, 0⟩), s)
  | fuel + 1, a, n, s =>
    match s.translate w.who a 1 Need.read with
    | (.error e, s) => (.error (a, e), s)
    | (.ok t, s) =>
      let pte := t.pte
      let P := s.leafSize w.ident.ctx a
      let off := a % P
      let same := match like with
        | none => true
        | some p => fld p 17 12 == fld pte 17 12 && pteKey p == pteKey pte
      let dram := match t with | .dram .. => true | _ => false
      if !dram || !pteBit pte 11 || !same || off % rowStride pte != 0 || decide (P / rowStride pte ≤ off / rowStride pte) then
        (.error (a, ⟨0x12, 0⟩), s)
      else
        let here := P / rowStride pte - off / rowStride pte
        if n ≤ here then (.ok pte, s)
        else State.bankPages w (some pte) fuel (a - off + P) (n - here) s

/-- Address of the row `r` rows after the one at `a`: behind the last row of a page comes row 0 of the page that begins P bytes above, where P
is that page's own size (R325). -/
def State.rowAddr (s : State) (ctx stride : Nat) : Nat → Nat → Nat → Nat
  | 0, a, _ => a
  | fuel + 1, a, r =>
    let P := s.leafSize ctx a
    let here := P / stride - a % P / stride
    if r < here then a + r * stride else s.rowAddr ctx stride fuel (a - a % P + P) (r - here)

/-! ## Issue (R324, R325) -/

/-- The stack that holds an address of a context. -/
def State.stackOf (s : State) (who : Who) (a : Nat) : Nat := match s.locOf who a with | some (.dram pa) => pa / 0xC00000000 | _ => 0

/-- The staging store of a stack's logic die has no room for another x operand (R401). -/
def State.stagingFull (s : State) (k : Nat) : Bool :=
  decide (Config.stagingMore < (s.warps.map fun w => (w.husk.filter fun e => match e.instr with
    | .bgemv .. => s.stackOf w.who (e.scal.headD 0).toNat == k
    | _ => false).length).sum)

/-- BGEMV. -/
def execBgemv (g : Guard) (dc : BitVec 3) (acc bf : Bool) (a b : R8) (s : State) : Host.Outcome State Fault Refusal :=
  s.issue (.bgemv g dc acc bf a b) g [] fun s w P =>
    let q := w.quad a
    let x (k : Nat) : Nat := (q.getD k 0).toNat
    let n := (w.sc b).toNat % 2 ^ 32
    let window (y : Nat) : Bool := match regionOf y with | some (.window ..) | some (.ownScr _) => true | _ => false
    if q.any fun v => fld v 63 56 != 0 then .trap 0x02
    else if x 1 % 4 != 0 || x 2 % 4 != 0 || x 3 % 16 != 0 then .trap 0x06
    else if n = 0 ∨ 65536 < n then .trap 0x02
    else if !window (x 2) then .trap 0x13
    else match State.bankPages w none (n + 1) (x 0) n s with
    | (.error (va, e), s) =>
      if e.cause = 0x10 then
        .hold (match s.warp w.vw with | some w0 => s.waitPage w0 va Need.read e.level | none => s)
      else .trapIn s e.cause
    | (.ok _, s) =>
      if w.huskFull || s.stagingFull (s.stackOf w.who (x 0)) then .hold s
      else
        let (w, P) := w.noTx P
        if P = 0 then .go s w false
        else
          let e := (HkEntry.new w (.bgemv g dc acc bf a b) (if acc then .D else .I) P).single P
          s.takeEngine w { e with scal := q ++ [BitVec.ofNat 64 n, 0], chunks := [(0, 0, 0)] }

/-! ## x (R168, R326) -/

/-- Leaf entry of W's first page as it now stands. -/
def State.bankPte (s : State) (w : Warp) (e : HkEntry) : Word64 :=
  match (s.translate w.who (e.scal.headD 0).toNat 1 Need.read).1 with
  | .ok t => t.pte
  | .error _ => 0

/-- Words of x. -/
def xWords (e : HkEntry) (pte : Word64) : Nat :=
  match e.instr with
  | .bgemv _ _ _ true _ _ => rowLen pte / 2
  | _ => rowLen pte

/-- The places of x. -/
def State.xLocs (s : State) (w : Warp) (e : HkEntry) : List Loc :=
  (List.range (xWords e (s.bankPte w e))).filterMap fun k => s.locOf w.who ((e.scal.getD 1 0).toNat + 4 * k)

/-- x may be read: no earlier access of the warp to a word of it is still to be performed (R150), nor an acquire. -/
def State.xReady (s : State) (w : Warp) (e : HkEntry) : Bool :=
  !s.blockedBy w e e.undone [] w.husk && !s.accessBefore w e (s.xLocs w e)

/-- Read x as ordinary reads of the warp; poison in it is kept, chunk by chunk (R326). -/
def State.xRead (s : State) (w : Warp) (e : HkEntry) : State :=
  let a := (e.scal.getD 1 0).toNat
  let n := xWords e (s.bankPte w e)
  let per := n / (rowLen (s.bankPte w e) / 32)
  match (List.range (n / per)).foldl (fun (r, s) c =>
      match r with
      | .error f => (.error f, s)
      | .ok (l, p) => match s.warpRead w e (a + 4 * per * c) (4 * per) with
        | (.error f, s) => (.error f, s)
        | (.ok (m, q), s) => (.ok (l ++ m, p ++ [q]), s)) ((.ok ([], []) : Except LFault (List Byte × List Bool)), s) with
  | (.error f, s) => s.faultLanes w e.seq [f] Need.read 0
  | (.ok (l, p), s) =>
    s.modWarp w.vw (·.modEntry e.seq fun x =>
      { x with data := (List.range (n / 32)).map fun k =>
                 let ws := wordsOf 32 (l.drop (128 * k))
                 Lanes.of fun i => ws.getD i 0
               psn := p, perf := x.pend })

/-- Elements 32c to 32c + 31 of the staged x. -/
def HkEntry.xChunk (e : HkEntry) (c : Nat) : List FV :=
  match e.instr with
  | .bgemv _ _ _ true _ _ =>
    (List.range 32).map fun t =>
      let k := 32 * c + t
      let x := (Lanes.get (e.data.getD (k / 64) (Lanes.all 0)) (k / 2 % 32)).toNat
      BF16.value (if k % 2 = 0 then x % 65536 else x / 65536)
  | _ => (List.range 32).map fun t => F32.value (Lanes.get (e.data.getD c (Lanes.all 0)) t).toNat

/-! ## Rows (R326, R168) -/

/-- A line as the stack may hold it: as it stands, or as it stood before a store that has not reached the stack. -/
def State.stackLine (s : State) (ctx pa : Nat) (pte : Word64) : List Byte × State :=
  (s.mem.stale.filter fun x => x.1 == pa / 128 && x.2.1 == (s.via ctx pte).key).foldl (fun (l, s) old =>
    let (b, s) := s.drawBool
    (if b then old.2.2 else l, s)) ((s.readAt ctx (.dram (pa / 128 * 128) pte) 128).1, s)

/-- Bytes of a row, and which words of it are poisoned. -/
def State.rowBytesRead (s : State) (ctx : Nat) (pa n : Nat) (pte : Word64) : (List Byte × List Bool) × State :=
  let b := pa / 128
  let k := (pa + n - 1) / 128 - b + 1
  let (l, s) := (List.range k).foldl (fun (l, s) i =>
    let (x, s) := s.stackLine ctx (128 * (b + i)) pte
    (l ++ x, s)) (([] : List Byte), s)
  (((l.drop (pa % 128)).take n, (List.range (n / 4)).map fun i => psnGet s.mem.psn (pa + 4 * i)), s)

/-- A word that chunk c of a row uses is poisoned, in the row or in x. -/
def HkEntry.chunkPsn (e : HkEntry) (pte : Word64) (p : List Bool) (c : Nat) : Bool :=
  let t := bankTy pte
  let data := if planesOf t = 0 then (List.range (8 * elemBytes t)).map (8 * elemBytes t * c + ·)
    else (List.range (planesOf t)).map fun k => 2 * planesOf t * (c / 2) + 2 * k + c % 2
  let exps := if (bxOf t).isSome then [rowData pte / 4 + c / 2] else []
  e.psn.getD c false || (data ++ exps).any fun k => p.getD k false

/-- One row's result from its bytes and their poison; a poisoned chunk raises no flag (R326, log entry 99). -/
def rowResult (pte : Word64) (e : HkEntry) (old : Word32) (l : List Byte) (p : List Bool) : Word32 × FlagSet :=
  let t := bankTy pte
  let x := l.drop (rowData pte)
  (List.range (rowLen pte / 32)).foldl (fun (y, fl) c =>
    let d := if planesOf t = 0 then l.drop (32 * c * elemBytes t) else l.drop (8 * planesOf t * (c / 2))
    let (z, g) := narrowStep y (elemVals t (32 * c) 32 (d.take (64 * 8)) (x.drop (2 * c))) (e.xChunk c)
    (z, if e.chunkPsn pte p c then fl else fl ||| g)) (old, 0)

/-- The old y word of an `.acc` row: a poisoned one is consumed. -/
def State.yOld (s : State) (w : Warp) (e : HkEntry) (acc : Bool) (y : Nat) : Except LFault Word32 × State :=
  if !acc then (.ok 0, s)
  else match s.engineRead w e y with
  | (.error f, s) => (.error f, s)
  | (.ok (l, p), s) =>
    if p then (.error ⟨lowest e.planes, 0x28, y, 0, wordOf e.instr⟩, s) else (.ok (BitVec.ofNat 32 (ofBytes l)), s)

/-- Land row r: `.error` is the fault that stops it. -/
def State.rowLand (s : State) (w : Warp) (e : HkEntry) (acc : Bool) (r : Nat) : Except (LFault × Need) (State × FlagSet) × State :=
  let x (k : Nat) : Nat := (e.scal.getD k 0).toNat
  let pte0 := s.bankPte w e
  let a := s.rowAddr w.ident.ctx (rowStride pte0) (r + 1) (x 0) r
  let y := x 2 + 4 * r
  let s0 := s
  match s.reachSpan w (.xfer w.vw e.seq) 0 e.instr (lowest e.planes) a 1 (rowBytes pte0) Need.read with
  | (.error f, s) => (.error (f, Need.read), s)
  | (.ok (.dram pa pte), s) =>
    match (List.range ((rowBytes pte + 63) / 64)).find? fun k => s.mem.bad (pa + 64 * k) with
    | some k => (.error (⟨lowest e.planes, 0x29, a, 0, s.checkAux w.ident.ctx (.dram (pa + 64 * k) pte)⟩, Need.read), s.unrecord s0)
    | none =>
      let ((l, p), s) := s.rowBytesRead w.ident.ctx pa (rowBytes pte) pte
      match s.yOld w e acc y with
      | (.error f, s) => (.error (f, Need.read), s)
      | (.ok old, s) =>
        let psn := p.any id || e.psn.any id
        let (v, fl) := rowResult pte e old l p
        match s.engineWrite w e y (bytesOf 4 v.toNat) psn false with
        | (.error f, s) => (.error (f, Need.write), s)
        | (.ok s1, _) => (.ok (s1, fl), s)
  | (.ok _, s) => (.error (⟨lowest e.planes, 0x12, a, 0, wordOf e.instr⟩, Need.read), s)

/-- Rows landed and counted. -/
def HkEntry.rows (e : HkEntry) : Nat × Nat := (e.chunks.headD (0, 0, 0)).2

/-- The logic die of the stack that holds W keeps the rows of an accumulating BGEMV in the record of its tag (Table 12.3 kind 7). -/
def State.rowRecord (s : State) (w : Warp) (e : HkEntry) (k : Nat) : State :=
  match e.instr with
  | .bgemv _ _ true .. =>
    let stack := s.stackOf w.who (e.scal.headD 0).toNat
    let mine (c : Chaff) : Bool := c.kind == 7 && c.ctx == w.ident.ctx && c.vw == w.vw && c.seq == e.seq
    s.setMem { s.mem with
      chaff := upsert mine ⟨w.ident.ctx, w.vw, 7, e.seq, e.planes, BitVec.ofNat 64 k, .stack stack, []⟩ s.mem.chaff }
  | _ => s

/-- Apply the count of a row that has landed; the transfer completes with the last, and its flags return (R326), to a resident warp. -/
def State.rowCount (s : State) (w : Warp) (e : HkEntry) : State :=
  let mb := (e.scal.getD 3 0).toNat
  let n := (e.scal.getD 4 0).toNat
  let k := e.rows.2 + 1
  let fin (s : State) : State := s.modWarp w.vw fun w =>
    let w1 := w.modEntry e.seq fun x => { x with chunks := [(0, x.rows.1, k)], prog := k }
    if k < n then w1
    else if e.sent = 0 then (w1.modEntry e.seq fun x => { x with pend := 0 }).flags ((e.scal.getD 5 0).setWidth 6)
    else w1.unsend e.seq e.sent
  if mb = 0 then (fin s).rowRecord w e k
  else match s.engineCount w e mb 4 with
    | (.error f, s) => if e.sent = 0 then s.faultLanes w e.seq [f] Need.atomic 1 else s.modWarp w.vw (·.unsend e.seq e.sent)
    | (.ok s, _) => (fin s).rowRecord w e k

/-- Rows of an overwriting BGEMV that were in flight at a freeze land with no count (R410), for as long as any are left. -/
def State.bgemvLate (s : State) (w : Warp) (e : HkEntry) : State :=
  let r := e.rows
  if (e.scal.getD 4 0).toNat ≤ r.1 then s.modWarp w.vw (·.unsend e.seq e.sent)
  else match s.rowLand w e false r.1 with
  | (.error _, s) => s.modWarp w.vw (·.unsend e.seq e.sent)
  | (.ok (s, fl), _) =>
    let (last, s) := s.drawBool
    let s := s.modLaunch w.ident.lid fun l => { l with rows := l.rows + 1 }
    s.modWarp w.vw (·.modEntry e.seq fun x =>
      { x with chunks := [(0, r.1 + 1, r.2)], sent := if last then 0 else x.sent,
               scal := x.scal.set 5 ((x.scal.getD 5 0) ||| fl.setWidth 64) })

/-- One row lands and is counted; a row already landed is only counted. -/
def State.bgemvStep (s : State) (w : Warp) (e : HkEntry) (acc : Bool) : State :=
  let r := e.rows
  if r.2 < r.1 then s.rowCount w e
  else match s.rowLand w e acc r.1 with
  | (.error (f, need), s) => if e.sent = 0 then s.faultLanes w e.seq [f] need 1 else s.modWarp w.vw (·.unsend e.seq e.sent)
  | (.ok (s, fl), _) =>
    let s := s.modLaunch w.ident.lid fun l => { l with rows := l.rows + 1 }
    let e1 := { e with chunks := [(0, r.1 + 1, r.2)], scal := e.scal.set 5 ((e.scal.getD 5 0) ||| fl.setWidth 64) }
    (s.modWarp w.vw (·.modEntry e.seq fun _ => e1)).rowCount w e1

end Sys2Proof.Machine
end

