-- ==== Sys2Proof/Machine/Geo.lean ====
section
/-! DEFINITION. Binary32 arithmetic of the view units and ray engines, every operation rounded once under RNE, and the segments of
a warped axis (R378 to R380). -/

namespace Sys2Proof.Machine

/-! ## Binary32 -/

def fv (x : Word32) : FV := F32.value x.toNat
def fput (r : FRes) : Word32 := BitVec.ofNat 32 (F32.fin .ne r).1
def fadd (a b : Word32) : Word32 := fput ((fv a).add .ne (fv b))
def fsub (a b : Word32) : Word32 := fput ((fv a).add .ne (fv b).negate)
def fmul (a b : Word32) : Word32 := fput ((fv a).mul (fv b))
def fdiv (a b : Word32) : Word32 := fput (FV.div 28 (fv a) (fv b))
def ffma (a b c : Word32) : Word32 := fput (FV.fma .ne (fv a) (fv b) (fv c))
def fneg (a : Word32) : Word32 := a ^^^ 0x80000000
def fabs (a : Word32) : Word32 := a &&& 0x7FFFFFFF
def fint (x : Int) : Word32 := fput (FV.ofInt x, 0)
def flt (a b : Word32) : Bool := !(fv a).isNan && !(fv b).isNan && decide ((fv a).cmp (fv b) < 0)
def fle (a b : Word32) : Bool := !(fv a).isNan && !(fv b).isNan && decide ((fv a).cmp (fv b) ≤ 0)
def feq (a b : Word32) : Bool := !(fv a).isNan && !(fv b).isNan && (fv a).cmp (fv b) == 0
def finite (a : Word32) : Bool := match fv a with | .fin .. => true | _ => false
def fInf : Word32 := 0x7F800000

/-- A finite value rounded to an integer under RNE. -/
def frne (a : Word32) : Int :=
  match ((fv a).integral .ne).1 with
  | .fin n m e => scaled n m e 0
  | _ => 0

/-- A finite value in units of 2^-k, rounded under RNE. -/
def ffix (k : Nat) (a : Word32) : Int :=
  match fv a with
  | .fin n m e => if m = 0 then 0 else let q := (roundTo .ne n m e (-(k : Int))).1; if n then -(q : Int) else q
  | _ => 0

/-- Greatest integer not above a finite value. -/
def ffloor (a : Word32) : Int :=
  match ((fv a).integral .dn).1 with
  | .fin n m e => scaled n m e 0
  | _ => 0

/-- tan of a value of magnitude below 1.5, correctly rounded (R378). -/
def ftan (a : Word32) : Word32 :=
  match fv a with
  | .fin n m e =>
    if m = 0 then a
    else
      let y := fxOf m e
      let q := fxSin y * fxOne / fxSin (fxPi / 2 - y)
      BitVec.ofNat 32 (fxPut .ne n q 0).1
  | _ => a

/-! ## Segments of an axis (R379) -/

/-- Insert into an ascending list of values, once. -/
def finsert (x : Word32) : List Word32 → List Word32
  | [] => [x]
  | y :: r => if flt x y then x :: y :: r else if feq x y then y :: r else y :: finsert x r

/-- Breakpoints of band edges 1 to b strictly inside the limits; `E` lists E1 to E7. -/
def bandPoints (lo hi g : Word32) (E : List Word32) (b : Nat) : List Word32 :=
  ((E.take b).flatMap fun e => [fsub g e, fadd g e]).foldl (fun l x => if flt lo x && flt x hi then finsert x l else l) []

/-- The number of bands used: at most eight segments. -/
def bandCount (lo hi g : Word32) (E : List Word32) : Nat → Nat
  | 0 => 0
  | b + 1 => if (bandPoints lo hi g E (b + 1)).length + 1 ≤ 8 then b + 1 else bandCount lo hi g E b

/-- Element of a list of words. -/
def nthW (l : List Word32) (i : Nat) : Word32 := l.getD i 0

/-- The segments of an axis of N samples. -/
def segments (lo hi g : Word32) (E D : List Word32) (N : Nat) : Segs :=
  let b := bandCount lo hi g E 7
  let a := lo :: (bandPoints lo hi g E b ++ [hi])
  let n := a.length - 1
  let band := (List.range n).map fun i =>
    let m := fdiv (fadd (nthW a i) (nthW a (i + 1))) (fint 2)
    ((E.take b).filter fun e => fle e (fabs (fsub m g))).length
  let len := (List.range n).map fun i => fmul (fsub (nthW a (i + 1)) (nthW a i)) (nthW D (band.getD i 0))
  let cum := (len.foldl (fun (l, c) x => let d := fadd c x; (l ++ [d], d)) (([] : List Word32), (0 : Word32))).1
  let total := cum.getLastD 0
  let s := 0 :: ((List.range n).map fun i =>
    if i + 1 = n then N else (frne (fdiv (fmul (fint N) (nthW cum i)) total)).toNat)
  let k := (List.range n).map fun i =>
    fdiv (fint ((s.getD (i + 1) 0 : Int) - s.getD i 0)) (fsub (nthW a (i + 1)) (nthW a i))
  ⟨a, s, k, band⟩

/-- Number of segments. -/
def Segs.n (g : Segs) : Nat := g.k.length

/-- The segment that maps a tangent value: 0 below the axis, the last above it. -/
def Segs.at (g : Segs) (t : Word32) : Nat :=
  ((List.range g.n).filter fun i => i == 0 || fle (nthW g.a i) t).getLastD 0

/-- Forward map in segment i (R380). -/
def Segs.fwdIn (g : Segs) (i : Nat) (t : Word32) : Word32 := ffma (fsub t (nthW g.a i)) (nthW g.k i) (fint (g.s.getD i 0))
def Segs.fwd (g : Segs) (t : Word32) : Word32 := g.fwdIn (g.at t) t

/-- The segment that covers a sample. -/
def Segs.ofSample (g : Segs) (x : Nat) : Nat :=
  ((List.range g.n).filter fun i => decide (g.s.getD i 0 ≤ x ∧ x < g.s.getD (i + 1) 0)).headD 0

/-- Back from the centre of sample x (R380). -/
def Segs.back (g : Segs) (x : Nat) : Word32 :=
  let i := g.ofSample x
  fadd (nthW g.a i) (fdiv (fsub (fadd (fint x) 0x3F000000) (fint (g.s.getD i 0))) (nthW g.k i))

end Sys2Proof.Machine
end

