-- ==== Sys2Proof/Machine/Rays.lean ====
section
/-! DEFINITION. Rays, 0xD8 and 0xD9 (R329 to R333, R399). An entry's data holds the result slots of an RTQUERY, then the ray operand,
then an RTRACE's payload. -/

namespace Sys2Proof.Machine

structure Ray where
  o : List Word32
  d : List Word32
  tmin : Word32
  tmax : Word32
  deriving DecidableEq, Repr

/-- A ray that is not traversed (R330). -/
def Ray.invalid (r : Ray) : Bool :=
  (r.o ++ r.d ++ [r.tmin, r.tmax]).any (fun x => (fv x).isNan) || (r.o ++ r.d).any (fun x => !finite x)
    || r.d.all fun x => (fv x).isZero

/-! ## Box tests: the exact slab test -/

/-- A value in units of 2^-149; ±∞ stand for magnitudes beyond every finite result. -/
def unitsOf (big : Nat) (x : Word32) : Option Int :=
  match fv x with
  | .fin n m e => some (scaled n m e (-149))
  | .inf n => some (if n then -(2 ^ big) else 2 ^ big)
  | .nan _ => none

/-- Order of fractions with positive denominators. -/
def fracLe (a b : Int × Int) : Bool := decide (a.1 * b.2 ≤ b.1 * a.2)
def fracMax (a b : Int × Int) : Int × Int := if fracLe a b then b else a
def fracMin (a b : Int × Int) : Int × Int := if fracLe a b then a else b

/-- The interval of t left after one axis; none when it is empty. -/
def slab (iv : Option ((Int × Int) × (Int × Int))) (o d lo hi : Option Int) : Option ((Int × Int) × (Int × Int)) :=
  match iv, o, d, lo, hi with
  | some (t0, t1), some o, some d, some lo, some hi =>
    if d = 0 then (if lo ≤ o ∧ o ≤ hi then iv else none)
    else
      let f (x : Int) : Int × Int := if d < 0 then (o - x, -d) else (x - o, d)
      let (a, b) := if d < 0 then (f hi, f lo) else (f lo, f hi)
      let t0 := fracMax t0 a
      let t1 := fracMin t1 b
      if fracLe t0 t1 then some (t0, t1) else none
  | _, _, _, _, _ => none

/-- The exact test of a box, given as six words. -/
def Ray.hitsBox (r : Ray) (b : List Word32) : Bool :=
  let t (x : Word32) : Option (Int × Int) := (unitsOf 1000 x).map fun v => (v, 2 ^ 149)
  let iv := match t r.tmin, t r.tmax with
    | some a, some b => if fracLe a b then some (a, b) else none
    | _, _ => none
  ((List.range 3).foldl (fun iv k =>
    slab iv (unitsOf 0 (nthW r.o k)) (unitsOf 0 (nthW r.d k)) (unitsOf 2000 (nthW b k)) (unitsOf 2000 (nthW b (k + 3)))) iv).isSome

/-! ## Triangles (R331) -/

def vsub (a b : List Word32) : List Word32 := a.zipWith fsub b
def vcross (a b : List Word32) : List Word32 :=
  let c (i j : Nat) : Word32 := fsub (fmul (nthW a i) (nthW b j)) (fmul (nthW a j) (nthW b i))
  [c 1 2, c 2 0, c 0 1]
def vdot (a b : List Word32) : Word32 :=
  fadd (fadd (fmul (nthW a 0) (nthW b 0)) (fmul (nthW a 1) (nthW b 1))) (fmul (nthW a 2) (nthW b 2))

/-- The hit of a triangle record: t, bu, bv. -/
def Ray.hits (r : Ray) (w : List Word32) : Option (Word32 × Word32 × Word32) :=
  let v (k : Nat) : List Word32 := (w.drop (3 * k)).take 3
  let e1 := vsub (v 1) (v 0)
  let e2 := vsub (v 2) (v 0)
  let tv := vsub r.o (v 0)
  let pv := vcross r.d e2
  let qv := vcross tv e1
  let det := vdot e1 pv
  if feq det 0 then none
  else
    let u := vdot tv pv
    let vv := vdot r.d qv
    let tt := vdot e2 qv
    let inside := if flt 0 det then fle 0 u && fle 0 vv && fle (fadd u vv) det
      else fle u 0 && fle vv 0 && fle det (fadd u vv)
    let t := fdiv tt det
    if inside && fle r.tmin t && fle t r.tmax then some (t, fdiv u det, fdiv vv det) else none

/-- A hit found: t, bu, bv, primitive identifier, triangle index. -/
structure Hit where
  t : Word32
  bu : Word32
  bv : Word32
  prim : Word32
  tri : Nat
  deriving DecidableEq, Repr

/-- The nearer of two hits. -/
def Hit.nearer (a b : Hit) : Bool :=
  flt a.t b.t || (feq a.t b.t && (decide (a.prim.toNat < b.prim.toNat) || (a.prim == b.prim && decide (a.tri < b.tri))))

/-! ## Traversal -/

/-- Read a 64-byte record as 16 words, for the warp or for its engine transfer, and whether a word of it is poisoned. The error is a fault, or
none where an earlier access of the warp to one of its words comes first (R150). -/
def State.recordRead (s : State) (w : Warp) (e : HkEntry) (p : Party) (i a : Nat) :
    Except (Option LFault) (List Word32 × Bool) × State :=
  let own := p == .warp w.vw
  if own && s.accessBefore w e ((spanWords a 64).filterMap (s.locOf w.who)) then (.error none, s)
  else
    let s0 := s
    match s.reachSpan w p (if own then e.region else 0) e.instr i a 4 64 Need.read with
    | (.error f, s) => (.error (some f), s)
    | (.ok t, s) =>
      if t.badChunk s.mem then (.error (some ⟨i, 0x29, a, 0, s.checkAux w.ident.ctx t⟩), s.unrecord s0)
      else match s.loadBytes w e a 64 t own (!own) with
        | (.error (c, x), s) => (.error (some ⟨i, c, a, 0, x⟩), s.unrecord s0)
        | (.ok (l, q), s) => (.ok (wordsOf 16 l, q.any id), s)

/-- Where a traversal stands: nodes still to visit, best hit, poison met, hierarchy error met. -/
structure Walk where
  todo : List Nat
  best : Option Hit
  psn : Bool
  bad : Bool
  deriving DecidableEq, Repr

/-- Test the `n` triangles from `tri` on. -/
def State.leafWalk (w : Warp) (e : HkEntry) (p : Party) (i base : Nat) (r : Ray) : Nat → Nat → Walk → State →
    Except (Option LFault) Walk × State
  | 0, _, k, s => (.ok k, s)
  | n + 1, tri, k, s =>
    match s.recordRead w e p i (base + 64 * tri) with
    | (.error f, s) => (.error f, s)
    | (.ok (ws, q), s) =>
      let best := match r.hits ws with
        | none => k.best
        | some (t, bu, bv) =>
          let h : Hit := ⟨t, bu, bv, nthW ws 9, tri⟩
          match k.best with
          | none => some h
          | some b => if h.nearer b then some h else some b
      State.leafWalk w e p i base r n (tri + 1) { k with best := best, psn := k.psn || q } s

/-- One child of a node: a box that the exact test rejects may still be entered, since box tests are rounded outward. -/
def State.childWalk (w : Warp) (e : HkEntry) (p : Party) (i base : Nat) (r : Ray) (ws : List Word32) (c : Nat) (k : Walk) (s : State) :
    Except (Option LFault) Walk × State :=
  let cw := (nthW ws (12 + c)).toNat
  let kind := cw / 2 ^ 30
  if kind = 2 then (.ok k, s)
  else if kind = 3 then (.ok { k with bad := true }, s)
  else
    let (go, s) := if r.hitsBox ((ws.drop (6 * c)).take 6) then (true, s) else s.drawBool
    if !go then (.ok k, s)
    else if kind = 0 then (.ok { k with todo := cw % 2 ^ 30 :: k.todo }, s)
    else State.leafWalk w e p i base r (cw % 64) (cw % 2 ^ 30 / 64) k s

/-- Visit at most `n` more nodes (R331). -/
def State.treeWalk (w : Warp) (e : HkEntry) (p : Party) (i base : Nat) (r : Ray) : Nat → Walk → State → Except (Option LFault) Walk × State
  | 0, k, s => (.ok { k with bad := k.bad || !k.todo.isEmpty }, s)
  | n + 1, k, s =>
    match k.todo with
    | [] => (.ok k, s)
    | x :: rest =>
      if k.bad then (.ok k, s)
      else match s.recordRead w e p i (base + 64 * x) with
      | (.error f, s) => (.error f, s)
      | (.ok (ws, q), s) =>
        match State.childWalk w e p i base r ws 0 { k with todo := rest, psn := k.psn || q } s with
        | (.error f, s) => (.error f, s)
        | (.ok k, s) =>
          match State.childWalk w e p i base r ws 1 k s with
          | (.error f, s) => (.error f, s)
          | (.ok k, s) => State.treeWalk w e p i base r n k s

/-- A hit record (Table 9.13). -/
def hitRecord (status : Nat) (h : Option Hit) : List Word32 :=
  let h := h.getD ⟨fInf, 0, 0, 0xFFFFFFFF, 0xFFFFFFFF⟩
  [BitVec.ofNat 32 status, h.t, h.bu, h.bv, h.prim, BitVec.ofNat 32 h.tri, 0, 0]

/-- Trace one ray: its record, and whether a record read was poisoned. -/
def State.trace (s : State) (w : Warp) (e : HkEntry) (p : Party) (i base : Nat) (r : Ray) :
    Except (Option LFault) (List Word32 × Bool) × State :=
  let tally (s : State) (inv : Bool) : State :=
    s.modLaunch w.ident.lid fun l => { l with rays := l.rays + 1, rayinv := l.rayinv + b2n inv }
  if r.invalid then (.ok (hitRecord (0x100 + 3) none, false), tally s true)
  else match State.treeWalk w e p i (base / 64 * 64) r 65536 ⟨[0], none, false, false⟩ s with
  | (.error f, s) => (.error f, s)
  | (.ok k, s) =>
    (.ok (if k.bad then hitRecord 2 none else hitRecord (if k.best.isSome then 0 else 1) k.best, k.psn), tally s false)

/-! ## Ray operands (R333, R399) -/

/-- The stream that a warp reads: its own; for a warp of no stream, the running stream of its context with the lowest number. -/
def State.streamOf (s : State) (w : Warp) : Option Stream :=
  match s.streams.find? fun t => t.warps.any (·.sid == w.ident.sid) with
  | some t => some t
  | none => (sortBy (·.num) (s.streams.filter fun t => t.ctx == w.ident.ctx && t.cur.isSome)).head?

/-- A ray that is INVALID. -/
def Ray.none : Ray := ⟨[0, 0, 0], [0, 0, 0], 0, 0⟩

/-- A generated ray. -/
def Stream.ray (t : Stream) (view strip x y : Nat) (tmax : Word32) : Ray :=
  match t.cur with
  | Option.none => Ray.none
  | some r =>
    match r.views[view]?, t.latches.find? fun l => decide (t.base ≤ l.era) && l.strip == strip && l.view == view with
    | some v, some l =>
      let h := r.ny / r.nstrip
      if r.nx ≤ x || y < strip * h || (strip + 1) * h ≤ y then Ray.none
      else
        let tx := l.h.back x
        let ty := fneg (l.vseg.back y)
        let m (k : Nat) : Word32 := nthW v.rot k
        ⟨v.eye, (List.range 3).map fun k => fsub (fadd (fmul (m (3 * k)) tx) (fmul (m (3 * k + 1)) ty)) (m (3 * k + 2)), 0, tmax⟩
    | _, _ => Ray.none

/-- The ray of lane i, whose operand starts at data slot k. -/
def State.rayOf (s : State) (w : Warp) (e : HkEntry) (gen : Bool) (k i : Nat) : Ray :=
  let x (j : Nat) : Word32 := Lanes.get (e.data.getD (k + j) (Lanes.all 0)) i
  if gen then
    match s.streamOf w with
    | none => Ray.none
    | some t => t.ray ((x 0).toNat % 64) ((x 1).toNat % 16) ((x 2).toNat % 65536) ((x 2).toNat / 65536) (x 3)
  else ⟨[x 0, x 1, x 2], [x 3, x 4, x 5], x 6, x 7⟩

/-- Registers of a ray operand, and how they are read: the octet under `.f32` (R333); of the `.gen` quad, for which no type is given, the view,
strip and sample raw and tmax under `.f32` (log entry 106, DESIGN CHOICE). -/
def raySrc (gen : Bool) (a : R8) : List Src := if gen then [⟨a, 3, tRaw⟩, ⟨a + 3, 1, tF32⟩] else [⟨a, 8, tF32⟩]
def rayRegs (gen : Bool) : Nat := if gen then 4 else 8

/-! ## RTQUERY and RTRACE -/

/-- RTQUERY. -/
def execRtquery (g : Guard) (la : BitVec 4) (gen : Bool) (d a b : R8) (s : State) : Host.Outcome State Fault Refusal :=
  s.huskOp (.rtquery g la gen d a b) g (raySrc gen a) .I fun w _ e =>
    { e with data := slots 8 ++ w.group a (rayRegs gen), psn := List.replicate 8 false, scal := [w.sc b &&& 0x00FFFFFFFFFFFFFF] }

/-- One lane of an RTQUERY: its reads are ordinary reads of the warp. -/
def State.queryRay (s : State) (w : Warp) (e : HkEntry) (gen : Bool) (i : Nat) : LaneRes × State :=
  match s.trace w e (.warp w.vw) i (e.scal.headD 0).toNat (s.rayOf w e gen 8 i) with
  | (.error none, _) => (.wait, s)
  | (.error (some f), s) => (.fault f, s)
  | (.ok (ws, p), s) => (.val ws (List.replicate 8 p), s)

/-- RTRACE: a descriptor's role must be one of the launch's (R311). -/
def execRtrace (g : Guard) (dc : BitVec 3) (gen : Bool) (p : BitVec 3) (a b c : R8) (s : State) :
    Host.Outcome State Fault Refusal :=
  s.issue (.rtrace g dc gen p a b c) g (raySrc gen a) fun s w P =>
    let q := w.quad b
    let role := q.getD 3 0
    if fld role 63 2 != 0 || decide (s.roles w ≤ role.toNat) then .trap 0x02
    else if w.huskFull then .hold s
    else
      let (w, P) := w.noTx P
      if P = 0 then .go s w false
      else
        let tags := (List.range p.toNat).map fun j => (w.tag (c.toNat + j)).setWidth 64
        s.takeEngine w { HkEntry.new w (.rtrace g dc gen p a b c) .D P with
          port := true, data := w.group a (rayRegs gen) ++ w.group c p.toNat, scal := q ++ tags }

/-- The tiller of one lane of an RTRACE (R333). Bits `[63:56]` of the hit and miss words, of which the manual says nothing, are dropped
(log entry 105, DESIGN CHOICE). -/
def rayTiller (e : HkEntry) (gen : Bool) (i : Nat) (ws : List Word32) (psn : Bool) : Tiller :=
  let hit := nthW ws 0 == 0
  let x (k : Nat) : Nat := (e.scal.getD k 0).toNat
  let tag (j : Nat) : Tag := if psn then 15 else hitTags.getD j 0
  let pay := (e.data.drop (rayRegs gen)).zipIdx.map fun (d, j) => (Lanes.get d i, (e.scal.getD (4 + j) 0).setWidth 4)
  ⟨(if hit then x 1 else x 2) % 2 ^ 56, x 3, if hit then 1 else 2,
    ((List.range 6).map fun j => (nthW ws j, tag j)) ++ pay⟩

/-- RAY_TILLER_WRITE: the ray engine finishes one lane and writes its tiller. A pool store beyond the quota freezes the launch
(R363), and RESUME retries it (R481). -/
def State.rayLane (s : State) (w : Warp) (e : HkEntry) (gen : Bool) (i : Nat) : State :=
  if (s.launch w.ident.lid).any fun l => l.owed.any fun x => x.vw == w.vw && x.seq == e.seq && x.lane == i then s
  else match s.trace w e (.xfer w.vw e.seq) i (e.scal.headD 0).toNat (s.rayOf w e gen 0 i) with
  | (.error f, s1) => s1.faultLanes w e.seq f.toList Need.read 1
  | (.ok (ws, p), s1) =>
    let x : OwedTiller := ⟨w.vw, e.seq, i, dieOf (s.coreOf w), rayTiller e gen i ws (p || e.psn.any id)⟩
    (s1.tillerWrite w.ident.lid x).getD
      ((s1.breach w.ident.lid 2 x.die).modLaunch w.ident.lid fun l => { l with owed := l.owed ++ [x] })

end Sys2Proof.Machine
end

