-- ==== Sys2Proof/Machine/Acks.lean ====
section
/-! DEFINITION. Operations of the husk reaching their places, as events of the machine (R258, R269, R303, R314, R326, R333, R170,
R213, R410). An event whose conditions do not hold changes nothing. -/

namespace Sys2Proof.Machine

/-- The warp and the entry that an event names, when it neither awaits service nor still has to be replayed. -/
def State.entryOf (s : State) (vw seq : Nat) : Option (Warp × HkEntry) :=
  match s.warp vw with
  | none => none
  | some w => match w.entry (BitVec.ofNat 16 seq) with
    | none => none
    | some e => if e.state == .awaiting || e.queued then none else some (w, e)

/-- An event on an entry: `f` acts when `ok` holds. -/
def State.onEntry (s : State) (vw seq : Nat) (ok : State → Warp → HkEntry → Bool) (f : State → Warp → HkEntry → State) : State :=
  match s.entryOf vw seq with
  | none => s
  | some (w, e) => if ok s w e then f s w e else s

/-! ## Loads and stores (R258, R410) -/

/-- An earlier MLOOP, MCOOP, BGEMV or RTQUERY of the warp may still read one of these words, and reads it first (R150). Which words an RTQUERY
reads is not known before: it keeps every later load back (log entry 92). -/
def State.readsAhead (s : State) (w : Warp) (e : HkEntry) (l : List Loc) : Bool :=
  (w.husk.takeWhile (·.seq != e.seq)).any fun x => x.undone != 0 && match x.instr with
    | .mloop .. | .mcoop .. => (List.range (x.steps - x.prog)).any fun k => (s.loopLocs w { x with prog := x.prog + k }).any l.contains
    | .bgemv .. => (s.xLocs w x).any l.contains
    | .rtquery .. => true
    | _ => false

/-- Lanes of a load return their data. -/
def State.loadAck (s : State) (w : Warp) (e : HkEntry) (L : Mask) : State :=
  match e.instr with
  | .rtquery _ _ gen _ _ _ => s.eachLane w.vw e.seq L Need.read fun s w e i => s.queryRay w e gen i
  | _ => s.releasing w e fun s => s.eachLane w.vw e.seq L Need.read State.loadLane

/-- LOAD_LANE_COMPLETE. -/
def execLoadLaneComplete (vw seq : Nat) (lanes : Mask) (s : State) : Host.Outcome State Fault Refusal :=
  .next (s.onEntry vw seq
    (fun s w e => (isLoad e.instr || match e.instr with | .rtquery .. => true | _ => false) && s.mayRun w && s.mayPerform w e lanes
      && !s.readsAhead w e (s.locsOf w e lanes))
    fun s w e => s.loadAck w e lanes)

/-- An entry that stores. -/
def storing : Instr → Bool
  | .st .. | .sts .. | .msta .. => true
  | _ => false

/-- Store lanes are performed at their places; a release first drains what its workgroup holds back (R512). -/
def State.storeAcks (s : State) (w : Warp) (e : HkEntry) (L : Mask) : State :=
  s.releasing w e fun s => match e.instr with
    | .msta .. => s.eachRow w.vw e.seq L State.rowLane
    | _ => s.eachLane w.vw e.seq L Need.write State.storeLane

/-- STORE_ACK. -/
def execStoreAck (vw seq : Nat) (lanes : Mask) (s : State) : Host.Outcome State Fault Refusal :=
  .next (s.onEntry vw seq (fun s w e => storing e.instr && s.mayRun w && s.mayPerform w e lanes && s.laneOrder w e lanes && s.holdTurn w e lanes)
    fun s w e => s.storeAcks w e lanes)

/-- LATE_REPLY: to an entry of a frozen or saved sheaf. Acknowledgements of stores are applied; load data and the replies of
operations that a chaff record covers are dropped. -/
def execLateReply (vw seq : Nat) (lanes : Mask) (s : State) : Host.Outcome State Fault Refusal :=
  .next (s.onEntry vw seq (fun s w e => storing e.instr && !s.mayRun w && s.mayPerform w e lanes && s.laneOrder w e lanes && s.holdTurn w e lanes)
    fun s w e => s.latched w e lanes fun s => s.storeAcks w e lanes)

/-- Word k of lane i of a `.q` access is performed ahead of the lane's others, if its checks pass. -/
def State.earlyWord (s : State) (w : Warp) (e : HkEntry) (i k : Nat) : State :=
  let mark (x : HkEntry) : HkEntry := { x with chunks := x.chunks ++ [(i, k, 0)] }
  match effAddr e.instr (lane64 e.addr i) with
  | none => s
  | some a =>
    if e.early i k || (!isLoad e.instr && s.holdsBack w a) then s
    else match s.reach w e i (a + 4 * k) 4 (if isLoad e.instr then Need.read else Need.write) false with
    | (.error _, _) | (.ok (.sys ..), _) => s
    | (.ok t, s1) =>
      if t.badChunk s.mem then s
      else if isLoad e.instr then
        match s1.loadBytes w e (a + 4 * k) 4 t true false with
        | (.error _, _) => s
        | (.ok (b, p), s1) => s1.modWarp w.vw (·.modEntry e.seq fun x => mark { x with
            data := x.data.modify k fun d => Lanes.merge (maskOf (· == i)) (Lanes.all (BitVec.ofNat 32 (ofBytes b))) d
            psn := x.psn.modify k (· || p.any id) })
      else match (storeParts e i 16)[k]? with
        | some (_, b, p) => (s1.putBytes w.who (some (s1.coreOf w)) t b p).modWarp w.vw (·.modEntry e.seq mark)
        | none => s

/-- Lane i of a `.q` access may be performed: any of its words may be, now. -/
def State.earlyLane (s : State) (vw : Nat) (seq : BitVec 16) (i : Nat) : State :=
  let at_ (s : State) : Option (Warp × HkEntry) := (s.warp vw).bind fun w => (w.entry seq).map fun e => (w, e)
  match at_ s with
  | none => s
  | some (w, e) =>
    let L := maskOf (· == i)
    if e.state == .outstanding && !(kindOf e.instr).bound && !has e.txl i && (s.cmpLine w e i).isNone && s.mayRun w && s.mayPerform w e L
        && s.laneOrder w e L
        && !s.readsAhead w e (s.locsOf w e L) then
      let (x, s) := s.drawWord
      (List.range 4).foldl (fun s k =>
        match at_ s with
        | some (w, e) => if x.getLsbD k then s.earlyWord w e i k else s
        | none => s) s
    else s

/-- Words of `.q` accesses are performed at moments of their own (R260), those of a store to a compressed page with their request (R442): which ones
now is free (log entry 4). -/
def State.earlyWords (s : State) : State :=
  s.warps.foldl (fun s w => (w.husk.filter fun e => isQuad e.instr).foldl (fun s e =>
    (lanesOf e.undone).foldl (fun s i => s.earlyLane w.vw e.seq i) s) s) s

/-! ## Atomics (R269, R275) -/

/-- Scope of an atomic. -/
def atomScope : Instr → Scope
  | .atom _ _ _ _ _ sc .. | .acas _ _ _ _ sc .. | .red _ _ _ _ sc .. | .vbmin _ _ sc .. => sc
  | _ => .dv

/-- The batch of a lane: the lanes not yet performed that name its word, by its address or by another one (R269). -/
def State.atomBatch (s : State) (w : Warp) (e : HkEntry) (i : Nat) : List Nat :=
  let place (j : Nat) : Option Loc := s.locOf w.who (lane64 e.addr j).toNat
  (lanesOf e.undone).filter fun j => lane64 e.addr j == lane64 e.addr i || ((place i).isSome && place j == place i)

/-- The lanes of a batch receive what they found (R258). -/
def HkEntry.atomDone (e : HkEntry) (l : List (Nat × Word64)) : HkEntry :=
  l.foldl (fun e (i, x) =>
    { e with pend := e.pend &&& ~~~(maskOf (· == i))
             data := setLane (e.data.take (atomRet e.instr)) i [x.extractLsb' 0 32, x.extractLsb' 32 32] ++ e.data.drop (atomRet e.instr) }) e

/-- The place that performs an atomic and holds its record: the cluster unit of the warp's original cluster for device memory at `.wg` and
`.cl` (Table 5.3), that of the sheaf for a saved slice (R417), else the place of the word. -/
def State.atomPlace (s : State) (w : Warp) (e : HkEntry) (t : Target) : Place :=
  match t with
  | .dram .. => if atomScope e.instr == .wg || atomScope e.instr == .cl then .cluster (w.ident.core / 24) else .loc t.loc
  | _ => s.slicePlace t

/-- The batch at its place: one indivisible step, with its chaff record. -/
def State.batchAt (s : State) (w : Warp) (e : HkEntry) (lanes : List Nat) (t : Target) (n : Nat) : State :=
  let old := BitVec.ofNat 64 (ofBytes (s.readAt w.ident.ctx t n).1)
  let l := (batchRun e lanes old).1
  let s := s.touch w.ident.sid t
  let s := match t with
    | .dram pa _ => s.setMem (s.mem.l1Drop (s.coreOf w) pa)
    | _ => s
  let s := s.eachCopy w.who t fun s who t =>
    s.putBytes who none t (bytesOf n (batchRun e lanes (BitVec.ofNat 64 (ofBytes (s.readAt who.ctx t n).1))).2.toNat) false
  let s := s.chaffed w e 1 (maskOf lanes.contains) old (s.atomPlace w e t) []
  (s.commitSheaf w.ident.sid).modWarp w.vw (·.modEntry e.seq (·.atomDone l))

/-- A batch at a remote bank: what it finds there is free (log entry 4), and so is whether it is refused (R176). -/
def State.batchAway (s : State) (w : Warp) (e : HkEntry) (lanes : List Nat) (a : Nat) (t : Target) : Option (Code8 × Word64) × State :=
  let s := s.sysSend w e 2 (accBytes e.instr) false false a t (lanes.flatMap fun i => [e.operand 0 i, e.operand 1 i])
  match s.peerCause (wordOf e.instr) [0x13, 0x28] with
  | (some x, s) => (some x, s)
  | (none, s) =>
    let (old, s) := s.drawWord
    let old := old &&& BitVec.ofNat 64 (256 ^ accBytes e.instr - 1)
    (none, (s.commitSheaf w.ident.sid).modWarp w.vw (·.modEntry e.seq (·.atomDone (batchRun e lanes old).1)))

/-- Check each address of a batch once (R122): the lanes that reach one place, that place, and the faults of those that reach none. -/
def State.batchReach (s : State) (w : Warp) (e : HkEntry) (lanes : List Nat) : (List Nat × Option Target × List LFault) × State :=
  ((lanes.map fun j => lane64 e.addr j).eraseDups).foldl (fun ((ok, t, fl), s) a =>
    let mine := lanes.filter fun j => lane64 e.addr j == a
    match s.translate w.who a.toNat (accBytes e.instr) Need.atomic with
    | (.error f, s) => ((ok, t, fl ++ mine.map fun j => ⟨j, f.cause, a.toNat, f.level, wordOf e.instr⟩), s)
    | (.ok u, s) => match t with
      | none => ((mine, some u, fl), s)
      | some v => ((if u.loc = v.loc then ok ++ mine else ok, t, fl), s)) (([], none, []), s)

/-- Perform the batch of lane i: the faults of its lanes, if it is not performed. None of a batch that holds a faulting lane is (Table 16.8). -/
def State.batchTry (s : State) (w : Warp) (e : HkEntry) (i : Nat) : List LFault × State :=
  let n := accBytes e.instr
  match s.batchReach w e (s.atomBatch w e i) with
  | ((_, none, fl), s) => (fl, s)
  | ((_, some _, f :: fl), s) => (f :: fl, s)
  | ((ok, some t, fl), s) =>
    let lanes := (List.range 32).filter ok.contains
    let fail (s : State) (c : Code8) (x : Word64) : List LFault × State :=
      (fl ++ lanes.map fun j => ⟨j, c, (lane64 e.addr j).toNat, 0, x⟩, s)
    match t with
    | .sys .. =>
      if atomScope e.instr != .sy then fail s 0x13 (wordOf e.instr)
      else match s.batchAway w e lanes (lane64 e.addr (lanes.headD 0)).toNat t with
        | (some (c, x), s) => fail s c x
        | (none, s) => (fl, s)
    | t => match s.drainFor w (t.words n) with
      | (some x, s) => (fl, s.heldFault w.ident.sid x)
      | (none, s) =>
        if t.badChunk s.mem then fail s 0x29 (s.checkAux w.ident.ctx t)
        else if (s.readAt w.ident.ctx t n).2 then fail s 0x28 (wordOf e.instr)
        else (fl, s.batchAt w e lanes t n)

/-- The other batches of an entry that may be performed, though one of its batches faults (R122, Table 16.8). -/
def State.batchRest (vw : Nat) (seq : BitVec 16) (x : List LFault × State) : List LFault × State :=
  (List.range 32).foldl (fun (fl, s) j =>
    match (s.warp vw).bind fun w => (w.entry seq).map fun e => (w, e) with
    | none => (fl, s)
    | some (w, e) =>
      if has e.undone j && !(fl.any fun f => (s.atomBatch w e j).contains f.lane) && s.mayPerform w e (maskOf (s.atomBatch w e j).contains) then
        let (l, s) := s.batchTry w e j
        (fl ++ l, s)
      else (fl, s)) x

/-- Perform the batch of lane i; where it faults, also the entry's other batches that may be performed; the lanes of those that
fail fault together. -/
def State.atomRun (s : State) (w : Warp) (e : HkEntry) (i : Nat) : State :=
  s.releasing w e fun s =>
    match s.batchTry w e i with
    | ([], s) => s
    | x =>
      let (fl, t) := State.batchRest w.vw e.seq x
      match t.warp w.vw with
      | none => t
      | some w => t.faultFrom s w e.seq (byLane fl) Need.atomic

/-- ATOMIC_BATCH_PERFORM. -/
def execAtomicBatchPerform (vw seq lane : Nat) (s : State) : Host.Outcome State Fault Refusal :=
  .next (s.onEntry vw seq
    (fun s w e => isAtomic e.instr && has e.undone lane && s.mayPerform w e (maskOf (s.atomBatch w e lane).contains))
    fun s w e => s.lately w e (maskOf (s.atomBatch w e lane).contains) fun s => s.atomRun w e lane)

/-! ## Engines -/

/-- What a warp issued before an engine entry that its transfer does not overtake: the reading of a BGEMV's x (R168), and a store through a
race-checked page, since regions agree with issue order (R147, Tables 5.7 and 5.10). -/
def State.engineAfter (s : State) (w : Warp) (e : HkEntry) : Bool :=
  let raced (x : HkEntry) (i : Nat) : Bool := (x.span i).any fun y =>
    match (s.translate w.who y.1 1 ⟨false, false, false⟩).1 with
    | .ok t => pteBit t.pte 6
    | .error _ => false
  (w.husk.takeWhile (·.seq != e.seq)).any fun x => match x.instr with
    | .bgemv .. => x.perf == 0 && x.state == .outstanding
    | .st .. | .sts .. | .msta .. => (lanesOf (x.undone &&& ~~~x.txl)).any (raced x)
    | _ => false

/-- An engine may act for an entry: of a warp that is frozen or saved, only for what was sent before (R409); in a sheaf pair the leading
copy's engines act, once both requests agree and what it issued before is performed (R502, R503). -/
def State.engineTurn (s : State) (w : Warp) (e : HkEntry) : Bool :=
  (if s.mayRun w then !e.queued else e.sent != 0) && e.pend != 0 && !s.engineAfter w e && match s.pairWay w e with
    | .own => true
    | .lead => !s.pairKeeps w e e.asked
    | _ => false

/-- MLOOP_STEP. -/
def execMloopStep (vw seq : Nat) (s : State) : Host.Outcome State Fault Refusal :=
  .next (s.onEntry vw seq State.loopReady State.loopStep)

/-- COPY_CHUNK_LAND: bytes of a copy reach one receiving member. -/
def execCopyChunkLand (vw seq member bytes : Nat) (s : State) : Host.Outcome State Fault Refusal :=
  .next (s.onEntry vw seq
    (fun s w e => (match e.instr with | .ckick .. => true | _ => false) && s.engineTurn w e)
    fun s w e => if s.mayRun w then s.copyLand w e member bytes else s.copyLate w e member bytes)

/-- Whether a BGEMV accumulates. -/
def bankAcc : Instr → Option Bool
  | .bgemv _ _ acc _ _ _ => some acc
  | _ => none

/-- BGEMV_ROW_LAND. -/
def execBgemvRowLand (vw seq : Nat) (s : State) : Host.Outcome State Fault Refusal :=
  .next (s.onEntry vw seq (fun s w e => (bankAcc e.instr).isSome && s.engineTurn w e && e.perf != 0)
    fun s w e => if s.mayRun w || bankAcc e.instr == some true then s.bgemvStep w e ((bankAcc e.instr).getD false) else s.bgemvLate w e)

/-- Whether an RTRACE builds its rays. -/
def rayGen : Instr → Option Bool
  | .rtrace _ _ gen _ _ _ _ => some gen
  | _ => none

/-- RAY_TILLER_WRITE. -/
def execRayTillerWrite (vw seq lane : Nat) (s : State) : Host.Outcome State Fault Refusal :=
  .next (s.onEntry vw seq (fun s w e => (rayGen e.instr).isSome && s.engineTurn w e && has e.pend lane && s.underWay w e (maskOf (· == lane)))
    fun s w e => s.lately w e (maskOf (· == lane)) fun s => s.rayLane w e ((rayGen e.instr).getD false) lane)

/-! ## TEND and pipelines -/

/-- TEND_COMMIT: once every earlier entry of the warp has completed (R523). -/
def execTendCommit (vw seq : Nat) (s : State) : Host.Outcome State Fault Refusal :=
  .next (s.onEntry vw seq
    (fun s w e => (match e.instr with | .tend _ => true | _ => false) && (w.husk.head?).map (·.seq) == some e.seq
      && s.mayPerform w e e.undone)
    fun s w e => s.lately w e e.undone fun s => s.releasing w e fun s => s.tendRun w e)

/-- PIPELINE_RESULT_WRITE: `seq` numbers the operation in its core's pipelines. -/
def execPipelineResultWrite (vw seq : Nat) (s : State) : Host.Outcome State Fault Refusal :=
  .next (s.modWarp vw fun w =>
    let w := w.pipeDone seq
    { w with wins := w.wins.filter fun x => x.susp || x.left != 0 || !x.done })

end Sys2Proof.Machine
end

