-- ==== Sys2Proof/Machine/Packet.lean ====
section
/-! DEFINITION. Packets: reading them, starting them in order, completing, rejecting and failing them (R338, R340 to R345, R485,
R486). -/

namespace Sys2Proof.Machine

/-! ## The ring -/

/-- How the rings of queues are reached: the key of slot 4095 (R337). -/
def State.ringVia (s : State) : Via := ⟨Config.deviceKey s.io.start.starts, false⟩

/-- `FD.AUX` of a mismatch in a packet ring's chunk, as `checkAux`. -/
def State.ringAux (s : State) (c : Nat) : Word64 :=
  crc32c (s.mem.read s.ringVia (c / 64 * 64) 64).1 ++ ((s.mem.badck.find? (·.1 == c / 64)).map (·.2)).getD 0

/-- The eight words of packet n of a queue (R338, R340). -/
def State.packet (s : State) (x : Queue) (n : Nat) : List Word64 :=
  dwordsOf 8 (s.mem.read s.ringVia (x.ring + 64 * (n % 2 ^ x.k)) 64).1

/-- Count one packet on, modulo 2^20. -/
def next20 (n : Nat) : Nat := (n + 1) % 2 ^ 20

/-- Bits that the body of each type uses, words 0x08 to 0x28 (Tables 10.3, 10.5, 10.14, 13.2, 19.7); none for no type. -/
def bodyBits (typ : Nat) : Option (List Word64) :=
  let a : Word64 := BitVec.allOnes 64
  match typ with
  | 0x01 => some [a, 0, 0, 0, 0]
  | 0x02 => some [a, 0x10FFF, 0, 0, 0]
  | 0x03 => some [a, a, 1, 0, 0]
  | 0x04 => some [a, a, 3, 0, 0]
  | 0x05 => some [a, a, a, 0, 0]
  | 0x06 => some [a, 0, 0, 0, 0]
  | 0x07 => some [0xF, a, 0, 0, 0]
  | 0x08 => some [0x00FFFFFFFFFFFFFF, 0xFFFFFFFF, 0xFFFFFFFF, 0x00FFFFFFFFFFFFFF, 0]
  | 0x10 => some [0xFFF001F0FFF, a, a, 0x1FFFFFFFFF, 0xFFFFFF]
  | 0x11 => some [0xFFF, 0, 0, 0, 0]
  | 0x12 => some [0xFFF, a, 0xF, a, a]
  | 0x13 => some [0xFFF, 0, 0, 0, 0]
  | 0x14 => some [0xFFF, a, a, 0, 0]
  | 0x15 => some [0xFFFFF00000FFF, a, 0, 0, 0]
  | 0x16 => some [0xFFFFF00000FFF, 0, 0, 0, 0]
  | 0x17 => some [0x11F1F3F, 0, 0, 0, 0]
  | _ => none

/-- Management types are those of queue 0 (R345). -/
def mgmt (typ : Nat) : Bool := decide (0x10 ≤ typ)

/-- The head packet of a queue may start (R342): there is one, nothing started must complete first. A management packet, and one
with `PK.FENCE`, starts alone. -/
def State.mayStart (s : State) (x : Queue) : Bool :=
  let w0 := (s.packet x x.h).getD 0 0
  x.h != x.t && !x.lost
    && !x.running.any (fun r => match r.kind with | .waitw .. => true | _ => false)
    && ((!(x.q == 0) && !w0.getLsbD 9) || x.running.isEmpty)

/-! ## Completion -/

/-- A descriptor of a packet's own access (R461). -/
def packetDesc (ctx typ : Nat) (tag : Word32) (cause : Code8) (addr : Nat) (x : Word64) : List Word64 :=
  faultDesc cause 7 ctx 0 0 0 (BitVec.ofNat 64 addr) (if cause = 0x29 then x else at_ typ 0 ||| at_ tag.toNat 32)

/-- A store of eight bytes by a command packet of a context: a synchronising access. -/
def State.packetStore (s : State) (ctx addr : Nat) (v : Word64) : Except Code8 State × State :=
  match s.translate ⟨ctx, none, none⟩ addr 8 Need.write with
  | (.error e, s) => (.error e.cause, s)
  | (.ok t, s) =>
    if (s.readAt ctx t 8).2 then (.error 0x28, s)
    else if t.badChunk s.mem then (.error 0x29, s)
    else (.ok (s.putBytes ⟨ctx, none, none⟩ none t (bytesOf 8 v.toNat) false), s)

/-- The completion signal of a packet (R343): one that fails its check, or whose word is poisoned, is not stored and is
reported. -/
def State.signal (s : State) (ctx q : Nat) (r : Running) : State :=
  if r.siga = 0 || mgmt r.typ then s
  else match s.packetStore ctx r.siga r.sigv with
  | (.ok s, _) => s
  | (.error c, s) =>
    s.event ⟨0x01, ctx, q, r.n, 0, 0, [], [packetDesc ctx r.typ r.tag c r.siga (s.checkAuxAt ctx r.siga)]⟩

/-- A running packet completes with a status (R343, R344). -/
def State.completePacket (s : State) (q n status : Nat) : State :=
  match s.queue q, s.running q n with
  | some x, some r =>
    let s := s.modQueue q fun x => { x with running := x.running.filter (·.n != n) }
    let s := if status = 1 then s else s.signal x.ctx q r
    s.record q n r.tag r.cmpl status
  | _, _ => s

/-- A packet is rejected (R341, R485). -/
def State.reject (s : State) (q n reason : Nat) : State :=
  let ctx := match s.queue q with | some x => x.ctx | none => 0
  (s.completePacket q n 1).event ⟨0x04, ctx, q, n, 0, 0, [at_ reason 0], []⟩

/-- A packet fails (R486). -/
def State.failPacket (s : State) (q n failure : Nat) (items : List (List Word64)) : State :=
  let ctx := match s.queue q with | some x => x.ctx | none => 0
  (s.completePacket q n 3).event ⟨0x05, ctx, q, n, 0, 0, [at_ failure 0], items⟩

/-- Failure 4: an access of the packet fails a check. -/
def State.failAccess (s : State) (q n : Nat) (cause : Code8) (addr : Nat) : State :=
  match s.queue q, s.running q n with
  | some x, some r =>
    s.failPacket q n 4 [packetDesc x.ctx r.typ r.tag cause addr (s.checkAuxAt x.ctx addr)]
  | _, _ => s

/-! ## Starting -/

/-- Start the head packet of a queue, if it may start and `mine` accepts its type and body: H counts it, and it is running from
then on. Reserved bits reject it (R485 reason 13); else `f` acts on it: queue, packet count, context, body. -/
def State.startHead (s : State) (q : Nat) (mine : Nat → List Word64 → Bool)
    (f : State → Nat → Nat → List Word64 → State) : State :=
  match s.queue q with
  | none => s
  | some x =>
    let w := s.packet x x.h
    let w0 := w.getD 0 0
    let typ := fld w0 7 0
    let body := (w.drop 1).take 5
    if x.lock.isNone || !s.mayStart x || !mine typ body then s
    else
      let n := x.h
      let r : Running := ⟨n, typ, w0.extractLsb' 32 32, w0.getLsbD 8, (w.getD 6 0).toNat, w.getD 7 0, .launch 0⟩
      let s := s.modQueue q fun x => { x with h := next20 x.h, running := x.running ++ [r] }
      match bodyBits typ with
      | none => s.reject q n 12
      | some m =>
        if mgmt typ != (q == 0) then s.reject q n 12
        else if fld w0 31 10 != 0 || (body.zip m).any (fun p => p.1 &&& ~~~p.2 != 0)
            || (!mgmt typ && fld (w.getD 6 0) 63 56 != 0) then s.reject q n 13
        else if !mgmt typ && (w.getD 6 0).toNat % 8 != 0 then s.reject q n 14
        else f s n x.ctx body

/-- Change what a running packet waits for. -/
def State.setKind (s : State) (q n : Nat) (k : RunKind) : State :=
  s.modQueue q fun x => { x with running := updIf (·.n == n) (fun r => { r with kind := k }) x.running }

/-! ## Signal, wait and copy (R341, R343), as a packet or as a graph node: `.error` is the access that failed. -/

/-- A signal: a store or a 64-bit wrapping add, each as an atomic. -/
def State.doSignal (s : State) (ctx : Nat) (b : List Word64) : Except (Code8 × Nat) State × State :=
  let a := (b.getD 0 0).toNat
  let add := (b.getD 2 0).getLsbD 0
  match s.translate ⟨ctx, none, none⟩ a 8 Need.atomic with
  | (.error e, s) => (.error (e.cause, a), s)
  | (.ok t, s) =>
    let (old, p) := s.readAt ctx t 8
    if p then (.error (0x28, a), s)
    else if t.badChunk s.mem then (.error (0x29, a), s)
    else
      let v := if add then BitVec.ofNat 64 (ofBytes old) + b.getD 1 0 else b.getD 1 0
      (.ok (s.putBytes ⟨ctx, none, none⟩ none t (bytesOf 8 v.toNat) false), s)

/-- Whether a wait's word meets its condition; an error when it cannot be read. -/
def State.waitTest (s : State) (ctx : Nat) (a : Nat) (v : Word64) (cond : Nat) : Except (Code8 × Nat) Bool × State :=
  match s.translate ⟨ctx, none, none⟩ a 8 Need.read with
  | (.error e, s) => (.error (e.cause, a), s)
  | (.ok t, s) =>
    let (b, p) := s.readAt ctx t 8
    let x := BitVec.ofNat 64 (ofBytes b)
    if p then (.error (0x28, a), s)
    else if t.badChunk s.mem then (.error (0x29, a), s)
    else (.ok (if cond = 0 then v.ule x else if cond = 1 then x == v else x != v), s)

/-- Copy `n` words of 4 bytes, ascending, until an access fails: poison goes along (R478). The copy began at `from_`: chunks that it writes
whole take a new check value, others are verified (R139). -/
def State.copyWords (s : State) (ctx src dst from_ : Nat) : Nat → Except (Code8 × Nat) State × State
  | 0 => (.ok s, s)
  | n + 1 =>
    let whole := chunkIn from_ (dst - from_ + 4 * (n + 1)) (dst / 64)
    let who : Who := ⟨ctx, none, none⟩
    match s.translate who src 4 Need.read with
    | (.error e, s) => (.error (e.cause, src), s)
    | (.ok a, s) =>
      match s.translate who dst 4 Need.write with
      | (.error e, s) => (.error (e.cause, dst), s)
      | (.ok b, s) =>
        if a.badChunk s.mem then (.error (0x29, src), s)
        else if b.badChunk s.mem && !whole then (.error (0x29, dst), s)
        else
          let (l, p) := s.readAt ctx a 4
          let s := match b with
            | .dram pa _ => if whole then s.setMem (s.mem.rechecked (pa / 64 * 64) 64) else s
            | _ => s
          State.copyWords (s.putBytes who none b l p) ctx (src + 4) (dst + 4) from_ n

end Sys2Proof.Machine
end

