-- ==== Sys2Proof/Machine/LaunchRec.lean ====
section
/-! DEFINITION. Launch records and group tables: reading and validating them (R42 to R47, Tables 2.3 to 2.5). -/

namespace Sys2Proof.Machine

/-! ## Reads on behalf of no warp (R105) -/

/-- Read an aligned doubleword for a context: the cause and address of a check of R122 that fails, of a poisoned word (0x28), or of
a check value that does not match (0x29). -/
def State.readDw (s : State) (ctx a : Nat) : Except (Code8 × Nat) Word64 × State :=
  match s.translate ⟨ctx, none, none⟩ a 8 Need.read with
  | (.error e, s) => (.error (e.cause, a), s)
  | (.ok t, s) =>
    let (b, p) := s.readAt ctx t 8
    if p then (.error (0x28, a), s)
    else if t.badChunk s.mem then (.error (0x29, a), s)
    else (.ok (BitVec.ofNat 64 (ofBytes b)), s)

/-- Read `n` doublewords. -/
def State.readDws (s : State) (ctx a : Nat) : Nat → Except (Code8 × Nat) (List Word64) × State
  | 0 => (.ok [], s)
  | n + 1 =>
    match s.readDw ctx a with
    | (.error e, s) => (.error e, s)
    | (.ok w, s) =>
      match State.readDws s ctx (a + 8) n with
      | (.error e, s) => (.error e, s)
      | (.ok l, s) => (.ok (w :: l), s)

/-! ## The record -/

/-- Cores of a shape code (Table 2.3). -/
def shapeCores : Nat → Nat
  | 0 => 1 | 1 => 2 | 2 => 4 | 3 => 6 | 4 => 8 | 5 => 12 | _ => 24

/-- A role descriptor from its four words. -/
def Role.of (w : List Word64) : Role :=
  let b := w.getD 1 0
  { pc := (w.getD 0 0).toNat, vblk := fld b 4 0, sregs := fld b 15 8, acc := fld b 20 16, scr := 64 * fld b 39 24,
    warps := fld b 45 40 }

/-- A launch record from its 24 words. -/
def LRec.of (w : List Word64) : LRec :=
  let a := w.getD 0 0
  let b := w.getD 1 0
  { paired := a.getLsbD 8, restart := a.getLsbD 9, atOnce := a.getLsbD 10, graphics := a.getLsbD 11,
    shape := shapeCores (fld a 34 32), wgs := fld a 45 40 + 1, prio := fld a 51 48, nsheaf := fld b 31 0 + 1,
    slack := fld b 47 32, retry := fld b 55 48, spill := (w.getD 4 0).toNat, quota := fld (w.getD 5 0) 31 0,
    roles := (List.range (fld a 17 16 + 1)).map fun r => Role.of (w.drop (8 + 4 * r)) }

/-- Bits that the words of a record and of a role descriptor use. -/
def recBits : List Word64 :=
  [0x000F3F0700030FFF, 0x00FFFFFFFFFFFFFF, 0x00FFFFFFFFFFFFFF, 0xFFFFFFFFFFFFFFFF, 0x00FFFFFFFFFFFFFF, 0xFFFFFFFF, 0, 0]
def roleBits : List Word64 := [0x00FFFFFFFFFFFFFF, 0x00003FFFFF1FFF1F, 0, 0]

/-- No word has a bit outside its mask. -/
def bitsOk (w m : List Word64) : Bool := (w.zip m).all fun p => p.1 &&& ~~~p.2 == 0

/-- Sum over the roles, times the members on the fullest core (R44). -/
def LRec.load (r : LRec) (f : Role → Nat) : Nat := (r.wgs + r.shape - 1) / r.shape * (r.roles.map f).sum

/-- Items 1 to 9 of R44, as the first that fails. -/
def LRec.check (r : LRec) (w : List Word64) : Option Nat :=
  let a := w.getD 0 0
  let narg := fld (w.getD 3 0) 63 56
  let used := (List.range r.roles.length).all fun i => bitsOk ((w.drop (8 + 4 * i)).take 4) roleBits
  if fld a 7 0 != 1 || !bitsOk (w.take 8) recBits || !used || fld a 34 32 == 7 then some 1
  else if r.wgs < r.shape then some 2
  else if r.roles.any fun x =>
      x.warps == 0 || decide (32 < x.warps) || decide (128 < x.sregs) || decide (16 < x.acc) || decide (16384 * 64 < x.scr)
        || x.pc % 8 != 0 then some 3
  else if 32 < (r.roles.map (·.warps)).sum then some 4
  else if 128 < narg ∨ r.roles.any (fun x => decide (x.sregs < narg)) then some 5
  else if 64 < r.load (·.warps) then some 6
  else if 4096 < r.load (fun x => x.warps * 8 * (x.vblk + 1)) then some 7
  else if 64 < r.load (fun x => x.warps * x.acc) then some 8
  else if 1048576 < r.load (·.scr) then some 9
  else none

/-! ## The group table (R46, R47) -/

/-- A group at launch start. -/
def Group.start (idx : Nat) (all : Bool) (members : List Nat) (sys : Bool) (ndev sysid : Nat) : Group :=
  ⟨idx, all, members, sys, ndev, sysid, 0, [], [], 0, false⟩

/-- Ascending list. -/
def ascending : List Nat → Bool
  | a :: b :: r => decide (a < b) && ascending (b :: r)
  | _ => true

/-- One entry: none for an empty group, `.error` when the entry breaks R46 or a read fails. -/
def State.groupEntry (s : State) (ctx W idx : Nat) (w : List Word64) : Except Unit (Option Group) × State :=
  let x (k : Nat) : Word64 := w.getD k 0
  let kind := fld (x 0) 1 0
  let sys := (x 0).getLsbD 2
  let cnt := fld (x 0) 63 24
  let ndev := fld (x 2) 19 0
  let sysOk := x 3 == 0 && if sys then fld (x 2) 31 20 == 0 && ndev != 0 else x 2 == 0
  let mk (all : Bool) (m : List Nat) : Option Group := some (Group.start idx all m sys ndev (fld (x 2) 63 32))
  if kind = 0 then (if w.all (· == 0) then (.ok none, s) else (.error (), s))
  else if fld (x 0) 23 3 != 0 || !sysOk then (.error (), s)
  else if kind = 1 then (if cnt = 0 ∧ x 1 = 0 then (.ok (mk true []), s) else (.error (), s))
  else if kind = 2 then
    let first := fld (x 1) 39 0
    let stride := fld (x 1) 63 40
    if cnt = 0 ∨ stride = 0 ∨ W ≤ first + (cnt - 1) * stride then (.error (), s)
    else (.ok (mk false ((List.range cnt).map fun i => first + i * stride)), s)
  else if cnt = 0 ∨ 65536 < cnt ∨ fld (x 1) 63 56 ≠ 0 then (.error (), s)
  else match s.readDws ctx (x 1).toNat cnt with
    | (.error _, s) => (.error (), s)
    | (.ok l, s) =>
      let m := l.map (·.toNat)
      if ascending m && m.all (· < W) then (.ok (mk false m), s) else (.error (), s)

/-- Groups that contain a workgroup. -/
def groupsWith (l : List Group) (wg : Nat) : Nat := (l.filter fun g => g.all || g.members.contains wg).length

/-- No workgroup belongs to more than four groups (R47). -/
def fourGroups (l : List Group) : Bool :=
  decide (l.length ≤ 4) || (decide (groupsWith l 0 ≤ 4) && decide ((l.filter (·.all)).length ≤ 4) &&
    (l.flatMap (·.members)).all fun wg => decide (groupsWith l wg ≤ 4))

/-- The group table of a record. -/
def State.groupTable (s : State) (ctx W a : Nat) : Except Unit (List Group) × State :=
  if a = 0 then (.ok [Group.start 0 true [] false 0 0], s)
  else match s.readDws ctx a 1024 with
  | (.error _, s) => (.error (), s)
  | (.ok t, s) =>
    let (r, s) := (List.range 256).foldl (fun (r, s) i =>
      match r with
      | .error () => (.error (), s)
      | .ok l => match s.groupEntry ctx W i ((t.drop (4 * i)).take 4) with
        | (.error (), s) => (.error (), s)
        | (.ok none, s) => (.ok l, s)
        | (.ok (some g), s) => (.ok (l ++ [g]), s)) ((.ok [] : Except Unit (List Group)), s)
    match r with
    | .error () => (.error (), s)
    | .ok l => if fourGroups l then (.ok l, s) else (.error (), s)

/-! ## Validation -/

/-- A validated launch: record, arguments, groups. -/
structure Valid where
  r : LRec
  args : List Word64
  groups : List Group
  deriving DecidableEq, Repr

/-- Items 1 to 10 of R44 on a record read from memory, or reason 15 when the record itself cannot be read. A template's group table
is ignored (R381). -/
def State.readRecord (s : State) (ctx a : Nat) (template : Bool) : Except Nat Valid × State :=
  if a % 64 ≠ 0 then (.error 14, s)
  else match s.readDws ctx a 24 with
  | (.error _, s) => (.error 15, s)
  | (.ok w, s) =>
    let r := LRec.of w
    match r.check w with
    | some n => (.error n, s)
    | none =>
      let gt := (w.getD 2 0).toNat
      let ar := fld (w.getD 3 0) 55 0
      if gt % 64 ≠ 0 ∨ ar % 8 ≠ 0 ∨ r.spill % 4096 ≠ 0 then (.error 10, s)
      else match s.readDws ctx ar (fld (w.getD 3 0) 63 56) with
      | (.error _, s) => (.error 10, s)
      | (.ok args, s) =>
        if template then (.ok ⟨r, args, []⟩, s)
        else match s.groupTable ctx (r.nsheaf * r.wgs) gt with
        | (.error (), s) => (.error 10, s)
        | (.ok g, s) => (.ok ⟨r, args, g⟩, s)

end Sys2Proof.Machine
end

