-- ==== Sys2Proof/Machine/Replay.lean ====
section
/-! DEFINITION. Replay (R406, R410, R414, R415): what a replayed request receives from chaff records, the order in which a resuming warp
issues its husk again, and requests that were sent before a freeze. -/

namespace Sys2Proof.Machine

/-! ## Chaff records (R405, R406) -/

/-- Records that places hold under the tag of an entry (R404). -/
def State.recordsOf (s : State) (w : Warp) (e : HkEntry) : List Chaff :=
  s.mem.chaff.filter fun c => c.ctx == w.ident.ctx && c.vw == w.vw && c.seq == e.seq

/-- Outcomes of a TEND reach a warp: 0 commits a lane, another cause aborts it. -/
def Warp.tendOutcome (w : Warp) (e : HkEntry) (x : Lanes) : Warp :=
  let C := e.pend &&& w.tx.inTx
  let ok := C &&& maskOf fun i => Lanes.get x i == 0
  let w := (lanesOf (C &&& ~~~ok)).foldl (fun w i => w.abortNow (maskOf (· == i)) ((Lanes.get x i).setWidth 8)) w
  { w with tx := { w.tx with inTx := w.tx.inTx &&& ~~~ok, reads := w.tx.reads.filter (fun r => !has ok r.1),
                             writes := w.tx.writes.filter fun r => !has ok r.lane } }

/-- The outcomes that a TEND record keeps: lanes that are in neither mask aborted with CONFLICT (Table 12.3). -/
def Chaff.outcomes (c : Chaff) : Lanes := Lanes.of fun i => if c.value.getLsbD i then 0 else if c.value.getLsbD (32 + i) then 0x02 else 0x01

/-- The rows of a BGEMV that its record keeps; with the last its flags return (R326). -/
def Warp.rowsRecalled (w : Warp) (e : HkEntry) (rows : Nat) : Warp :=
  let last := rows = (e.scal.getD 4 0).toNat
  let w := w.modEntry e.seq fun x => { x with chunks := [(0, max x.rows.1 rows, rows)], prog := rows, pend := if last then 0 else x.pend }
  if last then w.flags ((e.scal.getD 5 0).setWidth 6) else w

/-- What a request receives from one record of its tag: nothing is performed again. -/
def State.recall (s : State) (w : Warp) (e : HkEntry) (c : Chaff) : State :=
  let mod (f : HkEntry → HkEntry) : State := s.modWarp w.vw (·.modEntry e.seq f)
  match c.kind with
  | 1 => mod fun x => x.atomDone ((batchRun x (lanesOf c.lanes) c.value).1.filter fun r => has x.pend r.1)
  | 3 => match e.instr with
    | .phase .. => (s.boundary w.vw e.closes).modWarp w.vw (·.modEntry e.seq fun x => { x with perf := x.pend, closes := none })
    | _ => s.performed w.vw e true
  | 4 => (s.modWarp w.vw (·.modEntry e.seq fun x => { x.receive (lanesOf c.lanes) c.vals with planes := c.lanes })).performed w.vw e false
  | 5 => match e.instr with
    | .tspawn .. => if dcOf e.instr = 0 then s.performed w.vw e false else mod fun x => { x with perf := x.pend }
    | .rtrace .. => mod fun x => { x with pend := x.pend &&& ~~~c.lanes }
    | _ => s.performed w.vw e false
  | 6 => (s.modWarp w.vw (·.tendOutcome e c.outcomes)).performed w.vw e (c.value.extractLsb' 0 32 != 0)
  | 7 => s.modWarp w.vw (·.rowsRecalled e c.value.toNat)
  | _ => s.performed w.vw e false

/-- A request of an entry reaches places that may hold its records. -/
def State.recallAll (s : State) (w : Warp) (e : HkEntry) : State :=
  (s.recordsOf w e).foldl (fun s c =>
    match (s.warp w.vw).bind (·.entry e.seq) with
    | some x => s.recall w x c
    | none => s) s

/-! ## Order of replay (R415) -/

/-- The entry that a replay issues next: in ascending sequence number, a class O entry only once every earlier entry has completed, no
entry before an issued class O entry has completed or parked. -/
def Warp.nextReplay (w : Warp) : Option HkEntry :=
  match w.husk.find? (·.queued) with
  | none => none
  | some e =>
    let before := w.husk.takeWhile (·.seq != e.seq)
    if (e.cls == .O && !before.isEmpty) || before.any (fun x => x.cls == .O && !x.parked) then none else some e

/-- A replay issues one entry: its request finds the records of its tag. -/
def State.reissue (s : State) (w : Warp) : Option State :=
  w.nextReplay.map fun e =>
    let w1 := w.modEntry e.seq fun x => { x with queued := false }
    (s.setWarp w1).recallAll w1 { e with queued := false }

/-- A re-executed operation of a leading copy finds the records that its places kept since the checkpoint (R275, R506). -/
def State.repeated (s : State) (w : Warp) (e : HkEntry) : Option State :=
  match s.sheaf w.ident.sid with
  | none => none
  | some h =>
    if h.pair.retries = 0 || e.rep || h.trail || h.twin.isNone || (s.recordsOf w e).isEmpty then none
    else
      let e1 := { e with rep := true }
      some ((s.setWarp (w.setEntry e1)).recallAll w e1)

/-! ## Requests sent before a freeze (R409, R410, R414) -/

/-- What happens at its place to a request that was sent before its warp froze: a phase arrival stands in the entry, the reply to
another is dropped. -/
def State.lateAct (s : State) (w : Warp) (f : State → Warp → HkEntry → Option State) : Option State :=
  w.husk.findSome? fun e =>
    if e.sent = 0 || e.state != .outstanding || !s.mayPerform w e e.undone then none
    else (f s w e).map fun s1 =>
      match e.instr with
      | .phase .. => s1.modWarp w.vw (·.unsend e.seq e.undone)
      | _ => s.lately w e e.undone fun _ => s1

/-- A request that was sent before a freeze has still to be performed or refused at its place; one that is queued there for its turn is
not waited for (log entry 86). -/
def State.sentDue (s : State) (w : Warp) (e : HkEntry) : Bool :=
  e.sent != 0 && e.state != .awaiting && match e.instr with
  | .ckick .. | .bgemv .. => s.engineTurn w e
  | .tend _ => s.mayPerform w e e.undone
  | i =>
    if isAtomic i then (lanesOf e.sent).any fun j => s.mayPerform w e (maskOf (s.atomBatch w e j).contains)
    else (storing i || (rayGen i).isSome) && (lanesOf e.sent).any fun j =>
      s.mayPerform w e (s.request w e j) && (!storing i || s.laneOrder w e (s.request w e j))

/-- Every request that a sheaf's warps sent before the freeze has been performed or refused (R414). -/
def State.drained (s : State) (sid : Nat) : Bool :=
  (s.warps.filter (·.ident.sid == sid)).all fun w => w.husk.all fun e => !s.sentDue w e

end Sys2Proof.Machine
end

