-- ==== Sys2Proof/Machine/Place.lean ====
section
/-! DEFINITION. Placement: what sheaves take of cores, the order of placement, starting and resuming sheaves (R29, R36 to R41, R51,
R59, R61, R66, R355 to R358, R391, R500, R514). -/

namespace Sys2Proof.Machine

/-! ## New things -/

/-- A launch as admitted. -/
def Launch.new (lid ctx queue packet order : Nat) (r : LRec) (args : List Word64) (groups : List Group) : Launch :=
  { lid := lid, ctx := ctx, queue := queue, packet := packet, node := none, order := order, r := r, args := args, groups := groups,
    state := if r.atOnce then .waiting else .admitted, held := false, queues := [], pages := [], tasks := [], pool := [], owed := [], rows := 0, rays := 0,
    rayinv := 0, view := none }

/-- A sheaf not yet placed. -/
def Sheaf.new (sid lid idx : Nat) (kind : WarpKind) : Sheaf :=
  { sid := sid, lid := lid, idx := idx, kind := kind, state := .unstarted, why := .none, orig := 0, cur := 0, areas := [],
    pieces := [], placed := 0,
    scr := [], psn := [], bars := [], img := none, frozenAt := 0, clean := true, stores := [], order := [], twin := none, trail := false,
    pair := PairSt.start, restarts := 0, zone := none, shun := [], seed := [] }

/-- A warp at its sheaf's start (Table 2.1), with its role's budgets and its scalars. -/
def Warp.start (vw : Nat) (id : Ident) (r : Role) (args : List Word64) (now wslot : Nat) : Warp :=
  { vw := vw, ident := id, vpc := of64 fun _ => BitVec.ofNat 64 r.pc, v := List.replicate (8 * (r.vblk + 1)) VReg.zero,
    s := (List.range r.sregs).map fun i => args.getD i 0,
    p := Vector.ofFn fun i : Fin 16 => if i.val = 0 then BitVec.allOnes 32 else 0, acc := List.replicate r.acc Acc.unbound,
    dc := Vector.replicate 6 0, spr := Spr.start, cfg := MatCfg.start, clause := Clause.none, mids := [], dbg := (0, 0),
    wins := [], pipe := [], husk := [], nseq := 0, tx := Tx.start, slot := .ready, waits := Waits.none,
    readyAt := now, turnWords := 0, held := none, wslot := wslot, region := 0, opened := [(0, now)], suppress := 0, issued := 0,
    vals := [], reads := [], traps := [] }

/-! ## Resources of a core (R44, R357) -/

/-- Warp slots, vector registers, accumulator tiles and scratchpad bytes. -/
structure Load where
  slots : Nat
  vregs : Nat
  acc : Nat
  scr : Nat
  deriving DecidableEq, Repr

def Load.add (a b : Load) : Load := ⟨a.slots + b.slots, a.vregs + b.vregs, a.acc + b.acc, a.scr + b.scr⟩
def Load.zero : Load := ⟨0, 0, 0, 0⟩
def Load.full : Load := ⟨64, 4096, 64, 2 ^ 20⟩
def Load.le (a b : Load) : Bool := decide (a.slots ≤ b.slots ∧ a.vregs ≤ b.vregs ∧ a.acc ≤ b.acc ∧ a.scr ≤ b.scr)

/-- What `n` members of a role take, scratchpad apart. -/
def Role.load (r : Role) (n : Nat) : Load := ⟨n * r.warps, n * (r.warps * 8 * (r.vblk + 1)), n * (r.warps * r.acc), 0⟩

/-- One warp of a role with no scratchpad (R321). -/
def Role.one (r : Role) : Load := ⟨1, 8 * (r.vblk + 1), r.acc, 0⟩

/-- What a sheaf of a record takes on its core j: the allocation stands on a 1 KiB boundary. -/
def LRec.loadOn (r : LRec) (j : Nat) : Load :=
  let n := r.onCore j
  { r.roles.foldl (fun a x => a.add (x.load n)) Load.zero with scr := (n * r.area + 1023) / 1024 * 1024 }

/-- Role of a formed sheaf's warp. -/
def Sheaf.formedRole (h : Sheaf) : Nat := ((h.seed.head?).map (·.ident.role)).getD 0

/-- What a sheaf takes on its core j. -/
def State.sheafLoad (s : State) (h : Sheaf) (j : Nat) : Load :=
  match s.lrec h with
  | none => Load.zero
  | some r => if h.formed then ((r.roles[h.formedRole]?).map Role.one).getD Load.zero else r.loadOn j

/-- A sheaf's state stands on its cores. -/
def Sheaf.onCores (h : Sheaf) : Bool := h.state == .resident || h.state == .frozen

/-- Sheaves on a core. -/
def State.on (s : State) (core : Nat) : List Sheaf :=
  s.sheaves.filter fun h => h.onCores && match s.lrec h with
    | some r => decide (h.cur ≤ core ∧ core < h.cur + h.width r)
    | none => false

/-- The stream floor of a cluster (R391). -/
def State.floor (s : State) (cl : Nat) : Nat :=
  s.streams.foldl (fun a t => max a (((t.floors.find? (·.1 == cl)).map (·.2)).getD 0)) 0

/-- A core's slice belongs to the strip stores (R391). -/
def State.strips (s : State) (core : Nat) : Bool := decide (24 - s.floor (core / 24) ≤ core % 24)

/-- What a core's sheaves take, those of `gone` left out, with the strip stores. -/
def State.load (s : State) (gone : List Nat) (core : Nat) : Load :=
  ((s.on core).filter fun h => !gone.contains h.sid).foldl (fun a h => a.add (s.sheafLoad h (core - h.cur)))
    (if s.strips core then { Load.zero with scr := 2 ^ 20 } else Load.zero)

/-! ## Scratchpad areas (R106, R357) -/

/-- Base and size of the scratchpad areas that a core's sheaves hold, those of `gone` left out; strip stores take the whole slice. -/
def State.areasOn (s : State) (gone : List Nat) (core : Nat) : List (Nat × Nat) :=
  ((((s.on core).filter fun (h : Sheaf) => !gone.contains h.sid).map fun (h : Sheaf) =>
      (h.areas.getD (core - h.cur) 0, (s.sheafLoad h (core - h.cur)).scr))
    ++ if s.strips core then [(0, 2 ^ 20)] else []).filter fun x => x.2 != 0

/-- An area of `n` bytes at `o` lies in the slice and meets no other. -/
def areaFree (l : List (Nat × Nat)) (n o : Nat) : Bool :=
  decide (o + n ≤ 2 ^ 20) && l.all fun x => decide (x.1 + x.2 ≤ o ∨ o + n ≤ x.1)

/-- The lowest base of a free area of `n` bytes: 0, or the end of an area in use. -/
def lowestArea (l : List (Nat × Nat)) (n : Nat) : Option Nat :=
  if n = 0 then some 0
  else ((0 :: l.map fun x => x.1 + x.2).filter (areaFree l n)).foldl (fun a o => some (min o (a.getD o))) none

/-- The base that a placement takes: which free one is not architectural, so it is a free choice among the 1 KiB boundaries (log
entry 84). -/
def State.pickArea (s : State) (core n : Nat) : Nat × State :=
  let l := s.areasOn [] core
  let (x, s) := s.drawWord
  let o := x.toNat % 1024 * 1024
  (if n = 0 then 0 else if areaFree l n o then o else (lowestArea l n).getD 0, s)

/-! ## Pieces of saved images (R412) -/

/-- A piece lies on a core. -/
def PieceAt.on (core : Nat) : PieceAt → Bool
  | .scr c _ | .reg c _ => c == core
  | .reserve _ => false

/-- Up to `n` free 64 KiB units of the save reserve, lowest first. -/
def State.reserveUnits (s : State) (n : Nat) : List PieceAt :=
  let used := (s.sheaves.flatMap (·.pieces)).filter fun p => match p with | .reserve _ => true | _ => false
  let size := Config.saveReserve.2 / 65536
  if n = 0 then []
  else (((List.range (min size (n + used.length))).map PieceAt.reserve).filter (!used.contains ·)).take n

/-- Pieces on the cores of a run, those of a sheaf that takes it left out. -/
def State.piecesOn (s : State) (sid c0 n : Nat) : List PieceAt :=
  (s.sheaves.filter (·.sid != sid)).flatMap fun h => h.pieces.filter fun p => (List.range n).any fun j => p.on (c0 + j)

/-- The reserve has room for the pieces that a placement moves out of its cores. -/
def State.piecesMove (s : State) (sid c0 n : Nat) : Bool :=
  let l := s.piecesOn sid c0 n
  l.isEmpty || (s.reserveUnits l.length).length == l.length

/-- A placement needs a run's space back: the pieces on its cores move to the save reserve first. -/
def State.movePieces (s : State) (sid c0 n : Nat) : State :=
  (s.piecesOn sid c0 n).foldl (fun s p =>
    match s.reserveUnits 1 with
    | q :: _ => { s with sheaves := s.sheaves.map fun h => { h with pieces := h.pieces.map fun x => if x == p then q else x } }
    | [] => s) s

/-! ## Runs of cores (R36, R357) -/

/-- Partition sizes (R364): graphics cores of a cluster. -/
def State.gOf (s : State) (cl : Nat) : Nat := ((s.cores.bal[cl]?).map (·.g)).getD 0
def State.graphicsCore (s : State) (core : Nat) : Bool := decide (24 - s.gOf (core / 24) ≤ core % 24)

/-- A core takes sheaves (R518, R521). -/
def State.serving (s : State) (core : Nat) : Bool :=
  decide (core < 1152) && !s.cores.out.contains core && !s.cores.test.contains core

/-- A need fits on a core beside what `gone` does not vacate. -/
def State.coreFits (s : State) (gone : List Nat) (graphics : Bool) (core : Nat) (need : Load) : Bool :=
  s.serving core && s.graphicsCore core == graphics && ((s.load gone core).add need).le Load.full
    && (lowestArea (s.areasOn gone core) need.scr).isSome

/-- A run from `c0` admits a need per core. -/
def State.runFits (s : State) (gone : List Nat) (graphics : Bool) (n c0 : Nat) (need : Nat → Load) : Bool :=
  c0 % 24 % n == 0 && (List.range n).all fun j => s.coreFits gone graphics (c0 + j) (need j)

/-- First cores of the aligned runs of n cores. -/
def runStarts (n : Nat) : List Nat := (List.range 48).flatMap fun cl => (List.range (24 / n)).map fun k => 24 * cl + n * k

/-- A core index is no live sheaf's original placement in a context (R59). -/
def State.origFree (s : State) (ctx n c0 : Nat) : Bool :=
  !s.sheaves.any fun h => h.live && !h.trail && s.ctxOf h == ctx && match s.lrec h with
    | some r => decide (h.orig < c0 + n ∧ c0 < h.orig + h.width r)
    | none => false

/-- Zone and clusters of a sheaf allow a run. -/
def Sheaf.zoneOk (h : Sheaf) (c0 : Nat) : Bool :=
  match h.zone with
  | some (a, n) => decide (a ≤ c0 ∧ c0 < a + n)
  | none => true

/-- Runs on which a sheaf could stand if `gone` were vacated; an Unstarted one needs original cores of its own. -/
def State.runs (s : State) (gone : List Nat) (h : Sheaf) : List Nat :=
  match s.lrec h with
  | none => []
  | some r =>
    (runStarts (h.width r)).filter fun c0 =>
      h.zoneOk c0 && (h.state == .saved || s.origFree (s.ctxOf h) (h.width r) c0)
        && s.runFits gone r.graphics (h.width r) c0 (s.sheafLoad h) && s.piecesMove h.sid c0 (h.width r)

/-- The runs left when a relaunched sheaf avoids clusters: all of them again when no other has room, for a restart only after 1 ms
(R509, R514). -/
def State.shunned (s : State) (h : Sheaf) (l : List Nat) : List Nat :=
  let other := l.filter fun c0 => !h.shun.contains (c0 / 24)
  if other.isEmpty && (h.twin.isSome || decide (h.frozenAt + 1000000 ≤ s.io.time.timebase.toNat)) then l else other

/-- Runs for the trailing copy beside a leading one at `c0` (R500). -/
def State.trailRuns (s : State) (h : Sheaf) (c0 : Nat) : List Nat :=
  match s.lrec h with
  | none => []
  | some r => s.shunned h ((runStarts (h.width r)).filter fun c =>
      c / 24 != c0 / 24 && s.runFits [] r.graphics (h.width r) c (s.sheafLoad h) && s.piecesMove h.sid c (h.width r))

/-- Runs on which a sheaf, with its twin, can be placed now. -/
def State.homes (s : State) (h : Sheaf) : List Nat :=
  let l := s.shunned h (s.runs [] h)
  match h.twin with
  | none => l
  | some _ => l.filter fun c0 => !(s.trailRuns h c0).isEmpty

/-- The runs of a sheaf and, for a paired one, those of its trailing copy beside each. -/
def State.seats (s : State) (h : Sheaf) : List (Nat × Option Nat) :=
  (s.homes h).flatMap fun c0 => match h.twin with
    | none => [(c0, none)]
    | some _ => (s.trailRuns h c0).map fun c => (c0, some c)

/-! ## Order (R51, R357) -/

/-- A formed warp not placed yet (R321, R355): R357 does not order it. -/
def Sheaf.forming (h : Sheaf) : Bool := h.formed && h.state == .unstarted

/-- The cause for which a sheaf's image, or its trailing copy's, fails its check (R424). -/
def State.badImage (s : State) (h : Sheaf) : Option Code8 := h.img.or ((h.twin.bind s.sheaf).bind (·.img))

/-- A saved sheaf may be placed again: it was moved out to make room, its images are whole, and what its warps sent before the freeze is
over, in both copies of a pair (R414). -/
def State.resumable (s : State) (h : Sheaf) : Bool :=
  h.state == .saved && h.why == .evict && (s.badImage h).isNone && s.drained h.sid && h.twin.all s.drained

/-- A sheaf of a running launch that placement may take: Unstarted, or Saved and eligible again. Trailing copies go with their
leading ones, sheaves of an ADMIT launch together. -/
def State.waiting (s : State) (h : Sheaf) : Bool :=
  !h.trail && (h.state == .unstarted || s.resumable h) &&
    match s.launch h.lid with
    | some l => l.state == .admitted && !l.held && (!l.r.atOnce || h.forming)
    | none => false

/-- A workgroup belongs to a group. -/
def Group.has (g : Group) (wg : Nat) : Bool := g.all || g.members.contains wg

/-- A sheaf has a member that a phase in progress still waits for (R51): a workgroup of the group of which some warp has neither
arrived nor finished. -/
def State.owes (s : State) (h : Sheaf) : Bool :=
  h.kind == .member && match s.launch h.lid with
    | none => false
    | some l => l.groups.any fun g => !g.arrived.isEmpty && (List.range l.r.wgs).any fun m =>
        g.has (h.idx * l.r.wgs + m) && (h.state == .unstarted ||
          s.warps.any fun w => w.ident.sid == h.sid && w.ident.member == m && w.slot != .finished && !g.arrived.contains w.vw)

/-- Every warp of a sheaf has finished or is parked on a PHASE. -/
def State.arrivedSheaf (s : State) (h : Sheaf) : Bool :=
  h.state != .unstarted && (s.warps.filter (·.ident.sid == h.sid)).all fun w =>
    w.slot == .finished || w.husk.any fun e => match e.instr with | .phase .. => e.perf != 0 | _ => false

/-- Priority of a sheaf's launch. -/
def State.prio (s : State) (h : Sheaf) : Nat := ((s.launch h.lid).map (·.r.prio)).getD 0

/-- Rank of a sheaf: higher priority first, then admission order. -/
def State.ahead (s : State) (a b : Sheaf) : Bool :=
  match s.launch a.lid, s.launch b.lid with
  | some la, some lb => decide (lb.r.prio < la.r.prio) || (la.r.prio == lb.r.prio && decide (la.order < lb.order))
  | _, _ => false

/-- Within a launch: Saved before Unstarted, then ascending `ID_SHEAF`. -/
def Sheaf.before (a b : Sheaf) : Bool :=
  if a.state == b.state then decide (a.idx < b.idx) else a.state == .saved

/-- No sheaf stands before this one: none of its launch, but for those with no member that a phase waits for while it has one itself (R51);
none of a launch before it that could be placed now. -/
def State.inTurn (s : State) (h : Sheaf) : Bool :=
  let r51 := s.owes h
  h.forming || s.sheaves.all fun x => x.sid == h.sid || x.forming || !s.waiting x ||
    if x.lid == h.lid then !x.before h || (r51 && !s.owes x)
    else !s.ahead x h || (s.homes x).isEmpty

/-! ## Placing -/

/-- A core's instruction cache drops what placement makes it drop, and a sheaf's pins that leave it (R136, R137). -/
def Mem.dropCode (m : Mem) (core ctx : Nat) : Mem :=
  { m with il := m.il.filter fun l => !(l.core == core && l.ctx == ctx && l.pins.isEmpty) }

/-- Warp slots in use on a core (R54). -/
def State.slotsUsed (s : State) (core : Nat) : List Nat :=
  (s.on core).flatMap fun h => (s.warps.filter fun w => w.ident.sid == h.sid && h.cur + (w.ident.core - h.orig) == core).map (·.wslot)

/-- The lowest free warp slot of a core. -/
def lowestFree (l : List Nat) : Nat := ((List.range 64).find? fun k => !l.contains k).getD 0

/-- The warps of a sheaf take slots on their cores, one after the other. -/
def State.seat (s : State) (h : Sheaf) : State :=
  let core (w : Warp) : Nat := h.cur + (w.ident.core - h.orig)
  let mine := s.warps.filter (·.ident.sid == h.sid)
  let taken (c : Nat) : List Nat := s.slotsUsed c
  let (_, slots) := mine.foldl (fun (seen, l) w =>
    let k := lowestFree (taken (core w) ++ (seen.filter fun x => x.1 == core w).map (·.2))
    ((core w, k) :: seen, l ++ [(w.vw, k)])) (([] : List (Nat × Nat)), ([] : List (Nat × Nat)))
  { s with warps := updIf (·.ident.sid == h.sid) (fun w =>
      { w with wslot := ((slots.find? (·.1 == w.vw)).map (·.2)).getD 0 }) s.warps }

/-- The warps of a sheaf member m, in role order (R40). -/
def roleWarps (r : LRec) : List Nat := r.roles.zipIdx.flatMap fun (x, k) => List.replicate x.warps k

/-- Identity and start of one warp of a sheaf. -/
def Sheaf.warpOf (h : Sheaf) (l : Launch) (vw m k role now : Nat) : Warp :=
  let wg := h.idx * l.r.wgs + m
  let id : Ident := { ctx := l.ctx, lid := h.lid, sid := h.sid, member := m, idWarp := k, role := role, kind := h.kind,
                      idSheaf := BitVec.ofNat 32 h.idx, idWg := BitVec.ofNat 64 wg, core := h.orig + m % l.r.shape }
  Warp.start vw id (l.r.roles.getD role ⟨0, 0, 0, 0, 0, 0⟩) l.args now 0

/-- The warps of a sheaf that starts. -/
def State.startWarps (s : State) (h : Sheaf) : State :=
  match s.launch h.lid with
  | none => s
  | some l =>
    (List.range l.r.wgs).foldl (fun s m =>
      (roleWarps l.r).zipIdx.foldl (fun s (role, k) =>
        let (vw, s) := s.fresh
        { s with warps := s.warps ++ [h.warpOf l vw m k role s.now] }) s) s

/-- The cores of a run drop code of a context. -/
def State.dropCode (s : State) (c0 n ctx : Nat) : State :=
  s.setMem ((List.range n).foldl (fun m j => m.dropCode (c0 + j) ctx) s.mem)

/-- Apply the arrivals deferred for a saved sheaf, in ascending `DA.ORDER` (R418): the order of arrival, in which they are listed,
whatever has wrapped. -/
def State.applyDeferred (s : State) (h : Sheaf) : State :=
  let mine := s.mem.defer.filter (·.sid == h.sid)
  let s := s.setMem { s.mem with defer := s.mem.defer.filter (·.sid != h.sid) }
  mine.foldl (fun s d =>
    let t : Target := .scr h.sid (d.core - h.orig) d.off 0
    s.mbApply ⟨d.ctx, none, none⟩ d.lid t d.op (0xF0 * 2 ^ 48 + d.core * 2 ^ 20 + d.off)) s

/-- A resuming warp replays its husk before it issues a new word (R415): what has not completed is issued again, with the replay bit. -/
def Warp.replay (w : Warp) : Warp :=
  let again (e : HkEntry) : HkEntry := { e with state := .outstanding, sent := 0, queued := e.pend != 0, rep := e.rep || e.pend != 0 }
  { w with husk := w.husk.map again, held := none,
           slot := if w.slot == .ready then .waiting else w.slot }

/-- A placed sheaf runs again (R414, R411). What the L1 of its core holds from before may be older than what a warp has read or written
(R149). -/
def State.unfreeze (s : State) (sid : Nat) : State :=
  match s.sheaf sid with
  | none => s
  | some h =>
    let s := s.modSheaf sid fun h => { h with state := .resident, why := .none, pieces := [] }
    let back (w : Warp) : Warp := { w.replay with opened := w.opened.map fun o => (o.1, s.now) }
    { s.applyDeferred h with warps := updIf (·.ident.sid == sid) back s.warps }

/-- One copy of a sheaf takes a run of cores: first placement or resumption. -/
def State.seatAt (s : State) (sid c0 : Nat) : State :=
  match s.sheaf sid with
  | none => s
  | some h => match s.launch h.lid with
    | none => s
    | some l =>
      let s := s.movePieces sid c0 (h.width l.r)
      let first := h.state == .unstarted
      let orig := if first && !h.trail then c0 else h.orig
      let (areas, s) := (List.range (h.width l.r)).foldl (fun ((a, s) : List Nat × State) j =>
        let (o, s) := s.pickArea (c0 + j) (s.sheafLoad h j).scr
        (a ++ [o], s)) ([], s)
      let s := (s.dropCode c0 (h.width l.r) l.ctx).modSheaf sid fun x =>
        { x with orig := orig, cur := c0, areas := areas, placed := s.now }
      let h1 := { h with orig := orig, cur := c0 }
      if first then
        let start (w : Warp) : Warp := { w with ident := { w.ident with core := orig }, readyAt := s.now, opened := [(0, s.now)] }
        let s := if h.seed.isEmpty then s.startWarps h1
          else { s with warps := s.warps ++ h.seed.map start,
                        cmd := { s.cmd with bins := s.cmd.bins.filter (·.sid != some sid) } }
        (s.seat h1).modSheaf sid fun x => { x with state := .resident, why := .none }
      else (s.seat h1).unfreeze sid

/-- Place a sheaf at a run, and its trailing copy at another. -/
def State.seatOn (s : State) (sid c0 : Nat) (c : Option Nat) : State :=
  let s1 := s.seatAt sid c0
  match c, s1.sheaf sid with
  | some c, some h => match h.twin with
    | some t => (s1.modSheaf t fun x => { x with orig := h.orig }).seatAt t c
    | none => s1
  | _, _ => s1

/-- Place a sheaf at a run; which of the runs that it may take its trailing copy takes is free (log entry 13). -/
def State.seatSheaf (s : State) (sid c0 : Nat) : State :=
  match s.sheaf sid with
  | none => s
  | some h =>
    if h.twin.isNone then s.seatOn sid c0 none
    else
      let l := s.trailRuns h c0
      let (x, s) := s.drawWord
      s.seatOn sid c0 l[x.toNat % max 1 l.length]?

/-! ## Room (R51, R61, R358) -/

/-- Resident sheaves of lower priority. -/
def State.lower (s : State) (h : Sheaf) : List Sheaf :=
  s.sheaves.filter fun x => x.state == .resident && x.sid != h.sid && decide (s.prio x < s.prio h)

/-- Resident sheaves of another partition than a record's (R61). -/
def State.foreign (s : State) (graphics : Bool) : List Sheaf :=
  s.sheaves.filter fun x => x.state == .resident && match s.lrec x with | some a => a.graphics != graphics | _ => false

/-- Arrived sheaves of the launch of one for which a phase waits (R51). -/
def State.arrivedOf (s : State) (h : Sheaf) : List Sheaf :=
  if s.owes h then s.sheaves.filter fun x => x.state == .resident && x.sid != h.sid && x.lid == h.lid && s.arrivedSheaf x else []

/-- Lowest priority first, then the most recently placed. -/
def State.evictOrder (s : State) (l : List Sheaf) : List Sheaf :=
  sortBy (fun x => s.prio x * 2 ^ 64 + (2 ^ 64 - 1 - x.placed)) l

/-- Candidates taken in order until the need fits, then each that is not needed given back. -/
def victimsOf (fits : List Nat → Bool) (l : List Nat) : Option (List Nat) :=
  match ((List.range (l.length + 1)).map l.take).find? fits with
  | none => none
  | some v => some (v.reverse.foldl (fun v x => let r := v.filter (· != x); if fits r then r else v) v)

/-- Sheaves that freeze together: those of an ADMIT launch, and the copies of a pair (R66, R500). -/
def State.together (s : State) (sid : Nat) : List Nat :=
  match s.sheaf sid with
  | none => []
  | some h =>
    let base := match s.launch h.lid with
      | some l => if l.r.atOnce then (s.sheaves.filter fun (x : Sheaf) => x.lid == h.lid && x.onCores).map fun (x : Sheaf) => x.sid else [sid]
      | none => [sid]
    (base ++ (base.filterMap fun x => (s.sheaf x).bind (·.twin))).eraseDups

/-- The machine with some sheaves moved out, with those that freeze with them and those already frozen to make room. -/
def State.vacated (s : State) (gone : List Nat) : State :=
  let l := gone.flatMap s.together ++ (s.sheaves.filter fun h => h.state == .frozen && h.why == .evict).map (·.sid)
  { s with sheaves := updIf (fun h => l.contains h.sid) (fun h => { h with state := .saved }) s.sheaves }

/-- The sheaves to freeze so that a sheaf fits somewhere in its partition (R358, R61), arrived ones of its own launch only when no
other room exists (R51); none when that makes no room. -/
def State.victims (s : State) (h : Sheaf) : Option (List Nat) :=
  let others := match s.lrec h with | some r => s.foreign r.graphics | none => []
  let l := s.evictOrder (s.lower h ++ others) ++ s.evictOrder (s.arrivedOf h)
  victimsOf (fun gone => !((s.vacated gone).homes h).isEmpty) (l.map (·.sid)).eraseDups

/-- Freeze a sheaf to be saved, with those that freeze with it. -/
def State.evict (s : State) (sid : Nat) : State := (s.together sid).foldl (fun s x => s.freezeSheaf x .evict) s

end Sys2Proof.Machine
end

