-- ==== Sys2Proof/Machine/Admit.lean ====
section
/-! DEFINITION. Admitting launches, placing them, and their end (R44 item 11, R66, R67, R346, R357, R480). -/

namespace Sys2Proof.Machine

/-! ## Could the partition ever hold the launch (R44 item 11, R66) -/

/-- A core that a partition may hold under the BALANCE limits and stream floors in force (R364, R391). -/
def State.mayHold (s : State) (graphics : Bool) (core : Nat) : Bool :=
  match s.cores.bal[core / 24]? with
  | none => false
  | some b =>
    let lo := max b.gmin (s.floor (core / 24))
    if graphics then decide (24 - (if b.fixed then lo else b.gmax) ≤ core % 24) else decide (core % 24 < 24 - lo)

/-- Copies of a need that an empty core holds. -/
def State.copiesOf (s : State) (core : Nat) (need : Load) : Nat :=
  let free : Load := if s.strips core then { Load.full with scr := 0 } else Load.full
  let per (have_ want : Nat) : Nat := if want = 0 then 64 else have_ / want
  min (min (per free.slots need.slots) (per free.vregs need.vregs)) (min (per free.acc need.acc) (per free.scr need.scr))

/-- Copies of a sheaf that an empty run holds. -/
def State.runCopies (s : State) (r : LRec) (c0 : Nat) : Nat :=
  (List.range r.shape).foldl (fun a j =>
    let c := c0 + j
    min a (if s.cores.out.contains c || !s.mayHold r.graphics c then 0 else s.copiesOf c (r.loadOn j))) 64

/-- All sheaves of a record, and their trailing copies, find runs on empty cores: leading copies on distinct runs (R59), a trailing copy
on another cluster (R500). Since a cluster can hold at most one of the two copies of a sheaf, a launch of n pairs fits when there are
n runs that hold a copy and, with no cluster taking more than n copies, room for 2n. -/
def State.everFits (s : State) (r : LRec) : Bool :=
  let l := (runStarts r.shape).map fun c0 => (c0 / 24, s.runCopies r c0)
  let room (cl : Nat) : Nat := min r.nsheaf ((l.filter (·.1 == cl)).map (·.2)).sum
  decide (r.nsheaf ≤ (l.filter fun x => decide (0 < x.2)).length)
    && (!r.paired || decide (2 * r.nsheaf ≤ ((List.range 48).map room).sum))

/-- Item 11 of R44. -/
def State.item11 (s : State) (r : LRec) : Bool := r.atOnce && !s.everFits r

/-! ## Admission -/

/-- Sheaves of a launch as admitted; a paired one has two copies of each (R500). -/
def State.newSheaves (s : State) (lid : Nat) (r : LRec) : State :=
  (List.range r.nsheaf).foldl (fun s i =>
    let (a, s) := s.fresh
    if r.paired then
      let (b, s) := s.fresh
      { s with sheaves := s.sheaves ++ [{ Sheaf.new a lid i .member with twin := some b },
                                        { Sheaf.new b lid i .member with twin := some a, trail := true }] }
    else { s with sheaves := s.sheaves ++ [Sheaf.new a lid i .member] }) s

/-- A context's priority ceiling (R346). -/
def State.ceiling (s : State) (ctx : Nat) : Nat := ((s.cmd.ctxs.find? (·.id == ctx)).map (·.ceiling)).getD 15

/-- A validated launch is admitted to placement, for a packet or for a graph node of the packet; its number is given. -/
def State.admitLaunch (s : State) (ctx q n : Nat) (node : Option (Nat × Nat)) (v : Valid) : Nat × State :=
  let (lid, s) := s.fresh
  let r := { v.r with prio := min v.r.prio (s.ceiling ctx) }
  let l := { Launch.new lid ctx q n s.cmd.nextLid r v.args v.groups with node := node }
  (lid, ({ s with launches := s.launches ++ [l], cmd := { s.cmd with nextLid := s.cmd.nextLid + 1 } }).newSheaves lid r)

/-! ## Placing (R357, R358, R66) -/

/-- Sheaves of an ADMIT launch that are to be placed together: all Unstarted ones, or all Saved ones. -/
def State.admitGroup (s : State) (l : Launch) : List Sheaf :=
  if !l.r.atOnce || l.held then []
  else
    let mine := s.sheaves.filter fun h => h.lid == l.lid && !h.trail
    if l.state == .waiting then mine.filter (·.state == .unstarted)
    else
      let sv := mine.filter (·.state == .saved)
      if sv.all s.resumable then sv else []

/-- Place them one after the other, on the first runs that leave room for all; none when no choice of runs does. -/
def planFrom : List Sheaf → State → Option State
  | [], s => some s
  | h :: r, s => match s.sheaf h.sid with
    | none => none
    | some h => (s.seats h).findSome? fun c => planFrom r (s.seatOn h.sid c.1 c.2)

/-- Place the sheaves of a list together, if they all find room. -/
def State.planAll (s : State) (l : List Sheaf) : Option State := planFrom l s

/-- No ADMIT launch ahead of a sheaf could be placed now. -/
def State.admitsAhead (s : State) (h : Sheaf) : Bool :=
  s.launches.any fun l => match s.launch h.lid with
    | some me => l.lid != me.lid && (decide (me.r.prio < l.r.prio) || (l.r.prio == me.r.prio && decide (l.order < me.order)))
        && !(s.admitGroup l).isEmpty && (s.planAll (s.admitGroup l)).isSome
    | none => false

/-- SHEAF_PLACE (R357, R358): an Unstarted or Saved sheaf whose turn it is is placed on the run at a core; where it fits nowhere, the
sheaves that must make room for it freeze. -/
def State.placeSheaf (s : State) (sid core : Nat) : State :=
  match s.sheaf sid with
  | none => s
  | some h =>
    if !s.waiting h || !s.inTurn h || s.admitsAhead h then s
    else
      let l := s.homes h
      if l.contains core then s.seatSheaf sid core
      else if !l.isEmpty then s
      else ((s.victims h).getD []).foldl State.evict s

/-- SHEAF_PLACE. -/
def execSheafPlace (sid core : Nat) (s : State) : Host.Outcome State Fault Refusal := .next (s.placeSheaf sid core)

/-! ## The end of a launch (R39, R67, R346, R480) -/

/-- Keys of a context return to the unused state when no launch of it is left (R173, R474). -/
def State.keysReset (s : State) (ctx : Nat) : State :=
  if s.launches.any (·.ctx == ctx) then s
  else s.setMem { s.mem with keys := s.mem.keys.filter (·.ctx != ctx), pins1 := s.mem.pins1.filter (·.1 != ctx) }

/-- A launch leaves the machine, with its sheaves, warps, tillers and deferred arrivals; nothing is reported here. -/
def State.removeLaunch (s : State) (lid : Nat) : State :=
  match s.launch lid with
  | none => s
  | some l =>
    let sids := (s.sheaves.filter (·.lid == lid)).map (·.sid)
    let s := sids.foldl (fun s sid => (s.dropWarps sid).setMem ((s.dropWarps sid).mem.dropPins sid)) s
    let s := { s with
      sheaves := s.sheaves.filter (·.lid != lid)
      launches := s.launches.filter (·.lid != lid)
      mem := { s.mem with defer := s.mem.defer.filter (fun d => !sids.contains d.sid) }
      cmd := { s.cmd with bins := s.cmd.bins.filter (·.lid != lid), deadSince := s.cmd.deadSince.filter (·.1 != l.ctx) } }
    s.keysReset l.ctx

/-- The node of a launch has ended (R350). -/
def State.nodeEnded (s : State) (ctx : Nat) (node : Nat × Nat) : State :=
  { s with cmd := { s.cmd with graphs := updIf (fun g => g.ctx == ctx && g.inst == node.1) (fun g =>
      { g with nodes := g.nodes.modify node.2 fun x => { x with state := .ended } }) s.cmd.graphs } }

/-- A launch has retired (R67): its packet completes, or its node has ended. -/
def State.retireLaunch (s : State) (lid : Nat) : State :=
  match s.launch lid with
  | none => s
  | some l =>
    let s := (s.removeLaunch lid).post (.note 2 lid)
    if l.view.isSome then s
    else match l.node with
    | some n => s.nodeEnded l.ctx n
    | none => s.completePacket l.queue l.packet 0

/-- A launch is discarded (R346): its sheaves freeze, keys that its warps hold are poisoned, its state goes. -/
def State.discardLaunch (s : State) (lid : Nat) : State :=
  let s := s.freezeLaunch lid .cancel
  let vws := (s.warps.filter (·.ident.lid == lid)).map (·.vw)
  (vws.foldl (fun s v => s.loseKeys v 1) s).removeLaunch lid

/-- Remember a failure of a graph's generation. -/
def State.graphFails (s : State) (ctx inst failure : Nat) (items : List (List Word64)) : State :=
  { s with cmd := { s.cmd with graphs := updIf (fun g => g.ctx == ctx && g.inst == inst) (fun g =>
      { g with failed := some (g.failed.getD (failure, items)) }) s.cmd.graphs } }

/-- A launch fails (R480, R486, R510, R66): a fault event when it has descriptors of its own, then it is discarded and its packet
completes with status 3. -/
def State.failLaunch (s : State) (lid failure : Nat) (items : List (List Word64)) : State :=
  match s.launch lid with
  | none => s
  | some l =>
    let s := s.freezeLaunch lid .cancel
    let s := if items.isEmpty then s else s.event (s.evOf 0x01 lid [] items)
    let s := s.discardLaunch lid
    if l.view.isSome then s
    else match l.node with
    | some n => (s.nodeEnded l.ctx n).graphFails l.ctx n.1 failure items
    | none => s.failPacket l.queue l.packet failure (if failure = 1 then items.take 1 else [])

/-- The sheaves of lower priority to freeze so that a whole launch may be placed, as one sheaf of its priority (R66, R358). -/
def State.admitVictims (s : State) (g : List Sheaf) : List Nat :=
  let c := (s.evictOrder (g.flatMap s.lower)).map (·.sid)
  (victimsOf (fun gone => ((s.vacated gone).planAll g).isSome) c.eraseDups).getD []

/-- No sheaf or ADMIT launch that stands before a launch in the order of R357 could be placed now. -/
def State.admitTurn (s : State) (g : List Sheaf) : Bool :=
  match g.head? with
  | none => false
  | some h => !s.admitsAhead h && s.sheaves.all fun x =>
      x.lid == h.lid || x.forming || !s.waiting x || !s.ahead x h || (s.homes x).isEmpty

/-- LAUNCH_ADMIT (R66): a waiting launch whose sheaves all find room is placed whole; one that no longer can ever be placed fails; else
it frees room as one sheaf of its priority (R358). -/
def State.admitWhole (s : State) (lid : Nat) : State :=
  match s.launch lid with
  | none => s
  | some l =>
    let g := s.admitGroup l
    if g.isEmpty then s
    else if l.state == .waiting && !s.everFits l.r then s.failLaunch lid 6 []
    else if !s.admitTurn g then s
    else match s.planAll g with
    | some s1 => s1.modLaunch lid fun l => { l with state := .admitted }
    | none => (s.admitVictims g).foldl State.evict s

/-- LAUNCH_ADMIT. -/
def execLaunchAdmit (lid : Nat) (s : State) : Host.Outcome State Fault Refusal := .next (s.admitWhole lid)

end Sys2Proof.Machine
end

