-- ==== Sys2Proof/Machine/Graph.lean ====
section
/-! DEFINITION. Launch packets and the graph engine (R341, R344, R348 to R351, R491). -/

namespace Sys2Proof.Machine

/-! ## Launch packets -/

/-- The head packet of a queue, when it is a launch, is validated and its launch admitted (R341, R44). -/
def State.launchPacket (s : State) (q : Nat) : State :=
  s.startHead q (fun t _ => t == 0x01) fun s n ctx b =>
    match s.readRecord ctx (b.getD 0 0).toNat false with
    | (.error reason, s) => s.reject q n reason
    | (.ok v, s) =>
      if s.item11 v.r then s.reject q n 11
      else
        let (lid, s) := s.admitLaunch ctx q n none v
        s.setKind q n (.launch lid)

/-- LAUNCH_PACKET. -/
def execLaunchPacket (q : Nat) (s : State) : Host.Outcome State Fault Refusal := .next (s.launchPacket q)

/-! ## Loading a graph (R348, R349) -/

/-- Read `n` 32-bit words for a context; none when a read fails. -/
def State.readWs (s : State) (ctx a : Nat) : Nat → Option (List Nat) × State
  | 0 => (some [], s)
  | n + 1 =>
    match s.translate ⟨ctx, none, none⟩ a 4 Need.read with
    | (.error _, s) => (none, s)
    | (.ok t, s) =>
      let (b, p) := s.readAt ctx t 4
      if p || t.badChunk s.mem then (none, s)
      else
        let (r, s) := State.readWs s ctx (a + 4) n
        (r.map (ofBytes b :: ·), s)

/-- The body of a signal, wait or copy node passes the checks of its packet. -/
def bodyOk (kind : Nat) (b : List Word64) : Bool :=
  let typ := kind + 1
  let x (k : Nat) : Nat := (b.getD k 0).toNat
  (match bodyBits typ with | some m => (b.zip m).all fun p => p.1 &&& ~~~p.2 == 0 | none => false) &&
    match kind with
    | 2 => x 0 % 8 == 0 && decide (x 0 < 2 ^ 56)
    | 3 => x 0 % 8 == 0 && decide (x 0 < 2 ^ 56) && x 2 != 3
    | _ => x 0 % 4 == 0 && x 1 % 4 == 0 && decide (x 0 < 2 ^ 56) && decide (x 1 < 2 ^ 56) && x 2 % 4 == 0 && decide (x 2 ≤ 2 ^ 30)

/-- One node (Table 10.8), checked; none rejects the arm. -/
def State.readNode (s : State) (ctx succ : Nat) (w : List Word64) : Option GNode × State :=
  let x (k : Nat) : Word64 := w.getD k 0
  let kind := fld (x 0) 3 0
  if fld (x 0) 31 4 != 0 || kind == 0 || decide (5 < kind) || fld (x 2) 63 56 != 0 || x 3 != 0 then (none, s)
  else
    let (l, s) := s.readWs ctx (succ + 4 * fld (x 1) 31 0) (fld (x 1) 63 32)
    match l with
    | none => (none, s)
    | some l =>
      let mk (body : List Word64) (v : Option Valid) : GNode :=
        { kind := kind, init := fld (x 0) 63 32, succ := l, body := body, rcd := v.map (·.r), args := (v.map (·.args)).getD [],
          groups := (v.map (·.groups)).getD [], cnt := 0, gen := 0, state := .idle }
      if kind = 5 then (some (mk [] none), s)
      else if kind = 1 then
        match s.readRecord ctx (x 2).toNat false with
        | (.ok v, s) => (if s.item11 v.r then none else some (mk [] (some v)), s)
        | (.error _, s) => (none, s)
      else match s.readDws ctx (x 2).toNat 5 with
        | (.ok b, s) => (if bodyOk kind b then some (mk b none) else none, s)
        | (.error _, s) => (none, s)

/-- Nodes reached when every predecessor of a node has been (R349: no cycle). -/
def sorted (nodes : List GNode) : Bool :=
  let n := nodes.length
  let preds (v : Nat) : List Nat := (List.range n).filter fun u => ((nodes[u]?).map (·.succ.contains v)).getD false
  let step (done : List Nat) : List Nat := (List.range n).filter fun v => (preds v).all done.contains
  ((List.range n).foldl (fun done _ => step done) []).length == n

/-- Every `GN.INIT` is the number of edges that name the node, and every successor exists. -/
def edgesOk (nodes : List GNode) : Bool :=
  let e := nodes.flatMap (·.succ)
  e.all (decide <| · < nodes.length) && nodes.zipIdx.all fun (x, v) => x.init == e.count v

/-- Load a graph table: reason 15 when its header cannot be read, 14 for a check of R349 that fails. -/
def State.readGraph (s : State) (ctx a : Nat) : Except Nat (List GNode) × State :=
  match s.readDws ctx a 8 with
  | (.error _, s) => (.error 15, s)
  | (.ok h, s) =>
    let x (k : Nat) : Word64 := h.getD k 0
    let n := fld (x 0) 31 0
    let na := (x 1).toNat
    let sa := (x 2).toNat
    if n = 0 ∨ 65536 < n ∨ fld (x 0) 63 32 ≠ 1 ∨ na % 32 ≠ 0 ∨ sa % 4 ≠ 0 ∨ 2 ^ 56 ≤ na ∨ 2 ^ 56 ≤ sa
        ∨ (h.drop 3).any (· != 0) then (.error 14, s)
    else match s.readDws ctx na (4 * n) with
    | (.error _, s) => (.error 14, s)
    | (.ok w, s) =>
      let (r, s) := (List.range n).foldl (fun (r, s) i =>
        match r with
        | none => (none, s)
        | some l =>
          let (x, s) := State.readNode s ctx sa ((w.drop (4 * i)).take 4)
          (x.map (l ++ [·]), s)) ((some [] : Option (List GNode)), s)
      match r with
      | none => (.error 14, s)
      | some l => (if edgesOk l && sorted l then .ok l else .error 14, s)

/-- Graph instances of the engine of an instance number: that of CD(instance mod 8). -/
def State.engineCounters (s : State) (ctx inst : Nat) : Nat :=
  ((s.cmd.graphs.filter fun g => g.inst % 8 == inst % 8 && !(g.ctx == ctx && g.inst == inst)).map (·.nodes.length)).sum

/-! ## Running (R350, R491) -/

def State.graph (s : State) (ctx inst : Nat) : Option Graph := s.cmd.graphs.find? fun g => g.ctx == ctx && g.inst == inst
def State.modGraph (s : State) (ctx inst : Nat) (f : Graph → Graph) : State :=
  { s with cmd := { s.cmd with graphs := updIf (fun g => g.ctx == ctx && g.inst == inst) f s.cmd.graphs } }

/-- A node takes a state. -/
def State.nodeState (s : State) (ctx inst v : Nat) (x : NState) : State :=
  s.modGraph ctx inst fun g => { g with nodes := g.nodes.modify v fun n => { n with state := x } }

/-- A node's own access fails: it ends, and its arm will fail (log entry 14). -/
def State.nodeFails (s : State) (g : Graph) (v typ : Nat) (cause : Code8) (a : Nat) : State :=
  let x := s.checkAuxAt g.ctx a
  let tag := match g.armed with
    | some (q, n) => ((s.running q n).map (·.tag)).getD 0
    | none => 0
  (s.nodeState g.ctx g.inst v .ended).graphFails g.ctx g.inst 4 [packetDesc g.ctx typ tag cause a x]

/-- A command core admits the launch of a node that has started (R347, R350). -/
def State.admitNode (s : State) (ctx inst v : Nat) : State :=
  match (s.graph ctx inst).bind fun g => g.armed.bind fun a => (g.nodes[v]?).map fun x => (a, x) with
  | some ((q, n), x) => match x.rcd with
    | some r => if x.state == .running then (s.admitLaunch ctx q n (some (inst, v)) ⟨r, x.args, x.groups⟩).2 else s
    | none => s
  | none => s

/-- Start node v (R350): a launch, which goes to a command core, or a wait runs on, everything else has ended at once. -/
def State.startNode (s : State) (ctx inst v : Nat) : State :=
  match s.graph ctx inst with
  | none => s
  | some g => match g.nodes[v]?, g.armed with
    | some x, some _ =>
      let ended (s : State) : State := s.nodeState ctx inst v .ended
      let b (k : Nat) : Nat := (x.body.getD k 0).toNat
      match x.kind, x.rcd with
      | 1, some _ => (s.nodeState ctx inst v .running).post (.node ctx inst v)
      | 2, _ => match s.doSignal ctx x.body with
        | (.ok s, _) => ended s
        | (.error (c, a), s) => s.nodeFails g v 3 c a
      | 3, _ => match s.waitTest ctx (b 0) (x.body.getD 1 0) (b 2) with
        | (.ok true, s) => ended s
        | (.ok false, s) => s.nodeState ctx inst v .running
        | (.error (c, a), s) => s.nodeFails g v 4 c a
      | 4, _ => match s.copyWords ctx (b 0) (b 1) (b 1) (b 2 / 4) with
        | (.ok s, _) => ended s
        | (.error (c, a), s) => s.nodeFails g v 5 c a
      | _, _ => ended s
    | _, _ => s

/-- A node that may start in a generation does: not when the generation is poisoned. -/
def State.startReady (s : State) (ctx inst v : Nat) : State :=
  match s.graph ctx inst with
  | some g => if g.poisoned then s else s.startNode ctx inst v
  | none => s

/-- The arm's packet completes when no node of the generation is left to run (R350, R491). -/
def State.armDone (s : State) (ctx inst : Nat) : State :=
  match s.graph ctx inst with
  | none => s
  | some g => match g.armed with
    | none => s
    | some (q, n) =>
      if g.nodes.any fun x => x.state == .running || x.state == .ended || (x.state == .idle && !g.poisoned) then s
      else
        let s := s.modGraph ctx inst fun g => { g with armed := none, poisoned := false, failed := none }
        if g.poisoned then s.failPacket q n 3 []
        else match g.failed with
        | some (f, items) => s.failPacket q n f items
        | none => s.completePacket q n 0

/-- One successor's counter, and whether it reaches zero. -/
def GNode.count (x : GNode) (g : Word32) : GNode × Bool :=
  let c := (if x.gen = g then x.cnt else x.init) - 1
  ({ x with cnt := c, gen := g }, c == 0)

/-- Node u completes: the updates of R350 are one step. -/
def State.completeNode (s : State) (ctx inst u : Nat) : State :=
  match s.graph ctx inst with
  | none => s
  | some g => match g.nodes[u]? with
    | none => s
    | some x =>
      if x.state != .ended then s
      else
        let (nodes, zero) := x.succ.foldl (fun (nodes, zero) v =>
          match nodes[v]? with
          | none => (nodes, zero)
          | some y => let (y, z) := y.count g.g; (nodes.set v y, if z then zero ++ [v] else zero))
          (g.nodes.modify u (fun x => { x with state := .done }), ([] : List Nat))
        let s := s.modGraph ctx inst fun y => { y with nodes := if g.poisoned then g.nodes.modify u (fun x => { x with state := .done }) else nodes }
        let s := if g.poisoned then s else zero.foldl (fun s v => s.startReady ctx inst v) s
        s.armDone ctx inst

/-- GRAPH_NODE_COMPLETE. -/
def execGraphNodeComplete (ctx graph node : Nat) (s : State) : Host.Outcome State Fault Refusal :=
  .next (s.completeNode ctx graph node)

/-- An arm starts the next generation of a loaded instance. -/
def State.armGraph (s : State) (ctx inst q n : Nat) : State :=
  let s := s.modGraph ctx inst fun g =>
    { g with g := g.g + 1, armed := some (q, n), poisoned := false, failed := none,
             nodes := g.nodes.map fun x => { x with state := .idle } }
  match s.graph ctx inst with
  | none => s
  | some g =>
    let roots := (List.range g.nodes.length).filter fun v => ((g.nodes[v]?).map (·.init == 0)).getD false
    (roots.foldl (fun s v => s.startReady ctx inst v) s).armDone ctx inst

/-- GRAPH_ARM: it starts when no generation of the instance is running; it loads the table when told to, or the first time. -/
def execGraphArm (q : Nat) (s : State) : Host.Outcome State Fault Refusal :=
  let ctx := ((s.queue q).map (·.ctx)).getD 0
  let inst (b : List Word64) : Nat := fld (b.getD 1 0) 11 0
  let free (b : List Word64) : Bool := match s.graph ctx (inst b) with | some g => g.armed.isNone | none => true
  .next (s.startHead q (fun t b => t == 0x02 && free b) fun s n ctx b =>
    let i := inst b
    let s := s.setKind q n (.graph i)
    if (s.graph ctx i).isSome && !(b.getD 1 0).getLsbD 16 then s.armGraph ctx i q n
    else match s.readGraph ctx (b.getD 0 0).toNat with
    | (.error reason, s) => s.reject q n reason
    | (.ok nodes, s) =>
      if 65536 < s.engineCounters ctx i + nodes.length then s.reject q n 14
      else
        let g : Graph := ⟨ctx, i, 0, nodes, false, none, none⟩
        let s := { s with cmd := { s.cmd with graphs := upsert (fun g => g.ctx == ctx && g.inst == i) g s.cmd.graphs } }
        s.armGraph ctx i q n)

/-- GRAPH_COUNTER_ERROR (R491): nodes not started are cancelled, and the event names the node whose counter is lost, a free choice. -/
def State.counterError (s : State) (ctx inst : Nat) : State :=
  match s.graph ctx inst with
  | none => s
  | some g =>
    match g.armed with
    | none => s
    | some (q, n) =>
      if g.poisoned then s
      else
        let (x, s) := s.drawWord
        let v := x.toNat % g.nodes.length
        let s := s.modGraph ctx inst fun g =>
          { g with poisoned := true, nodes := (g.nodes.map fun x => if x.state == .idle then { x with state := .cancelled } else x).modify
                      v fun x => { x with gen := g.g } }
        let s := s.event ⟨0x08, ctx, q, n, 0, 0, [at_ inst 0, at_ v 0, at_ g.g.toNat 0], []⟩
        s.armDone ctx inst

/-- GRAPH_COUNTER_ERROR. -/
def execGraphCounterError (ctx graph : Nat) (s : State) : Host.Outcome State Fault Refusal := .next (s.counterError ctx graph)

/-- Wait nodes are tested again after a store to their line (R343). -/
def State.waitNodes (s : State) (hit : State → Nat → Nat → Bool) : State :=
  (s.cmd.graphs.flatMap fun g => g.nodes.zipIdx.filterMap fun (x, v) =>
      if x.kind == 3 && x.state == .running then some (g, v, x) else none).foldl (fun s (g, v, x) =>
    let a := (x.body.getD 0 0).toNat
    if !hit s g.ctx a then s
    else match s.waitTest g.ctx a (x.body.getD 1 0) (x.body.getD 2 0).toNat with
    | (.ok true, s) => s.nodeState g.ctx g.inst v .ended
    | (.ok false, s) => s
    | (.error (c, a), s) => s.nodeFails g v 4 c a) s

end Sys2Proof.Machine
end

