-- ==== Sys2Proof/Machine/Packets.lean ====
section
/-! DEFINITION. Signal, wait and copy packets (R341, R343), key-load packets (R430, R431, R433 to R435, Table 13.4). -/

namespace Sys2Proof.Machine

/-! ## Signal, wait, copy -/

/-- The head packet of a queue, when it is a signal, is performed. -/
def State.signalPacket (s : State) (q : Nat) : State :=
  s.startHead q (fun t _ => t == 0x03) fun s n ctx b =>
    match s.doSignal ctx b with
    | (.ok s, _) => s.completePacket q n 0
    | (.error (c, a), s) => s.failAccess q n c a

/-- SIGNAL_PACKET. -/
def execSignalPacket (q : Nat) (s : State) : Host.Outcome State Fault Refusal := .next (s.signalPacket q)

/-- A wait packet reads its word: it completes, fails, or waits on. -/
def State.waitStep (s : State) (q n ctx a : Nat) (v : Word64) (cond : Nat) : State :=
  match s.waitTest ctx a v cond with
  | (.ok true, s) => s.completePacket q n 0
  | (.ok false, s) => s.setKind q n (.waitw a v cond)
  | (.error (c, a), s) => s.failAccess q n c a

/-- WAIT_PACKET. -/
def execWaitPacket (q : Nat) (s : State) : Host.Outcome State Fault Refusal :=
  .next (s.startHead q (fun t _ => t == 0x04) fun s n ctx b =>
    let cond := (b.getD 2 0).toNat
    if cond = 3 then s.reject q n 14 else s.waitStep q n ctx (b.getD 0 0).toNat (b.getD 1 0) cond)

/-- The line of a context's address is one of `lines`. -/
def State.lineHit (lines : List Loc) (s : State) (ctx a : Nat) : Bool :=
  match (s.translate ⟨ctx, none, none⟩ a 8 Need.read).1 with
  | .ok t => match t.loc.line with | some l => lines.contains l | none => false
  | .error _ => false

/-- Waits are tested again after a store to their line (R343), packets and nodes. -/
def State.recheckWaits (s : State) : State :=
  if s.mem.touched.isEmpty then s
  else
    let l := s.cmd.queues.flatMap fun x => x.running.filterMap fun r => match r.kind with
      | .waitw a v c => some (x.q, r.n, x.ctx, a, v, c)
      | _ => none
    let hit := State.lineHit s.mem.touched
    let s1 := l.foldl (fun s (q, n, ctx, a, v, c) => if hit s ctx a then s.waitStep q n ctx a v c else s)
      (s.setMem { s.mem with touched := [] })
    s1.waitNodes hit

/-- COPY_PACKET. -/
def execCopyPacket (q : Nat) (s : State) : Host.Outcome State Fault Refusal :=
  .next (s.startHead q (fun t _ => t == 0x05) fun s n ctx b =>
    let len := (b.getD 2 0).toNat
    if len % 4 ≠ 0 ∨ 2 ^ 30 < len then s.reject q n 14
    else match s.copyWords ctx (b.getD 0 0).toNat (b.getD 1 0).toNat (b.getD 1 0).toNat (len / 4) with
    | (.ok s, _) => s.completePacket q n 0
    | (.error (c, a), s) => s.failAccess q n c a)

/-! ## Key loads -/

/-- Start a key-load packet of an operation: its record's 32 words are read; reason 14 when it is misaligned, 15 when a read
fails. -/
def State.keyPacket (s : State) (q : Nat) (mine : Nat → Bool) (f : State → Nat → Nat → Nat → List Word64 → State) : State :=
  s.startHead q (fun t b => t == 0x07 && mine (fld (b.getD 0 0) 3 0)) fun s n ctx b =>
    let a := (b.getD 1 0).toNat
    if a % 64 ≠ 0 then s.reject q n 14
    else match s.readDws ctx a 32 with
    | (.error _, s) => s.reject q n 15
    | (.ok w, s) => f s n ctx a w

/-- A 512-bit value from eight words, the first lowest. -/
def joinWords (w : List Word64) : Nat := w.zipIdx.foldl (fun a (x, k) => a + x.toNat * 2 ^ (64 * k)) 0

/-- KEY_LOAD; operation values other than 0 to 3 are rejected. -/
def execKeyLoad (q : Nat) (s : State) : Host.Outcome State Fault Refusal :=
  let op (b : List Word64) : Nat := fld (b.getD 0 0) 3 0
  let bad := match s.queue q with
    | some x => decide (3 < op ((s.packet x x.h).drop 1))
    | none => false
  if bad then .next (s.startHead q (fun t _ => t == 0x07) fun s n _ _ => s.reject q n 14)
  else .next (s.keyPacket q (· == 0) fun s n ctx _ w =>
    let slot := fld (w.getD 0 0) 11 0
    if slot = 4095 ∨ s.mem.slots.any (·.slot == slot) then s.reject q n 14
    else
      let pub := BitVec.ofNat 512 (joinWords ((w.drop 1).take 8))
      let wrapped := BitVec.ofNat 576 (joinWords ((w.drop 9).take 9))
      match Config.keyUnwrap s.io.start.starts pub wrapped with
      | none => s.reject q n 14
      | some k => (s.setMem { s.mem with slots := s.mem.slots ++ [⟨slot, ctx, k⟩] }).completePacket q n 0)

/-- Translations that a structure holds of a context's pages under key slots in `l` go. -/
def Mem.dropSlots (m : Mem) (ctx : Nat) (l : List Nat) : Mem :=
  { m with tlb := m.tlb.filter fun t => !(t.ctx == ctx && l.contains (pteKey t.pte)) }

/-- KEY_CLEAR: every line is at its home already; the key is erased, and what comes after translates anew (R435). -/
def execKeyClear (q : Nat) (s : State) : Host.Outcome State Fault Refusal :=
  .next (s.keyPacket q (· == 1) fun s n ctx _ w =>
    let slot := fld (w.getD 0 0) 11 0
    if slot = 4095 ∨ (s.mem.slotKey ctx slot).isNone then s.reject q n 14
    else (s.setMem ({ s.mem with slots := s.mem.slots.filter (·.slot != slot) }.dropSlots ctx [slot])).completePacket q n 0)

/-- KEY_BIND: a peer entry is added or removed; the table holds 4,096. The byte order of the peer's IPv6 address in the record is not stated: it
is taken little-endian, as the record's other words (log entry 112, DESIGN CHOICE). -/
def execKeyBind (q : Nat) (s : State) : Host.Outcome State Fault Refusal :=
  .next (s.keyPacket q (· == 2) fun s n ctx _ w =>
    let x (k : Nat) : Word64 := w.getD k 0
    let dev := fld (x 0) 19 0
    let rest := s.cmd.peers.filter fun p => !(p.ctx == ctx && p.dev == dev)
    let put (l : List Peer) : State := { s with cmd := { s.cmd with peers := l } }
    if fld (x 3) 63 48 != 0 then s.reject q n 14
    else if !(x 4).getLsbD 0 then (put rest).completePacket q n 0
    else if 4096 ≤ rest.length then s.reject q n 14
    else
      let p : Peer := ⟨ctx, dev, x 2 ++ x 1, fld (x 3) 3 0, fld (x 3) 35 12, fld (x 3) 47 36, false⟩
      ((put (rest ++ [p])).newConn (connOf ctx dev)).completePacket q n 0)

/-- Version and hash of the running firmware (R434). -/
def Start.version (t : Start) : Nat := match t.image with | some i => i.1 | none => Config.factoryFirmware.1
def Start.hash (t : Start) : BitVec 256 := match t.image with | some i => Config.sha256 i.2 | none => Config.factoryFirmware.2.1

/-- The attestation report for a nonce (Table 13.4). -/
def State.report (s : State) (nonce : List Word64) : List Byte :=
  let t := s.io.start
  let body := bytesOf 8 (t.device.toNat + t.version % 2 ^ 32 * 2 ^ 32) ++ bytesOf 8 Config.serial.toNat
    ++ bytesOf 32 t.hash.toNat ++ bytesOf 64 (Config.exchangeKey t.starts).toNat
    ++ bytesOf 32 (joinWords nonce) ++ bytesOf 8 s.io.time.timebase.toNat ++ bytesOf 8 (b2n s.io.time.locked)
  body ++ bytesOf 64 (Config.identitySign (Config.sha256 body)).toNat

/-- Store bytes for a context, four at a time from an aligned address, until an access fails; chunks of the run that begins at `from_` take a
new check value where it covers them (R139). -/
def State.storeRun (s : State) (ctx from_ a : Nat) : List (List Byte) → Except (Code8 × Nat) State × State
  | [] => (.ok s, s)
  | l :: r =>
    match s.translate ⟨ctx, none, none⟩ a 4 Need.write with
    | (.error e, s) => (.error (e.cause, a), s)
    | (.ok t, s) =>
      let whole := chunkIn from_ (a - from_ + 4 * (r.length + 1)) (a / 64)
      if t.badChunk s.mem && !whole then (.error (0x29, a), s)
      else
        let s := match t with
          | .dram pa _ => if whole then s.setMem (s.mem.rechecked (pa / 64 * 64) 64) else s
          | _ => s
        State.storeRun (s.putBytes ⟨ctx, none, none⟩ none t l false) ctx from_ (a + 4) r
def State.storeBytes (s : State) (ctx a : Nat) (l : List (List Byte)) : Except (Code8 × Nat) State × State := s.storeRun ctx a a l

/-- Bytes in groups of four. -/
def quads (l : List Byte) : List (List Byte) := (List.range ((l.length + 3) / 4)).map fun k => (l.drop (4 * k)).take 4

/-- KEY_ATTEST. -/
def execKeyAttest (q : Nat) (s : State) : Host.Outcome State Fault Refusal :=
  .next (s.keyPacket q (· == 3) fun s n ctx a w =>
    match s.storeBytes ctx (a + 0x20) (quads (s.report (w.take 4))) with
    | (.ok s, _) => s.completePacket q n 0
    | (.error _, s) => s.reject q n 15)

end Sys2Proof.Machine
end

