-- ==== Sys2Proof/Machine/Manage.lean ====
section
/-! DEFINITION. Management packets of queue 0 (R345, R346, R364, R465, R467). -/

namespace Sys2Proof.Machine

/-! ## Queues -/

/-- Ranges meet. -/
def meets (a n b m : Nat) : Bool := decide (a < b + m ∧ b < a + n)

/-- A ring breaks a part of R337 that the device can check (R346). -/
def State.ringBad (s : State) (k ring : Nat) : Bool :=
  let n := 64 * 2 ^ k
  !(decide (6 ≤ k ∧ k ≤ 16)) || ring % n != 0 || decide (0x6000000000 < ring + n) || barred ring n
    || meets ring n Config.saveReserve.1 Config.saveReserve.2 || s.cmd.queues.any fun x => meets ring n x.ring (64 * 2 ^ x.k)

/-- Start the head packet of queue 0 when it is of a management type. -/
def State.manage (s : State) (q typ : Nat) (f : State → Nat → List Word64 → State) : State :=
  s.startHead q (fun t _ => t == typ) fun s n _ b => f s n b

/-- A context that may be named. -/
def State.ctx? (s : State) (c : Nat) : Option Ctx := s.cmd.ctxs.find? (·.id == c)

/-- MAPQ. The connection is on the port of queue 0's (log entry 15). -/
def execMapq (q : Nat) (s : State) : Host.Outcome State Fault Refusal :=
  .next (s.manage q 0x10 fun s n b =>
    let x (k : Nat) : Word64 := b.getD k 0
    let new := fld (x 0) 11 0
    let k := fld (x 0) 20 16
    let logS := fld (x 3) 36 32
    let ctxBad : Bool := match s.ctx? (fld (x 0) 43 32) with | some c => c.deleting | none => true
    if new = 0 ∨ (s.queue new).isSome ∨ ctxBad ∨ s.ringBad k (x 1).toNat ∨ logS < 4 ∨ 16 < logS then s.reject q n 14
    else
      let port := ((s.queue 0).map (·.port)).getD 0
      let y : Queue := { q := new, ctx := fld (x 0) 43 32, k := k, ring := (x 1).toNat, cring := x 2, rkey := (x 3).setWidth 32,
                         logS := logS, qp := fld (x 4) 23 0, port := port, h := 0, t := 0, recNo := 0, running := [],
                         unmapping := false, lock := none, lost := false, dqp := Config.queuePair new }
      (State.newConn { s with cmd := { s.cmd with queues := s.cmd.queues ++ [y] } } new).completePacket q n 0)

/-- Pending packets of a queue complete with status 2, in ring order. -/
def State.dropPending (s : State) (q : Nat) : Nat → State
  | 0 => s
  | f + 1 =>
    match s.queue q with
    | none => s
    | some x =>
      if x.h = x.t then s
      else
        let w := s.packet x x.h
        let w0 := w.getD 0 0
        let r : Running := ⟨x.h, fld w0 7 0, w0.extractLsb' 32 32, w0.getLsbD 8, (w.getD 6 0).toNat, w.getD 7 0, .launch 0⟩
        let s1 := s.modQueue q fun x => { x with h := next20 x.h, running := x.running ++ [r] }
        (s1.completePacket q x.h 2).dropPending q f

/-- A queue is being unmapped (R345). -/
def State.unmapStart (s : State) (q : Nat) : State :=
  (s.modQueue q fun x => { x with unmapping := true }).dropPending q (2 ^ 16)

/-- UNMAPQ. -/
def execUnmapq (q : Nat) (s : State) : Host.Outcome State Fault Refusal :=
  .next (s.manage q 0x11 fun s n b =>
    let u := fld (b.getD 0 0) 11 0
    match s.queue u with
    | none => s.reject q n 14
    | some x => if u = 0 ∨ x.unmapping then s.reject q n 14 else (s.setKind q n (.unmap u)).unmapStart u)

/-- Queues that are being unmapped and have nothing running go; the packets that wait for them complete. -/
def State.unmapsDone (s : State) : State :=
  let gone := (s.cmd.queues.filter fun x => x.unmapping && x.running.isEmpty).map (·.q)
  if gone.isEmpty then s
  else
    let s1 := { s with cmd := { s.cmd with queues := s.cmd.queues.filter (fun x => !gone.contains x.q),
                                           evq := s.cmd.evq.filter fun e => match e with | .queue q => !gone.contains q | _ => true } }
    ((s1.queue 0).map (·.running)).getD [] |>.foldl (fun s r => match r.kind with
      | .unmap u => if gone.contains u then s.completePacket 0 r.n 0 else s
      | _ => s) s1

/-! ## Contexts -/

/-- Reserved bits of a debug register read as zero (R6, R449). -/
def dbgMask : Word64 := 0x00FFFFFFFFFFFFF9

/-- CTXSET. -/
def execCtxset (q : Nat) (s : State) : Host.Outcome State Fault Refusal :=
  .next (s.manage q 0x12 fun s n b =>
    let x (k : Nat) : Word64 := b.getD k 0
    let c := fld (x 0) 11 0
    let root := (x 1).toNat
    if c = 0 ∨ root % 2 ^ 20 ≠ 0 ∨ 2 ^ 52 ≤ root then s.reject q n 14
    else
      let del := match s.ctx? c with | some y => y.deleting | none => false
      let y : Ctx := ⟨c, root, fld (x 2) 3 0, x 3 &&& dbgMask, x 4 &&& dbgMask, del⟩
      State.completePacket { s with cmd := { s.cmd with ctxs := upsert (·.id == c) y s.cmd.ctxs } } q n 0)

/-- CTXDEL: every queue of the context is unmapped; the packet then waits for its launches. -/
def execCtxdel (q : Nat) (s : State) : Host.Outcome State Fault Refusal :=
  .next (s.manage q 0x13 fun s n b =>
    let c := fld (b.getD 0 0) 11 0
    match s.ctx? c with
    | none => s.reject q n 14
    | some y =>
      if y.deleting then s.reject q n 14
      else
        let s := (s.setKind q n (.ctxdel c))
        let s := { s with cmd := { s.cmd with ctxs := updIf (·.id == c) (fun y => { y with deleting := true }) s.cmd.ctxs } }
        ((s.cmd.queues.filter fun x => x.ctx == c && x.q != 0 && !x.unmapping).map (·.q)).foldl State.unmapStart s)

/-- A context whose queues and launches are gone is deleted, with its key slots, translations and graphs (R346, R435). -/
def State.ctxdelDone (s : State) : State :=
  ((s.queue 0).map (·.running)).getD [] |>.foldl (fun s r => match r.kind with
    | .ctxdel c =>
      if s.cmd.queues.any (fun x => x.ctx == c && x.q != 0) || s.launches.any (fun l => l.ctx == c && l.view.isNone) then s
      else
        let s1 : State := { s with
          cmd := { s.cmd with ctxs := s.cmd.ctxs.filter (·.id != c), graphs := s.cmd.graphs.filter (·.ctx != c) }
          mem := { s.mem with slots := s.mem.slots.filter (·.owner != c), tlb := s.mem.tlb.filter (·.ctx != c) } }
        s1.completePacket 0 r.n 0
    | _ => s) s

/-! ## Translations and retries (R124, R464, R465) -/

/-- An entry that awaits a page in a range is issued again, with the replay bit, and a fetch that waits there may go on. -/
def Warp.retry (w : Warp) (inRange : Nat → Bool) : Warp :=
  { w with
    husk := w.husk.map fun e =>
      if e.state == .awaiting && e.cause == 0x10 && inRange e.faddr.toNat then { e with state := .outstanding, rep := true } else e
    waits := { w.waits with page := match w.waits.page with
      | some p => if inRange (4096 * p) then none else some p
      | none => none } }

/-- Retry what waits in a range of a context, in resident sheaves. -/
def State.retryPages (s : State) (ctx : Nat) (inRange : Nat → Bool) : State :=
  let live (w : Warp) : Bool := w.ident.ctx == ctx && match s.sheaf w.ident.sid with
    | some h => h.state == .resident
    | none => false
  { s with warps := updIf live (·.retry inRange) s.warps }

/-- TLBINV: length 0 names the whole space. -/
def execTlbinv (q : Nat) (s : State) : Host.Outcome State Fault Refusal :=
  .next (s.manage q 0x14 fun s n b =>
    let c := fld (b.getD 0 0) 11 0
    let base := (b.getD 1 0).toNat
    let len := (b.getD 2 0).toNat
    let hit (t : TlbEnt) : Bool := t.ctx == c && (len == 0 || meets base len t.base t.size)
    let inRange (a : Nat) : Bool := len == 0 || decide (base < a / 4096 * 4096 + 4096 ∧ a / 4096 * 4096 < base + len)
    let s := s.setMem { s.mem with tlb := s.mem.tlb.filter fun t => !hit t }
    (s.retryPages c inRange).completePacket q n 0)

/-! ## Launches (R346, R359, R467) -/

/-- Launches of a packet. -/
def State.ofPacket (s : State) (q n : Nat) : List Launch := s.launches.filter fun l => l.queue == q && l.packet == n && l.view.isNone

/-- Queue and packet that a RESUME or CANCEL names. -/
def named (b : List Word64) : Nat × Nat := (fld (b.getD 0 0) 11 0, fld (b.getD 0 0) 51 32)

/-- Reasons that RESUME ends. -/
def Why.resumes : Why → Bool
  | .halt | .fault | .quota | .deadlock => true
  | _ => false

/-- RESUME: stopped sheaves are eligible again, and a quota breach ends. -/
def State.resumeLaunch (s : State) (lid quota : Nat) : State :=
  let s := s.modLaunch lid fun l => { l with held := false, r := { l.r with quota := if quota = 0 then l.r.quota else quota } }
  let s := s.retryOwed lid
  if (s.launch lid).any (·.held) then s
  else
  let s := { s with sheaves := updIf (fun h => h.lid == lid && h.why.resumes) (fun h => { h with why := .evict }) s.sheaves }
  match s.launch lid with
  | some l => { s with cmd := { s.cmd with deadSince := s.cmd.deadSince.filter (·.1 != l.ctx) } }
  | none => s

/-- RESUME. -/
def execResume (q : Nat) (s : State) : Host.Outcome State Fault Refusal :=
  .next (s.manage q 0x15 fun s n b =>
    let (u, p) := named b
    match s.ofPacket u p with
    | [] => s.reject q n 14
    | l => (l.foldl (fun s l => s.resumeLaunch l.lid (fld (b.getD 1 0) 31 0)) s).completePacket q n 0)

/-- CANCEL: a launch, a graph arm or a wait packet (R346). -/
def execCancel (q : Nat) (s : State) : Host.Outcome State Fault Refusal :=
  .next (s.manage q 0x16 fun s n b =>
    let (u, p) := named b
    match s.running u p with
    | none => s.reject q n 14
    | some r =>
      let ctx := ((s.queue u).map (·.ctx)).getD 0
      let drop (s : State) : State := (s.ofPacket u p).foldl (fun s l => s.discardLaunch l.lid) s
      match r.kind with
      | .launch _ => ((drop s).completePacket u p 2).completePacket q n 0
      | .graph i =>
        let s := (drop s).modGraph ctx i fun g =>
          { g with armed := none, poisoned := false, failed := none, nodes := g.nodes.map fun x => { x with state := .cancelled } }
        (s.completePacket u p 2).completePacket q n 0
      | .waitw .. => (s.completePacket u p 2).completePacket q n 0
      | _ => s.reject q n 14)

/-! ## BALANCE (R364) -/

/-- Compute cores of a cluster that admitted ADMIT launches hold: one more than the highest. -/
def State.admitNeed (s : State) (cl : Nat) : Nat :=
  s.sheaves.foldl (fun a h => match s.launch h.lid with
    | some l => if l.r.atOnce && !l.r.graphics && h.onCores && h.cur / 24 == cl then max a (h.cur % 24 + l.r.shape) else a
    | none => a) 0

/-- BALANCE. -/
def execBalance (q : Nat) (s : State) : Host.Outcome State Fault Refusal :=
  .next (s.manage q 0x17 fun s n b =>
    let x := b.getD 0 0
    let cl := fld x 5 0
    let lo := fld x 12 8
    let hi := fld x 20 16
    let all := if cl = 63 then List.range 48 else [cl]
    if (48 ≤ cl ∧ cl ≠ 63) ∨ hi < lo ∨ 24 < hi then s.reject q n 14
    else if all.any fun c => decide (hi < s.floor c) || decide (24 - max lo (s.floor c) < s.admitNeed c) then s.reject q n 14
    else
      let bal := s.cores.bal.zipIdx.map fun (y, c) => if all.contains c then { y with gmin := lo, gmax := hi, fixed := x.getLsbD 24 } else y
      State.completePacket { s with cores := { s.cores with bal := bal } } q n 0)

end Sys2Proof.Machine
end

