-- ==== Sys2Proof/Machine/Peers.lean ====
section
/-! DEFINITION. System-scope messages that arrive from a peer, and the loss of a peer (R107, R176, R404, R406, R431, R432, R497). -/

namespace Sys2Proof.Machine

/-! ## Messages (R432) -/

/-- A message as it arrives, in the presentation of `State.sysSend`. -/
structure SysMsg where
  kind : Nat
  bytes : Nat
  op : Nat
  race : Bool
  psn : Bool
  xfer : Bool
  mark : BitVec 16
  region : BitVec 16
  vw : Nat
  seq : BitVec 16
  addr : Nat
  data : List Word64
  deriving DecidableEq, Repr

def SysMsg.of (l : List Byte) : SysMsg :=
  let w := dwordsOf ((l.length + 7) / 8) (l ++ List.replicate 8 0)
  let x (k : Nat) : Word64 := w.getD k 0
  ⟨fld (x 0) 7 0, fld (x 0) 15 8, fld (x 0) 23 16, (x 0).getLsbD 24, (x 0).getLsbD 25, (x 0).getLsbD 27,
    (x 0).extractLsb' 32 16, (x 0).extractLsb' 48 16, fld (x 1) 47 0,
    (x 1).extractLsb' 48 16, (x 2).toNat, w.drop 3⟩

/-- The slice byte that a window address of this device names, for a context of it (R106, R107). -/
def State.sysTarget (s : State) (ctx a n : Nat) : Option Target :=
  match regionOf a with
  | some (.system d c o) =>
    if d != s.io.start.device.toNat || n = 0 || 8 < n || a % n != 0 then none
    else s.window ⟨ctx, none, none⟩ (.window c o) 0
  | _ => none

/-- A system atomic's new value. -/
def sysNew (op bytes : Nat) (old v x : Word64) : Word64 :=
  if op = 13 then (if old == x then v else old)
  else if op = 14 then (if v.ult old then v else old)
  else
    let f := aops.getD op .exch
    if bytes = 8 then atomNew f 64 old v else (atomNew f 32 (old.setWidth 32) (v.setWidth 32)).setWidth 64

/-- The lanes of an atomic message in order: what each finds, and the word left. -/
def sysBatch (op bytes : Nat) : List Word64 → Word64 → List Word64 × Word64
  | v :: x :: r, old =>
    let (l, new) := sysBatch op bytes r (sysNew op bytes old v x)
    (old :: l, new)
  | _, old => ([], old)

/-- The answer to a peer: its cause (0 when performed), and what was read. -/
def State.sysReply (s : State) (p : Peer) (m : SysMsg) (cause : Code8) (data : List Word64) : State :=
  s.send (.sys p.ctx p.dev ([at_ (0x80 + m.kind) 0 ||| at_ cause.toNat 8, at_ m.vw 0 ||| at_ m.seq.toNat 48] ++ data))

/-- A peer's message is performed at its slice: an ordinary access is race-checked as an access of the peer's warp (R144, R176); an
atomic leaves a chaff record, which answers the same request again (R404, R406); a boundary ends the records of the regions up to its own.
Acknowledgements (kinds from 0x80) bring what the model already drew as free. -/
def State.sysPerform (s : State) (p : Peer) (m : SysMsg) : State :=
  let party : Party := .remote p.dev p.pctx (if m.xfer then m.vw + 2 ^ 48 * (1 + m.seq.toNat) else m.vw)
  let closed (r : RaceRec) : Bool := r.party == party && decide ((m.region - BitVec.ofNat 16 r.region).toNat < 2 ^ 15)
  if 0x80 ≤ m.kind then s
  else if m.kind = 3 then (s.setMem { s.mem with race := s.mem.race.filter fun r => !closed r }).sysReply p m 0 []
  else match s.sysTarget p.ctx m.addr m.bytes with
  | none => s.sysReply p m 0x13 []
  | some t =>
    let words := t.words m.bytes
    let old := BitVec.ofNat 64 (ofBytes (s.readAt p.ctx t m.bytes).1)
    let psn := (s.readAt p.ctx t m.bytes).2
    let who : Who := ⟨p.ctx, none, none⟩
    let tag := 2 ^ 48 * (p.dev + 1) + m.vw
    let touched (s : State) : State := s.touch 0 t
    let s := s.setMem { s.mem with chaff := s.mem.chaff.filter fun c => !(c.ctx == p.ctx && c.vw == tag && below c.seq m.mark) }
    if m.kind ≤ 1 && m.race && (s.raceHit party words (m.kind == 1)).isSome then s.sysReply p m 0x18 []
    else
      let s := if m.kind ≤ 1 && m.race then s.raceAdd p.ctx party m.region.toNat words (m.kind == 1) else s
      match m.kind with
      | 0 => (touched s).sysReply p m 0 [old, at_ (b2n psn) 0]
      | 1 => ((touched s).putBytes who none t (bytesOf m.bytes (m.data.getD 0 0).toNat) m.psn).sysReply p m 0 []
      | 2 =>
        match s.mem.chaff.find? fun c => c.ctx == p.ctx && c.vw == tag && c.seq == m.seq && c.place == .loc t.loc with
        | some c => s.sysReply p m 0 (sysBatch m.op m.bytes m.data c.value).1
        | none =>
          if psn then s.sysReply p m 0x28 []
          else
            let l := (sysBatch m.op m.bytes m.data old).1
            let s := (touched s).eachCopy who t fun s who t => s.putBytes who none t (bytesOf m.bytes
              (sysBatch m.op m.bytes m.data (BitVec.ofNat 64 (ofBytes (s.readAt who.ctx t m.bytes).1))).2.toNat) false
            let c : Chaff := ⟨p.ctx, tag, 1, m.seq, maskOf fun i => decide (i < m.data.length / 2), old, .loc t.loc, []⟩
            (s.setMem { s.mem with chaff := s.mem.chaff ++ [c] }).sysReply p m 0 l
      | _ => s

/-- SYS_MESSAGE_RECEIVE: a message of a peer whose connection stands, on a port whose link is up (R28), is performed. -/
def execSysMessageReceive (peer : Nat) (data : List Byte) (s : State) : Host.Outcome State Fault Refusal :=
  match s.cmd.peers[peer]? with
  | none => .next s
  | some p => .next (if p.lost || !s.hears p.port then s else s.sysPerform p (SysMsg.of data))

/-! ## Loss of a peer (R497) -/

/-- Lanes of an entry that address a device's slices. -/
def HkEntry.toDevice (e : HkEntry) (d : Nat) : List (Nat × Nat) :=
  (lanesOf e.undone).filterMap fun i => match e.span i with
    | some (a, _) => match regionOf a with
      | some (.system x _ _) => if x = d then some (i, a) else none
      | _ => none
    | none => none

/-- Outstanding requests of a context to a device fault 0x13, log-precise: those of one warp in one event (R459). -/
def State.faultPeer (s : State) (ctx dev : Nat) : State :=
  (s.warps.filter fun w => w.ident.ctx == ctx && s.mayRun w).foldl (fun s w =>
    s.faultEntries w (w.husk.filterMap fun e =>
      let l := e.toDevice dev
      if e.state != .outstanding || l.isEmpty then none
      else some (e.seq, l.map fun (i, a) => ⟨i, 0x13, a, 0, wordOf e.instr⟩)) Need.read 0) s

/-- A peer connection enters the error state. -/
def State.losePeer (s : State) (k : Nat) : State :=
  match s.cmd.peers[k]? with
  | none => s
  | some p =>
    if p.lost then s
    else
      let s := { s with cmd := { s.cmd with peers := s.cmd.peers.modify k fun p => { p with lost := true } } }
      (s.event ⟨0x0F, p.ctx, 0, 0, 0, 0, [at_ p.dev 0 ||| at_ p.ctx 20], []⟩).faultPeer p.ctx p.dev

/-- PEER_LOST. -/
def execPeerLost (peer : Nat) (s : State) : Host.Outcome State Fault Refusal := .next (s.losePeer peer)

end Sys2Proof.Machine
end

