-- ==== Sys2Proof/Machine/Form.lean ====
section
/-! DEFINITION. Warps formed from range tasks and tillers (R321, R323, R352 to R355), and refills of spilled records (R362, R480,
R490). -/

namespace Sys2Proof.Machine

/-! ## Formed sheaves -/

/-- Identity of a formed warp or of a template's warp, before it is placed. -/
def Launch.formedId (l : Launch) (sid role : Nat) (kind : WarpKind) (idSheaf : Word32) (idWg : Word64) : Ident :=
  { ctx := l.ctx, lid := l.lid, sid := sid, member := 0, idWarp := 0, role := role, kind := kind, idSheaf := idSheaf,
    idWg := idWg, core := 0 }

/-- A sheaf of one warp, Unstarted, which starts as `w` once it is placed. -/
def State.addFormed (s : State) (sid lid idx : Nat) (w : Warp) (zone : Option (Nat × Nat)) (twin : Option Nat) (trail : Bool) :
    State :=
  { s with sheaves := s.sheaves ++ [{ Sheaf.new sid lid idx w.ident.kind with
      zone := zone, twin := twin, trail := trail, seed := [w] }] }

/-- The sheaf of a formed warp, and in a paired launch its trailing copy (R500): `f` fills the warp's start. -/
def State.formSheaf (s : State) (l : Launch) (kind : WarpKind) (role : Nat) (zone : Option (Nat × Nat)) (args : List Word64)
    (f : Warp → Warp) : Nat × State :=
  let start (sid vw : Nat) : Warp :=
    f (Warp.start vw (l.formedId sid role kind 0xFFFFFFFF (BitVec.allOnes 64)) (l.r.roles.getD role ⟨0, 0, 0, 0, 0, 0⟩) args s.now 0)
  let (a, s) := s.fresh
  let (va, s) := s.fresh
  if l.r.paired then
    let (b, s) := s.fresh
    let (vb, s) := s.fresh
    (a, (s.addFormed a l.lid 0xFFFFFFFF (start a va) zone (some b) false).addFormed b l.lid 0xFFFFFFFF (start b vb) none (some a) true)
  else (a, s.addFormed a l.lid 0xFFFFFFFF (start a va) zone none false)

/-! ## Pieces of range tasks (R352, R353) -/

/-- The task that a launch's requests at a die's store are served from: its first that is not handed out, when that is in the
store. -/
def Launch.nextTask (l : Launch) (die : Nat) : Option Task :=
  let mine := l.tasks.filter fun t => t.die == die && !t.whole
  if mine.length ≤ l.spilled 3 die then none else mine.head?

/-- One warp of a role fits on a core, in a paired launch beside a core of another cluster for its trailing copy. -/
def State.oneFits (s : State) (l : Launch) (role core : Nat) : Bool :=
  let need : Nat → Load := fun _ => ((l.r.roles[role]?).map Role.one).getD Load.full
  s.runFits [] l.r.graphics 1 core need && s.origFree l.ctx 1 core
    && (!l.r.paired || (List.range 1152).any fun c => c / 24 != core / 24 && s.runFits [] l.r.graphics 1 c need)

/-- A request of a core at the store of a task: descending priority, then TSPAWN order within a launch. -/
def State.mayRequest (s : State) (l : Launch) (t : Task) (core : Nat) : Bool :=
  l.nextTask t.die == some t && l.state == .admitted && !l.held && s.oneFits l t.role core
    && !s.launches.any fun x => decide (l.r.prio < x.r.prio) && !x.held && match x.nextTask t.die with
      | some y => s.oneFits x y.role core
      | none => false

/-- The piece that a request takes, as the end of it, and whether the task leaves the store (R353). -/
def Task.split (t : Task) : Nat × Bool :=
  let G := max t.grain 1
  let len := t.hi - t.lo
  if 2 * G ≤ len then (t.lo + len / 2, false) else (t.hi, true)

/-- Change one task of a launch. -/
def State.modTask (s : State) (lid id : Nat) (f : Task → Task) : State :=
  s.modLaunch lid fun l => { l with tasks := updIf (·.id == id) f l.tasks }

/-- A core's request: a piece of the task starts there as a warp, at `TS.PC` (Table 9.6). -/
def State.takePiece (s : State) (task core : Nat) : State :=
  match s.launches.findSome? fun l => (l.tasks.find? (·.id == task)).map fun t => (l, t) with
  | none => s
  | some (l, t) =>
    if !s.mayRequest l t core then s
    else
      let (m, whole) := t.split
      let (sid, s) := s.formSheaf l .task t.role none (t.args.take 4) fun w =>
        { w with vpc := of64 fun _ => BitVec.ofNat 64 t.pc
                 spr := { w.spr with rangeLo := BitVec.ofNat 64 t.lo, rangeHi := BitVec.ofNat 64 m } }
      (s.modTask l.lid task fun t => { t with lo := m, whole := whole, running := t.running ++ [sid] }).seatSheaf sid core

/-- TASK_PIECE_REQUEST. -/
def execTaskPieceRequest (task core : Nat) (s : State) : Host.Outcome State Fault Refusal := .next (s.takePiece task core)

/-- A task whose pieces have all finished completes: it goes, and a counted TSPAWN completes (R320, R353). -/
def State.tasksDone (s : State) (lid : Nat) : State :=
  match s.launch lid with
  | none => s
  | some l =>
    (l.tasks.filter fun t => t.whole && t.running.isEmpty).foldl (fun s t =>
      let s := s.modLaunch lid fun l => { l with tasks := l.tasks.filter (·.id != t.id) }
      s.modWarp t.vw (·.modEntry t.seq fun e => match e.instr with
        | .tspawn .. => if e.perf = 0 then e else { e with pend := 0 }
        | _ => e)) s

/-- A piece's warp has finished. -/
def State.pieceDone (s : State) (lid sid : Nat) : State :=
  (s.modLaunch lid fun l => { l with tasks := l.tasks.map fun t => { t with running := t.running.filter (· != sid) } }).tasksDone lid

/-! ## Warps formed by the winnower (R323, R355) -/

/-- The tag that a register of a formed warp takes from its tillers: theirs when they agree, else free (log entry 17). -/
def State.tillerTag (s : State) (l : List Tiller) (k : Nat) : Tag × State :=
  match l.filterMap fun t => (t.words[k]?).map (·.2) with
  | [] => (0, s)
  | t :: r => if r.all (· == t) then (t, s) else let (w, s) := s.drawWord; (w.setWidth 4, s)

/-- Registers of a formed warp. -/
def State.tillerRegs (s : State) (l : List Tiller) (n : Nat) : List VReg × State :=
  (List.range n).foldl (fun (r, s) k =>
    let (t, s) := s.tillerTag l k
    let x := Lanes.of fun i => ((l[i]?).bind fun t => (t.words[k]?).map (·.1)).getD 0
    (r ++ [⟨x, t⟩], s)) (([] : List VReg), s)

/-- The start of a warp from the tillers of a bin. -/
def Warp.fromTillers (w : Warp) (l : List Tiller) (pc : Nat) (regs : List VReg) : Warp :=
  let n := min regs.length w.v.length
  { w with
    vpc := of64 fun i => if i < l.length then BitVec.ofNat 64 pc else exited
    v := regs.take n ++ w.v.drop n }

/-- Form the warp of a bin: its sheaf waits to be placed on a core of the die, and the bin stays bound until then. -/
def State.formBin (s : State) (b : Bin) : State :=
  match s.launch b.lid with
  | none => s
  | some l =>
    let ts := b.tillers.map (·.1)
    let n := ts.foldl (fun a t => max a t.words.length) 0
    let (regs, s) := s.tillerRegs ts n
    let (sid, s) := s.formSheaf l .tiller b.role (some (144 * b.die, 144)) [BitVec.ofNat 64 ts.length] fun w =>
      w.fromTillers ts b.pc regs
    { s with cmd := { s.cmd with bins := updIf (· == b) (fun b => { b with sid := some sid }) s.cmd.bins } }

/-- Every bin that is to form a warp and has not does. -/
def State.formBins (s : State) : State := (s.cmd.bins.filter fun b => b.formed && b.sid.isNone).foldl State.formBin s

/-- BIN_TIMEOUT: the oldest tiller of a die's bin has waited 2,048 cycles. -/
def execBinTimeout (die bin : Nat) (s : State) : Host.Outcome State Fault Refusal :=
  match (s.cmd.bins.filter (·.die == die))[bin]? with
  | none => .next s
  | some b =>
    let old := match b.tillers with | [] => false | t :: _ => decide (t.2 + 2048 ≤ s.dieClock die)
    if b.formed || !old then .next s
    else .next ({ s with cmd := { s.cmd with bins := updIf (· == b) (fun b => { b with formed := true }) s.cmd.bins } }).formBins

/-! ## Refills (R362, R480, R490) -/

/-- A page of a launch's ring comes back with an error: its kind decides what is lost, and the descriptor says how it failed (R480). -/
def State.pageLost (s : State) (l : Launch) (kind inst : Nat) : State :=
  let oldest := (sortBy (·.seq) (l.pagesOf kind inst)).head?
  let page := (oldest.map (·.page)).getD 0
  let drop (s : State) : State := s.modLaunch l.lid fun l => { l with pages := l.pages.filter fun p => !(p.kind == kind && p.inst == inst) }
  match kind with
  | 1 => s.queueLost l inst
  | 6 =>
    let spilled := (s.mem.keys.filter fun k => match k.cluster with
      | some c => c == inst
      | none => homeInst (keyHome k.key) == inst).drop (if instClass inst = 0 then 1024 else 4096)
    (spilled.filter (·.lid == l.lid)).foldl (fun s k => s.poisonKey k 2) (drop s)
  | _ =>
    let (x, s) := s.drawWord
    let (c, aux) := (oldest.bind (s.pageError l)).getD (0x29, none)
    s.failLaunch l.lid 1 [faultDesc c 2 l.ctx 0 0 0 (BitVec.ofNat 64 (l.r.spill + 4096 * page)) (aux.getD x)]

/-- The first tillers of a die's pool join bins: at most `n`, and the rest of the pool stays. -/
def State.poolJoin (s : State) (lid die : Nat) : Nat → Nat × State
  | 0 => (0, s)
  | n + 1 =>
    match s.launch lid with
    | none => (0, s)
    | some l => match l.pool.find? (·.1 == die) with
      | none => (0, s)
      | some x => match s.joinBin die lid x.2 with
        | none => (0, s)
        | some s1 =>
          let (k, s2) := State.poolJoin (s1.modLaunch lid fun l => { l with pool := l.pool.erase x }) lid die n
          (k + 1, s2)

/-- Records of an instance that its structure has room for. -/
def State.refillRoom (s : State) (l : Launch) (kind inst : Nat) : Nat :=
  match kind with
  | 1 => 1024 - l.atHome inst - s.aside l.lid inst
  | 2 => (s.poolJoin l.lid inst 63).1
  | 3 => 4096 - (s.tasksOn inst - s.tasksOut inst)
  | _ => l.spilled kind inst - s.mustStay l.lid kind inst

/-- Refill one instance from its oldest page. -/
def State.refillOne (s : State) (lid kind inst : Nat) : State :=
  match s.launch lid with
  | none => s
  | some l =>
    if (l.pagesOf kind inst).isEmpty then s
    else match s.unspill lid kind inst (s.refillRoom l kind inst) with
    | none => s.pageLost l kind inst
    | some (s, k) => if kind = 2 then (s.poolJoin lid inst k).2 else s

/-- REFILL: the instances of a launch that have room. -/
def execRefill (lid : Nat) (s : State) : Host.Outcome State Fault Refusal :=
  match s.launch lid with
  | none => .next s
  | some l => .next (((l.pages.map fun p => (p.kind, p.inst)).eraseDups.foldl (fun s (k, i) => s.refillOne lid k i) s).formBins)

end Sys2Proof.Machine
end

