-- ==== Sys2Proof/Machine/Host.lean ====
section
/-! DEFINITION. Requests of the host on its connections, the event queue and the command cores (R338, R339, R347, R463 to R465, R479,
R487 to R489). -/

namespace Sys2Proof.Machine

/-! ## Immediates (R338, R487) -/

/-- A tail as received is accepted. -/
def Queue.tailOk (x : Queue) (t : Nat) : Bool :=
  let off (y : Nat) : Nat := (y + 2 ^ 20 - x.h) % 2 ^ 20
  decide (off x.t ≤ off t ∧ off t ≤ 2 ^ x.k)

/-- COMMAND_IMMEDIATE: an immediate that arrives on the connection of queue `q`, a mapped queue. -/
def execCommandImmediate (q : Nat) (imm : Word32) (s : State) : Host.Outcome State Fault Refusal :=
  let u := imm.toNat % 2 ^ 12
  let t := imm.toNat / 2 ^ 12
  if !((s.queue q).map s.reached).getD false then .next s
  else match s.queue u with
  | some x =>
    if !x.unmapping && x.tailOk t then .next (s.modQueue u fun x => { x with t := t })
    else .next (s.event ⟨0x0C, 0, 0, 0, 0, 0, [at_ u 0 ||| at_ t 12, at_ x.h 0], []⟩)
  | none =>
    -- an unmapped queue has no head count: the event's is free (log entry 10)
    let (h, s) := s.drawWord
    .next (s.event ⟨0x0C, 0, 0, 0, 0, 0, [at_ u 0 ||| at_ t 12, at_ (h.toNat % 2 ^ 20) 0], []⟩)

/-! ## RDMA (R339) -/

/-- Write bytes of the host at a place: whole words where they are whole. -/
def State.hostPut (s : State) (ctx : Nat) (t : Target) : Nat → List Byte → State
  | 0, _ => s
  | f + 1, l =>
    let n := if (match t with | .dram pa _ => pa % 4 == 0 | _ => true) && decide (4 ≤ l.length) then 4 else 1
    match l with
    | [] => s
    | _ => (s.putBytes ⟨ctx, none, none⟩ none t (l.take n) false).hostPut ctx (t.add n) f (l.drop n)

/-- Bytes of a request by page. -/
def pieces : Nat → Nat → Nat → List (Nat × Nat)
  | 0, _, _ => []
  | f + 1, a, n =>
    if n = 0 then [] else let k := min n (4096 - a % 4096); (a, k) :: pieces f (a + k) (n - k)

/-- A request's page in device memory, for a need. The window regions are refused, the device SRAM window with them: R339 says so of
this form, though R105 counts host requests among that window's users (log entry 104, DEDUCED). -/
def State.hostPage (s : State) (ctx a : Nat) (need : Need) : Option Target × State :=
  match s.translate ⟨ctx, none, none⟩ a 1 need with
  | (.ok (.dram pa pte), s) => (some (.dram pa pte), s)
  | (_, s) => (none, s)

/-- A request that meets a check value that does not match ends with a NAK of remote operational error, and is reported (R479); the manual
names no address for it (log entry 10). -/
def State.hostBad (s : State) (q ctx : Nat) (aux : Word64) : State :=
  let (a, s) := s.drawWord
  (s.send (.nak q 1)).event ⟨0x01, ctx, 0, 0, 0, 0, [], [faultDesc 0x29 1 ctx 0 0 0 a aux]⟩

/-- How the argument of an RDMA event holds an address and an R_Key (R339): the address in bits 63 to 0, the key above. -/
def reth (rkey addr : Nat) : Nat := addr + 2 ^ 64 * rkey

/-- HOST_RDMA_WRITE: pages before one that fails have landed. Byte `[21:0]` of the ring form may lie beyond a ring of less than 2^16
packets, of which the manual gives no outcome: it is answered with a NAK of remote access error (log entry 113, DESIGN CHOICE). -/
def execHostRdmaWrite (q : Nat) (addr : Nat) (data : List Byte) (s : State) : Host.Outcome State Fault Refusal :=
  let rkey := addr / 2 ^ 64
  let addr := addr % 2 ^ 64
  match s.queue q with
  | none => .next s
  | some x =>
    let nak (s : State) : State := s.send (.nak q 0)
    if !s.reached x then .next s
    else if rkey != q then .next (nak s)
    else if 2 ^ 63 ≤ addr then
      let o := addr % 2 ^ 63
      if 64 * 2 ^ x.k < o + data.length then .next (nak s)
      else match s.mem.badMerge (x.ring + o) data.length with
        | some c => .next (s.hostBad q x.ctx (s.ringAux c))
        | none => .next (s.setMem ((s.mem.rechecked (x.ring + o) data.length).writeRun s.ringVia (x.ring + o) data.length data))
    else if q = 0 ∨ 2 ^ 56 ≤ addr then .next (nak s)
    else
      let r := (pieces (data.length + 1) addr data.length).foldl (fun (ok, s) (a, n) =>
        if !ok then (false, s)
        else match s.hostPage x.ctx a Need.write with
        | (some (.dram pa pte), s) => match s.mem.badMerge pa n with
          | some c => (false, s.hostBad q x.ctx (s.checkAux x.ctx (.dram c pte)))
          | none => (true, (s.setMem (s.mem.rechecked pa n)).hostPut x.ctx (.dram pa pte) (n + 1) ((data.drop (a - addr)).take n))
        | (some _, s) => (false, nak s)
        | (none, s) => (false, nak s)) (true, s)
      .next r.2

/-- Bytes that a READ returns: a poisoned byte's value is free; the check values of a chunk in which they do not match. -/
def State.hostGet (s : State) (ctx : Nat) (t : Target) (n : Nat) : Except Word64 (List Byte) × State :=
  (List.range n).foldl (fun (r, s) i =>
    match r with
    | .error x => (.error x, s)
    | .ok l =>
      let t := t.add i
      let (b, p) := s.readAt ctx t 1
      if t.badChunk s.mem then (.error (s.checkAux ctx t), s)
      else if p then let (f, s) := s.freeBytes 1; (.ok (l ++ f.take 1), s)
      else (.ok (l ++ b), s)) (.ok [], s)

/-- HOST_RDMA_READ. -/
def execHostRdmaRead (q : Nat) (addr len : Nat) (s : State) : Host.Outcome State Fault Refusal :=
  let rkey := addr / 2 ^ 64
  let addr := addr % 2 ^ 64
  match s.queue q with
  | none => .next s
  | some x =>
    let nak (s : State) : State := s.send (.nak q 0)
    if !s.reached x then .next s
    else if rkey ≠ q ∨ q = 0 ∨ 2 ^ 56 ≤ addr then .next (nak s)
    else
      let (r, s) := (pieces (len + 1) addr len).foldl (fun (r, s) (a, n) =>
        match r with
        | .error e => (.error e, s)
        | .ok l => match s.hostPage x.ctx a Need.read with
          | (none, s) => (.error none, s)
          | (some t, s) => match s.hostGet x.ctx t n with
            | (.error v, s) => (.error (some v), s)
            | (.ok b, s) => (.ok (l ++ b), s)) ((.ok [] : Except (Option Word64) (List Byte)), s)
      match r with
      | .ok l => .next (s.send (.read q l))
      | .error (some v) => .next (s.hostBad q x.ctx v)
      | .error none => .next (nak s)

/-! ## Page faults (R463 to R465) -/

/-- The walk of an address meets an entry that is not valid, at a level. -/
def State.absent (s : State) (ctx a : Nat) : Option Nat :=
  match s.ctx? ctx with
  | none => some 0
  | some c => (walk s.mem a 4 0 c.root).2

/-- Husk entries that wait on a page. -/
def State.waitersOn (s : State) (r : PageRec) : Nat :=
  ((s.warps.filter fun w => w.ident.ctx == r.ctx).map fun w => (w.husk.filter fun e =>
    e.state == .awaiting && e.cause == 0x10 && (e.faddr.toNat / 4096 == r.page
      || (lanesOf e.pend).any fun i => match e.span i with | some (a, _) => a / 4096 == r.page | none => false)).length).sum

/-- The records of a batch that closes, with what waits on each page now. -/
def State.batchRecs (s : State) (recs : List PageRec) : List PageRec := recs.map fun r => { r with wait := s.waitersOn r }

/-- A batch that has become full closes, and the records that came after its 256th open a new one (R463). -/
def State.fullBatches (s : State) : State :=
  if s.cmd.batches.all fun b => b.recs.length < 256 then s
  else
    let now := s.io.time.timebase.toNat
    let evs := (s.cmd.batches.filter fun b => 256 ≤ b.recs.length).map fun b => CmdEv.batch b.die (s.batchRecs (b.recs.take 256))
    let left := s.cmd.batches.filterMap fun b =>
      if b.recs.length < 256 then some b else if b.recs.length = 256 then none else some ⟨b.die, now, b.recs.drop 256⟩
    { s with cmd := { s.cmd with batches := left, evq := s.cmd.evq ++ evs } }

/-- A page record as it is sent (Table 17.3). -/
def PageRec.words (r : PageRec) : List Word64 :=
  [at_ r.ctx 0 ||| at_ r.page 12 ||| at_ (b2n r.rd) 56 ||| at_ (b2n r.wr) 57 ||| at_ (b2n r.ex) 58 ||| at_ (b2n r.hint) 59,
   at_ r.level 0 ||| at_ r.wait 32]

/-- Zuilaner walks the records of a closed batch again: pages found valid are retried, the others reported. -/
def State.pageEvents (s : State) (recs : List PageRec) : State :=
  let valid := recs.filter fun x => (s.absent x.ctx (4096 * x.page)).isNone
  let left := recs.filterMap fun r => (s.absent r.ctx (4096 * r.page)).map fun lv => PageRec.words { r with level := lv }
  let ctxs := (recs.map (·.ctx)).eraseDups
  let s := valid.foldl (fun s r => s.retryPages r.ctx fun a => a / 4096 == r.page) s
  let send (s : State) (items : List (List Word64)) : State :=
    if items.isEmpty then s
    else s.event ⟨0x02, if ctxs.length = 1 then ctxs.headD 0 else 0, 0, 0, 0, 0, [], items⟩
  send (send s (left.take 255)) (left.drop 255)

/-! ## Command cores (R347, R488) -/

def State.modFc (s : State) (core : Nat) (f : Fc → Fc) : State :=
  { s with cmd := { s.cmd with fcs := s.cmd.fcs.modify core f } }

/-- The head packet of a queue could start now: an arm waits for its instance's generation, a configure packet for the first lock
(R341, R437). -/
def State.headReady (s : State) (x : Queue) : Bool :=
  s.mayStart x && !x.unmapping &&
    let w := s.packet x x.h
    match fld (w.getD 0 0) 7 0 with
    | 0x02 => match s.graph x.ctx (fld (w.getD 2 0) 11 0) with | some g => g.armed.isNone | none => true
    | 0x06 => s.io.time.everLocked
    | _ => true

/-- A queue whose head packet could start is in the event queue, or a core has it. -/
def State.postQueues (s : State) : State :=
  let new := (s.cmd.queues.filter fun x => x.lock.isNone && !s.cmd.evq.contains (.queue x.q) && s.headReady x).map (CmdEv.queue ·.q)
  if new.isEmpty then s else { s with cmd := { s.cmd with evq := s.cmd.evq ++ new } }

/-- A core rejects the head packets of a queue whose type is in neither table (R341, R485 reason 12), at most `k` of them. -/
def State.rejectHeads (q : Nat) : Nat → State → State
  | 0, s => s
  | k + 1, s =>
    match s.queue q with
    | none => s
    | some x =>
      if x.lock.isSome && s.headReady x && (bodyBits (fld ((s.packet x x.h).getD 0 0) 7 0)).isNone then
        State.rejectHeads q k (s.startHead q (fun _ _ => true) fun s _ _ _ => s)
      else s

/-- Every queue that a core has is rid of head packets of no type. -/
def State.rejectUnknown (s : State) : State := s.cmd.queues.foldl (fun s x => s.rejectHeads x.q 65536) s

/-- A core lets go of a queue whose head packet cannot start. -/
def State.freeCores (s : State) : State :=
  s.cmd.fcs.zipIdx.foldl (fun s (f, core) =>
    match f.state with
    | .busy (.queue q) =>
      let keep : Bool := match s.queue q with | some x => s.headReady x | none => false
      if keep then s else (s.modQueue q fun x => { x with lock := none }).modFc core fun f => { f with state := .idle }
    | _ => s) s

/-- An event that a core could take. -/
def State.takeable (s : State) : CmdEv → Bool
  | .queue q => match s.queue q with | some x => x.lock.isNone | none => true
  | _ => true

/-- CMD_EVENT_DISPATCH: an idle core takes the oldest event that is not held back by a lock. -/
def execCmdEventDispatch (core : Nat) (s : State) : Host.Outcome State Fault Refusal :=
  match s.cmd.fcs[core]?, s.cmd.evq.find? s.takeable with
  | some f, some e =>
    if f.state != .idle then .next s
    else
      let s := { s with cmd := { s.cmd with evq := s.cmd.evq.erase e } }
      match e with
      | .batch _ recs => .next (s.pageEvents recs)
      | .node ctx inst v => .next (s.admitNode ctx inst v)
      | .note .. => .next s
      | .queue q =>
        if (s.queue q).isNone then .next s
        else
          let s := { s with cmd := { s.cmd with fbLocks := s.cmd.fbLocks.filter (·.2 != q) } }
          .next ((s.modQueue q fun x => { x with lock := some core }).modFc core fun f =>
            { f with state := .busy e, took := s.io.time.timebase.toNat })
  | _, _ => .next s

/-- FAULT_BATCH_CLOSE: a batch that is 2 µs old goes to a command core; an idle one handles it at once. -/
def execFaultBatchClose (die : Nat) (s : State) : Host.Outcome State Fault Refusal :=
  match s.cmd.batches.find? (·.die == die) with
  | none => .next s
  | some b =>
    if s.io.time.timebase.toNat < b.opened + 2000 then .next s
    else
      let recs := s.batchRecs b.recs
      let s := { s with cmd := { s.cmd with batches := s.cmd.batches.filter (·.die != die) } }
      if s.cmd.evq.isEmpty && s.cmd.fcs.any (·.state == .idle) then .next (s.pageEvents recs)
      else .next { s with cmd := { s.cmd with evq := s.cmd.evq ++ [.batch die recs] } }

/-- A core hangs: it reboots, or after three hangs in 10 s stays out; its event goes back to the head of the event queue. The manual gives no
code for the kind of event held: the event's field is a free value (log entry 10). -/
def State.coreHang (s : State) (core : Nat) : State :=
  match s.cmd.fcs[core]? with
  | none => s
  | some f =>
    let now := s.io.time.timebase.toNat
    let hangs := now :: f.hangs.filter fun t => decide (now < t + 10000000000)
    let out := decide (3 ≤ hangs.length)
    let go (s : State) : State :=
      let (k, s) := s.drawWord
      (s.modFc core fun f => { f with state := if out then .out else .reboot, hangs := hangs }).event
        ⟨0x06, 0, 0, 0, 0, 0, [at_ core 0 ||| at_ (b2n out) 8, k], []⟩
    match f.state with
    | .busy e =>
      let s := { s with cmd := { s.cmd with evq := e :: s.cmd.evq } }
      match e with
      | .queue q =>
        let s := go (s.modQueue q fun x => { x with lock := none })
        if out then s else { s with cmd := { s.cmd with fbLocks := (core, q) :: s.cmd.fbLocks } }
      | _ => go s
    | .idle => go s
    | _ => s

/-- CMD_CORE_HANG: the core misses a heartbeat, of which one is due each 1 ms from its return to service on. -/
def execCmdCoreHang (core : Nat) (s : State) : Host.Outcome State Fault Refusal :=
  match s.cmd.fcs[core]? with
  | none => .next s
  | some f => .next (if f.up + 1000000 ≤ s.io.time.timebase.toNat then s.coreHang core else s)

/-- Every core that has held one event for more than 5 ms hangs. -/
def State.watchCores (s : State) : State :=
  s.cmd.fcs.zipIdx.foldl (fun s (f, core) =>
    match f.state with
    | .busy _ => if f.took + 5000000 < s.io.time.timebase.toNat then s.coreHang core else s
    | _ => s) s

/-- CMD_CORE_REBOOT_DONE: the core repeats the checks of R434 on the image that runs, and returns to service; one that fails them stays out (log
entry 5). -/
def execCmdCoreRebootDone (core : Nat) (s : State) : Host.Outcome State Fault Refusal :=
  match s.cmd.fcs[core]? with
  | none => .next s
  | some f =>
    if f.state != .reboot then .next s
    else
      let ok := imagePasses s.io.start.image
      let s := s.modFc core fun f => { f with state := if ok then .idle else .out, up := s.io.time.timebase.toNat }
      .next { s with cmd := { s.cmd with fbLocks := s.cmd.fbLocks.filter (·.1 != core) } }

/-- Queues that the fallback scheduler serves (R489). -/
def State.fallbackQueues (s : State) : List Nat :=
  let none_ := !s.cmd.fcs.any Fc.serves
  let l := (s.cmd.queues.filter fun x => x.q != 0 && x.lock.isNone && (none_ || s.cmd.fbLocks.any (·.2 == x.q))).map (·.q)
  sortBy id l

/-- FALLBACK_TURN: the next queue in round robin has its head packet started, if that is a launch or a signal. -/
def execFallbackTurn (s : State) : Host.Outcome State Fault Refusal :=
  let l := s.fallbackQueues
  match (l.find? (decide <| s.cmd.fallback < ·)).orElse fun _ => l.head? with
  | none => .next s
  | some q =>
    let s := { s with cmd := { s.cmd with fallback := q } }
    let s1 := ((s.modQueue q fun x => { x with lock := some 12 }).launchPacket q)
    let s2 := if (s1.queue q).map (·.h) == (s.queue q).map (·.h) then s1.signalPacket q else s1
    .next (s2.modQueue q fun x => { x with lock := none })

end Sys2Proof.Machine
end

