-- ==== Sys2Proof/Machine/Layout.lean ====
section
/-! DEFINITION. The saved image of a sheaf (R402, R420 to R423) and the places of its 64 KiB pieces (R412, R413). -/

namespace Sys2Proof.Machine

/-! ## Husk entries (Table 12.1) -/

/-- `MC.ABASE` to `MC.KPOS`, as the tables of chapter 12 lay them out. -/
def MatCfg.bytes (c : MatCfg) : List Byte :=
  bytesOf 8 c.abase.toNat ++ bytesOf 8 c.axb.toNat ++ bytesOf 8 c.bbase.toNat ++ bytesOf 8 c.bxb.toNat
    ++ bytesOf 4 c.astr.toNat ++ bytesOf 4 c.axs.toNat ++ bytesOf 4 c.bstr.toNat ++ bytesOf 4 c.bxs.toNat
    ++ bytesOf 8 (c.aty.toNat + c.bty.toNat * 2 ^ 4 + c.kpos.toNat * 2 ^ 32)

def HkClass.code : HkClass → Nat
  | .I => 1
  | .D => 2
  | .O => 3
def HkState.code : HkState → Nat
  | .outstanding => 0
  | .awaiting => 1
  | .stopped => 2

/-- Words still remaining in an entry's window (`HK.WIN`). -/
def Warp.winLeft (w : Warp) (e : HkEntry) : Nat := ((w.wins.find? fun x => !x.pipe && x.id == e.seq.toNat).map (·.left)).getD 0

/-- `HK.PROG`: bytes of a copy or rows of a BGEMV landed and counted; of a matrix loop its step, with what a fault has recorded, or after a
freeze between two steps with no rows (R305). -/
def HkEntry.progWord (e : HkEntry) : Nat :=
  match e.instr with
  | .ckick .. | .bgemv .. => e.prog
  | .mloop .. | .mcoop .. =>
    (if e.state == .awaiting then e.scal.getD 1 0 else mprogOf false ((accOf e.instr).getD 0) e.prog 0).toNat % 2 ^ 32 / 2 * 2
  | _ => 0

/-- Data slot of lane i: operand words while the lane is pending, returned words after; the landed chunks of a copy or a BGEMV, the i-th in slot i
(log entry 87). What was captured at the port, or stands in a staging store, is not in the entry (R401). -/
def HkEntry.slot (e : HkEntry) (i : Nat) : List Word32 :=
  match e.instr with
  | .ckick .. | .bgemv .. => match e.chunks[i]? with
    | some (m, a, c) => [BitVec.ofNat 32 m, BitVec.ofNat 32 a, BitVec.ofNat 32 c]
    | none => []
  | _ =>
    if e.port then []
    else
      let n := (vdests e.instr).length
      ((if has e.pend i then e.data.drop n else e.data.take n).take 8).map fun x => Lanes.get x i

/-- A husk entry of 1,536 bytes. -/
def HkEntry.image (w : Warp) (e : HkEntry) : List Byte :=
  let awaits := e.state == .awaiting
  padTo 0x40 (bytesOf 8 (wordOf e.instr).toNat
    ++ bytesOf 8 (e.seq.toNat + e.cls.code * 2 ^ 16 + e.state.code * 2 ^ 18 + w.winLeft e * 2 ^ 20 + e.rm.toNat * 2 ^ 24 + b2n e.port * 2 ^ 26)
    ++ bytesOf 4 e.planes.toNat ++ bytesOf 4 e.pend.toNat ++ bytesOf 8 e.progWord
    ++ bytesOf 8 (if awaits then e.cause.toNat else 0) ++ bytesOf 8 (if awaits then e.faddr.toNat else 0))
  ++ (List.range 32).flatMap (fun i => bytesOf 8 (if e.port then 0 else (lane64 e.addr i).toNat))
  ++ (List.range 32).flatMap (fun i => padTo 32 ((e.slot i).flatMap fun x => bytesOf 4 x.toNat))
  ++ padTo 64 ((if e.port then [] else e.scal.take 8).flatMap fun x => bytesOf 8 x.toNat)
  ++ padTo 0x80 (if (accOf e.instr).isSome then e.cfg.bytes else [])

/-! ## Warp blocks (R422, R423, Table 12.6) -/

/-- `WI.SLOT`: a warp that has finished is neither ready nor parked. -/
def Slot.code : Slot → Nat
  | .turn | .ready => 0
  | .waiting | .finished => 1
  | .parked => 2

/-- A lookahead window of a pipeline operation. -/
def Win.word (x : Win) : Nat :=
  match x.regs with
  | [] => x.left
  | (c, n) :: _ => x.left + (match c with | .v => 0 | .s => 1 | _ => 2) * 2 ^ 4 + n % 256 * 2 ^ 6 + x.regs.length % 16 * 2 ^ 14

/-- Bound accumulators of a warp, by name. -/
def Warp.bound (w : Warp) : List (Nat × Acc) := (w.acc.zipIdx.filter fun x => x.1.bound).map fun x => (x.2, x.1)

/-- The clause inside which a warp stands: the one of its next word, or the one into which ERET has returned the lanes that it issues next (R183,
R452). -/
def Warp.within (w : Warp) : Option Clause :=
  if w.clause.inside then some w.clause else w.mids.find? fun c => c.word == w.issueAddr

/-- The 512-byte warp header. -/
def Warp.header (w : Warp) : List Byte :=
  let sum (l : List Nat) : Nat := l.foldl (· + ·) 0
  padTo 0x18 (bytesOf 8 (w.ident.idWarp + w.ident.role * 2 ^ 5 + w.slot.code * 2 ^ 8 + w.nseq.toNat * 2 ^ 16 + w.watermark.toNat * 2 ^ 32
      + w.husk.length * 2 ^ 48) ++ bytesOf 8 (w.vw % 2 ^ 48))
  ++ bytesOf 8 (w.within.getD w.clause).addr ++ bytesOf 8 ((w.within.elim 0 (·.slot)) + b2n w.within.isSome * 2 ^ 4)
  ++ padTo 8 (w.dc.toList.flatMap fun n => bytesOf 1 n)
  ++ [w.spr.fmode, w.spr.fflags, w.spr.tcause, w.spr.taddr, w.spr.tlanes.setWidth 64, w.spr.tvec, w.spr.mprog, w.spr.rangeLo,
      w.spr.rangeHi].flatMap (fun x => bytesOf 8 x.toNat)
  ++ bytesOf 8 (sum (w.bound.map fun x => 2 ^ x.1))
  ++ bytesOf 8 (sum (w.bound.map fun x => x.2.tag.toNat * 2 ^ (4 * x.1)))
  ++ padTo 64 ((List.range 15).flatMap fun k => bytesOf 4 (w.pget (k + 1)).toNat)
  ++ padTo 64 w.cfg.bytes
  ++ padTo 128 (((w.wins.filter (·.pipe)).take 16).flatMap fun x => bytesOf 8 x.word)
  ++ padTo 0x78 (bytesOf 8 w.waits.wake.toNat)

/-- Transaction state of lane i, 16 bytes; lanes that a TEND is committing stand in its entry alone. -/
def Tx.lane (t : Tx) (i : Nat) : List Byte :=
  bytesOf 8 ((lane64 t.resume i).toNat % 2 ^ 56)
    ++ padTo 8 (bytesOf 1 (2 * b2n (has t.doomed i)) ++ bytesOf 1 ((t.pred.toList.getD i 0).toNat)
      ++ [t.cause.toList.getD i 0, t.code.toList.getD i 0])

/-- `l` padded to a multiple of 64 bytes. -/
def pad64 (l : List Byte) : List Byte := padTo ((l.length + 63) / 64 * 64) l

/-- Tags of the vector registers, at four bits each. -/
def tagBytes : List VReg → List Byte
  | [] => []
  | [a] => [BitVec.ofNat 8 a.tag.toNat]
  | a :: b :: r => BitVec.ofNat 8 (a.tag.toNat + 16 * b.tag.toNat) :: tagBytes r

def laneBytes (x : Lanes) : List Byte := (List.range 32).flatMap fun i => bytesOf 4 (Lanes.get x i).toNat

/-- A warp block. -/
def Warp.block (w : Warp) : List Byte :=
  w.header
  ++ (List.range 32).flatMap (fun i => bytesOf 8 (w.pcOf i).toNat)
  ++ (List.range 32).flatMap w.tx.lane
  ++ pad64 (w.s.flatMap fun x => bytesOf 8 x.toNat)
  ++ pad64 (tagBytes w.v)
  ++ w.v.flatMap (fun r => laneBytes r.x)
  ++ w.husk.flatMap (HkEntry.image w)
  ++ w.bound.flatMap fun x => x.2.x.flatMap laneBytes

/-! ## The image (R420, R421, Table 12.8) -/

/-- A member block: the four BAR barriers of a member. A warp parked at one issues nothing more, so no arrival of a second round stands. -/
def Sheaf.memberBlock (h : Sheaf) (m : Nat) : List Byte :=
  padTo 64 ((List.range 4).flatMap fun b => bytesOf 8 ((h.bar m b).mask.toNat + b2n (h.bar m b).parity * 2 ^ 32))

/-- `LR.SHAPE` of a number of cores. -/
def shapeCode (n : Nat) : Nat := [1, 2, 4, 6, 8, 12, 24].idxOf n

/-- Bytes of each part of an image, which follow from the launch record, the husks and the bound accumulators. -/
def Warp.blockSize (w : Warp) : Nat :=
  512 + 256 + 512 + (8 * w.s.length + 63) / 64 * 64 + ((w.v.length + 1) / 2 + 63) / 64 * 64 + 128 * w.v.length + 1536 * w.husk.length
    + 4096 * w.bound.length
def State.imageSize (s : State) (h : Sheaf) : Nat :=
  match s.lrec h with
  | none => 0
  | some r =>
    256 + 64 * r.wgs + ((s.warps.filter (·.ident.sid == h.sid)).map Warp.blockSize).sum
      + ((List.range (h.width r)).map fun j => (s.sheafLoad h j).scr).sum

/-- The image header. -/
def State.imageHeader (s : State) (h : Sheaf) (l : Launch) : List Byte :=
  padTo 256 (bytesOf 8 (1 + l.ctx * 2 ^ 8 + l.queue * 2 ^ 20 + l.packet * 2 ^ 32)
    ++ bytesOf 8 (h.idx % 2 ^ 32 + h.orig * 2 ^ 32 + shapeCode l.r.shape * 2 ^ 43 + (l.r.wgs - 1) * 2 ^ 46)
    ++ bytesOf 8 (s.imageSize h) ++ bytesOf 8 h.frozenAt ++ bytesOf 8 ((s.mem.defer.filter (·.sid == h.sid)).length % 2 ^ 16))

/-- The image of a sheaf. -/
def State.image (s : State) (h : Sheaf) : List Byte :=
  match s.launch h.lid with
  | none => []
  | some l =>
    let warps (m : Nat) : List Warp := sortBy (·.ident.idWarp) (s.warps.filter fun w => w.ident.sid == h.sid && w.ident.member == m)
    s.imageHeader h l
      ++ (List.range l.r.wgs).flatMap (fun m => h.memberBlock m ++ (warps m).flatMap Warp.block)
      ++ (List.range (h.width l.r)).flatMap fun j => h.scr.getN (j * 2 ^ 20) (s.sheafLoad h j).scr

/-! ## Pieces (R412, R413) -/

/-- 64 KiB units of a core's scratchpad and of its register file that no placement on it needs and no piece fills. -/
def State.freeUnits (s : State) (core : Nat) : List PieceAt × List PieceAt :=
  let used := s.sheaves.flatMap (·.pieces)
  let areas := s.areasOn [] core
  let vregs := (s.load [] core).vregs
  (((List.range 16).filter fun k => areaFree areas 65536 (65536 * k)).map (PieceAt.scr core) |>.filter (!used.contains ·),
   ((List.range 8).filter fun k => decide (vregs ≤ 512 * k)).map (PieceAt.reg core) |>.filter (!used.contains ·))

/-- Places for the pieces of a sheaf's image, in the order of R412, in its cluster, the free space of its own cores among it (R413); none when
the save reserve is full. -/
def State.piecePlaces (s : State) (h : Sheaf) : Option (List PieceAt) :=
  let n := (s.imageSize h + 65535) / 65536
  let cores := ((List.range 24).map (24 * (h.cur / 24) + ·)).filter s.serving
  let near := (cores.flatMap fun c => (s.freeUnits c).1) ++ cores.flatMap fun c => (s.freeUnits c).2
  let rest := s.reserveUnits (n - near.length)
  if near.length + rest.length < n then none else some (near.take n ++ rest)

/-- A frozen sheaf's state moves out of its cores, piece by piece (R412); with no room for it, it stays. -/
def State.saveOne (s : State) (sid : Nat) : Option State :=
  match s.sheaf sid with
  | none => some s
  | some h =>
    if h.state != .frozen then some (s.setMem (s.mem.dropPins sid))
    else (s.piecePlaces h).map fun l =>
      let s := s.modSheaf sid fun h => { h with state := .saved, pieces := l }
      s.setMem (s.mem.dropPins sid)

/-- Sheaves that freeze together are saved together. -/
def State.saveAll (s : State) (l : List Nat) : Option State := l.foldl (fun s x => s.bind (·.saveOne x)) (some s)

end Sys2Proof.Machine
end

