-- ==== Sys2Proof/Machine/Lifecycle.lean ====
section
/-! DEFINITION. Freezing, saving and resuming sheaves (R51, R61, R358, R409 to R418), phases (R49, R360), the load balancer (R365)
and deadlocks (R477). -/

namespace Sys2Proof.Machine

/-! ## Freezing (R358, R361, R391, R521) -/

/-- A sheaf must leave its cores: one is under test or out of service, or its scratchpad is a strip store. -/
def State.mustLeave (s : State) (h : Sheaf) : Bool :=
  h.onCores && match s.lrec h with
  | some r => (List.range (h.width r)).any fun j =>
      let c := h.cur + j
      !s.serving c || (s.strips c && decide (0 < (s.sheafLoad h j).scr))
  | none => false

/-- The need of a task's next piece fits nowhere in its partition. -/
def State.pieceStuck (s : State) (l : Launch) (die : Nat) : Bool :=
  match l.nextTask die with
  | some t => !l.held && !(List.range 1152).any (s.oneFits l t.role)
  | none => false

/-- Sheaves of the former partition that a piece of a range task evicts from a moved core (R61). -/
def State.pieceVictims (s : State) (l : Launch) (die : Nat) : List Nat :=
  (victimsOf (fun gone => !(s.vacated gone).pieceStuck l die) ((s.evictOrder (s.foreign l.r.graphics)).map (·.sid))).getD []

/-- A waiting sheaf, a launch to be admitted, or a piece of a range task, that fits nowhere needs the room of this one. -/
def State.inTheWay (s : State) (sid : Nat) : Bool :=
  (s.sheaves.any fun x => s.waiting x && s.inTurn x && (s.homes x).isEmpty && ((s.victims x).getD []).contains sid)
  || (s.launches.any fun l => (List.range 8).any fun d => s.pieceStuck l d && (s.pieceVictims l d).contains sid)
  || s.launches.any fun l =>
    let g := s.admitGroup l
    !g.isEmpty && s.admitTurn g && (s.planAll g).isNone && (s.admitVictims g).contains sid

/-- FREEZE: the scheduler freezes a whole sheaf that must leave its cores or make room. -/
def execFreeze (sid : Nat) (s : State) : Host.Outcome State Fault Refusal :=
  match s.sheaf sid with
  | none => .next s
  | some h => .next (if h.state == .resident && (s.mustLeave h || s.inTheWay sid) then s.evict sid else s)

/-! ## Saving (R411 to R413) -/

/-- SHEAF_SAVE: a sheaf frozen to make room, or that must leave its cores, is saved, with those that freeze with it; while there is no room
for their images they stay frozen. -/
def execSheafSave (sid : Nat) (s : State) : Host.Outcome State Fault Refusal :=
  match s.sheaf sid with
  | none => .next s
  | some h =>
    let l := s.together sid
    let still := l.all fun x => match s.sheaf x with | some y => y.state != .resident | none => true
    .next (if h.state == .frozen && (h.why == .evict || s.mustLeave h) && still then (s.saveAll l).getD s else s)

/-! ## Resuming (R411, R414, R415, R424) -/

/-- An image that is not as the freeze left it fails its launch, with cause 0x28 for an uncorrectable error (R424, R473, R480). -/
def State.imageLost (s : State) (h : Sheaf) (cause : Code8) : State :=
  let vws := (s.warps.filter (·.ident.sid == h.sid)).map (·.vw)
  let (x, s) := s.drawWord
  let s := vws.foldl (fun s v => s.loseKeys v 3) s
  s.failLaunch h.lid 1 [faultDesc cause 6 (s.ctxOf h) 0 0 0 (BitVec.ofNat 64 h.idx) x]

/-- SHEAF_RESUME: a frozen sheaf that may run again resumes in place; a saved one is placed again, those of an ADMIT launch
together. -/
def execSheafResume (sid core : Nat) (s : State) : Host.Outcome State Fault Refusal :=
  match s.sheaf sid with
  | none => .next s
  | some h =>
    let held := match s.launch h.lid with | some l => l.held | none => true
    let atOnce := match s.launch h.lid with | some l => l.r.atOnce | none => false
    if h.trail || held || h.why != .evict then .next s
    else if h.state == .saved then
      .next (match s.badImage h with
        | some c => s.imageLost h c
        | none => if atOnce then s.admitWhole h.lid else s.placeSheaf sid core)
    else if h.state == .frozen && core == h.cur then
      let l := s.together sid
      let ok := l.all fun x => match s.sheaf x with
        | some y => y.state == .frozen && y.why == .evict && !s.mustLeave y && s.drained x
        | none => true
      .next (if ok then l.foldl State.unfreeze s else s)
    else .next s

/-- The copies of a pair freeze together (R500), and so do the sheaves of an ADMIT launch (R66). -/
def State.freezeTogether (s : State) : State :=
  s.sheaves.foldl (fun s h =>
    if h.state == .frozen && h.why != .none then
      (s.together h.sid).foldl (fun s x => match s.sheaf x with
        | some y => if y.state == .resident then s.freezeSheaf x h.why else s
        | none => s) s
    else s) s

/-! ## Phases (R49, R360) -/

/-- What a list of contributions combines to, with its operation: none when nothing was contributed. -/
def contributed (l : List (Nat × Nat × POp × Word64)) : POp × Word64 :=
  match sortBy (fun c => c.1 * 64 + c.2.1) l with
  | [] => (.none, 0)
  | c :: _ => (c.2.2.1, combine l)

/-- Devices of a context's binding that carry a system group's identifier (R360): this one when a launch of its own does, and the
peers that do, which the configuration says (log entry 18). -/
def State.devices (s : State) (ctx sysid : Nat) : List Nat :=
  (if s.launches.any fun l => l.ctx == ctx && l.groups.any fun g => g.sys && g.sysid == sysid then [s.io.start.device.toNat] else [])
    ++ ((s.cmd.peers.filter (·.ctx == ctx)).map (·.dev)).filter (Config.peerCarries ctx sysid)
def State.coordinator (s : State) (ctx sysid : Nat) : Nat := (s.devices ctx sysid).foldl min (2 ^ 20)

/-- This device is the coordinator of a system group, or will be once a launch of its own carries the identifier. -/
def State.coordinates (s : State) (ctx sysid : Nat) : Bool :=
  let me := s.io.start.device.toNat
  decide (me ≤ s.coordinator ctx sysid)

/-- A device that takes part in a system group's phases is lost: none of them completes (R497). -/
def State.groupLost (s : State) (ctx sysid : Nat) : Bool :=
  s.cmd.peers.any fun p => p.ctx == ctx && p.lost && Config.peerCarries ctx sysid p.dev

/-- Words of a phase message: `GT.SYSID` and phase, operation, value. -/
def phaseMsg (sysid : Nat) (phase : Word32) (op : POp) (v : Word64) : List Word64 :=
  [at_ sysid 0 ||| at_ phase.toNat 32, at_ (([POp.none, .add, .umin, .umax, .or, .and, .xor].idxOf op)) 0, v]

/-- The coordinator holds the arrivals of every device for a phase that has ended here: it combines them in ascending device
order, and tells the others. -/
def State.sysPhaseDone (s : State) (lid g : Nat) : State :=
  match s.launch lid with
  | none => s
  | some l => match l.groups.find? (·.idx == g) with
    | none => s
    | some x =>
      let mine := s.cmd.sysArr.filter fun a => a.ctx == l.ctx && a.sysid == x.sysid && a.phase == x.phase
      let devs := (mine.map (·.dev)).eraseDups
      if !x.sent || devs.length < x.ndev || s.groupLost l.ctx x.sysid then s
      else
        let v := combine ((mine.filter (·.op != .none)).map fun a => (a.dev, 0, a.op, a.value))
        let s := { s with cmd := { s.cmd with sysArr := s.cmd.sysArr.filter fun a => !mine.contains a } }
        let s := (devs.filter (· != s.io.start.device.toNat)).foldl (fun s d =>
          s.send (.sys l.ctx d (phaseMsg x.sysid x.phase .none v))) s
        s.phaseDone lid g v

/-- A device's arrival for a system phase reaches the coordinator, which is this device, or is sent to it. -/
def State.sysArrive (s : State) (lid : Nat) (l : Launch) (x : Group) : State :=
  if x.sent || s.groupLost l.ctx x.sysid then s
  else
    let (op, v) := contributed x.contrib
    let me := s.io.start.device.toNat
    let s := s.modGroup lid x.idx fun x => { x with sent := true }
    if s.coordinator l.ctx x.sysid = me then
      State.sysPhaseDone { s with cmd := { s.cmd with sysArr := s.cmd.sysArr ++ [SysArr.mk l.ctx x.sysid me x.phase op v] } } lid x.idx
    else s.send (.sys l.ctx (s.coordinator l.ctx x.sysid) (phaseMsg x.sysid x.phase op v))

/-- PHASE_COMPLETE: the conditions of R49 hold here. -/
def execPhaseComplete (lid grp : Nat) (s : State) : Host.Outcome State Fault Refusal :=
  match s.launch lid with
  | none => .next s
  | some l => match l.groups.find? (·.idx == grp) with
    | none => .next s
    | some x =>
      -- members that have all finished arrive in every later phase (R48), of which only a system group makes something
      if (x.arrived.isEmpty && !x.sys) || !s.phaseFull l x then .next s
      else .next (if x.sys then s.sysArrive lid l x else s.phaseDone lid grp (combine x.contrib))

/-- A phase whose arrivals are all held completes once no device of its group is lost any more (R497). -/
def State.sysPhases (s : State) : State :=
  s.launches.foldl (fun s l => l.groups.foldl (fun s g => if g.sys then s.sysPhaseDone l.lid g.idx else s) s) s

/-- The fields of a phase message as it arrives. -/
def phaseFields (data : List Byte) : Nat × Word32 × POp × Word64 :=
  let w := dwordsOf 3 (data ++ List.replicate 24 0)
  (fld (w.getD 0 0) 31 0, (w.getD 0 0).extractLsb' 32 32,
    ([POp.none, .add, .umin, .umax, .or, .and, .xor]).getD (fld (w.getD 1 0) 2 0) .none, w.getD 2 0)

/-- The launch and group of a context that carry a `GT.SYSID`. -/
def State.sysGroup (s : State) (ctx sysid : Nat) : Option (Launch × Group) :=
  s.launches.findSome? fun l => if l.ctx == ctx then
    (l.groups.find? fun g => g.sys && g.sysid == sysid).map fun g => (l, g) else none

/-- SYS_PHASE_ARRIVAL: the coordinator takes a device's arrival; one for a later phase, or for a launch not yet admitted here, is held. -/
def execSysPhaseArrival (peer : Nat) (data : List Byte) (s : State) : Host.Outcome State Fault Refusal :=
  match s.cmd.peers[peer]? with
  | none => .next s
  | some p =>
    let (sysid, phase, op, v) := phaseFields data
    if p.lost || !s.hears p.port || !s.coordinates p.ctx sysid then .next s
    else
      let s := { s with cmd := { s.cmd with sysArr := s.cmd.sysArr ++ [SysArr.mk p.ctx sysid p.dev phase op v] } }
      let s := s.send (.sys p.ctx p.dev [0x84])
      match s.sysGroup p.ctx sysid with
      | some (l, g) => .next (s.sysPhaseDone l.lid g.idx)
      | none => .next s

/-- SYS_PHASE_COMPLETION: the coordinator's completion message arrives. -/
def execSysPhaseCompletion (peer : Nat) (data : List Byte) (s : State) : Host.Outcome State Fault Refusal :=
  match s.cmd.peers[peer]? with
  | none => .next s
  | some p =>
    let (sysid, phase, _, v) := phaseFields data
    match s.sysGroup p.ctx sysid with
    | some (l, g) =>
      .next (if !p.lost && s.hears p.port && !s.groupLost p.ctx sysid && p.dev == s.coordinator p.ctx sysid && g.sent && g.phase == phase then
        (s.send (.sys p.ctx p.dev [0x84])).phaseDone l.lid g.idx v else s)
    | none => .next s

/-! ## The load balancer (R365) -/

/-- Work of a partition that fits nowhere there: sheaves, whole ADMIT launches, pieces of tasks. -/
def State.stuckSheaves (s : State) (graphics : Bool) : List Sheaf :=
  s.sheaves.filter fun h => s.waiting h && (match s.lrec h with | some r => r.graphics == graphics | none => false) && (s.homes h).isEmpty
def State.stuckLaunches (s : State) (graphics : Bool) : List Launch :=
  s.launches.filter fun l => l.r.graphics == graphics && !(s.admitGroup l).isEmpty && (s.planAll (s.admitGroup l)).isNone
def State.stuckTasks (s : State) (graphics : Bool) : List (Launch × Nat) :=
  (s.launches.filter fun l => l.r.graphics == graphics).flatMap fun l =>
    ((List.range 8).filter (s.pieceStuck l)).map fun d => (l, d)
def State.stuck (s : State) (graphics : Bool) : Bool :=
  !(s.stuckSheaves graphics).isEmpty || !(s.stuckLaunches graphics).isEmpty || !(s.stuckTasks graphics).isEmpty

/-- Some stuck work could be placed once a core has moved to a partition, in the machine `s1`, with what R61 evicts from it. -/
def State.helps (s s1 : State) (core : Nat) (graphics : Bool) : Bool :=
  let s2 := s1.vacated (((s1.on core).filter fun h => (s1.foreign graphics).any (·.sid == h.sid)).map (·.sid))
  ((s.stuckSheaves graphics).any fun h => !(s2.homes h).isEmpty)
  || ((s.stuckLaunches graphics).any fun l => (s2.planAll (s2.admitGroup l)).isSome)
  || (s.stuckTasks graphics).any fun (l, d) => !s2.pieceStuck l d

/-- Set G of a cluster. -/
def State.setG (s : State) (cl g : Nat) : State :=
  { s with cores := { s.cores with bal := s.cores.bal.modify cl fun b => { b with g := g } } }

/-- The step of one cluster. -/
def State.balanceOne (s : State) (cl : Nat) : State :=
  match s.cores.bal[cl]? with
  | none => s
  | some b =>
    let lo := max b.gmin (s.floor cl)
    if b.g < lo then s.setG cl (b.g + 1)
    else if b.fixed then (if lo < b.g then s.setG cl (b.g - 1) else s)
    else if b.g < b.gmax && s.stuck true && s.helps (s.setG cl (b.g + 1)) (24 * cl + 23 - b.g) true then s.setG cl (b.g + 1)
    else if lo < b.g && !s.stuck true && s.stuck false && s.helps (s.setG cl (b.g - 1)) (24 * cl + 24 - b.g) false then s.setG cl (b.g - 1)
    else s

/-- BALANCE_STEP: every 20 µs. -/
def execBalanceStep (s : State) : Host.Outcome State Fault Refusal :=
  let now := s.io.time.timebase.toNat
  if now < s.cores.balanced + 20000 then .next s
  else .next ((List.range 48).foldl State.balanceOne { s with cores := { s.cores with balanced := now } })

/-! ## Deadlock (R477) -/

/-- The entry on which a warp is parked by one of the instructions of R477. -/
def Warp.parkEntry (w : Warp) : Option HkEntry :=
  if w.slot != .parked then none
  else w.husk.find? fun e => e.parked && match e.instr with
    | .bar .. | .phase .. | .mbwait .. | .mbwaitCur .. | .osenter .. | .deq .. => true
    | _ => false

/-- A warp is parked, with nothing else outstanding, and not on a system group. -/
def State.stoppedWarp (s : State) (w : Warp) : Bool :=
  match w.parkEntry with
  | none => false
  | some e => decide (w.husk.length = 1) && e.state == .outstanding && match e.instr with
    | .phase _ g _ _ => match s.groupOf w g.toNat with | some x => !x.sys | none => true
    | _ => true

/-- Nothing but parked warps is left of a launch. -/
def State.stoppedLaunch (s : State) (l : Launch) : Bool :=
  let mine := s.sheaves.filter (·.lid == l.lid)
  let ws := s.warps.filter (·.ident.lid == l.lid)
  l.state == .admitted && !l.held && mine.all (fun h => h.state == .resident || h.state == .retired)
    && ws.all (fun w => if w.slot == .finished then w.husk.isEmpty else s.stoppedWarp w)
    && l.tasks.all (·.whole) && l.pool.isEmpty && !s.cmd.bins.any (·.lid == l.lid)
    && l.pages.all fun p => s.refillRoom l p.kind p.inst == 0

/-- A running packet of a queue waits for these launches only. -/
def State.stoppedPacket (s : State) (ctx : Nat) (r : Running) : Bool :=
  match r.kind with
  | .launch _ => true
  | .graph i => match s.graph ctx i with
    | some g => g.nodes.all fun x => (x.state != .running && x.state != .ended) || x.kind == 1
    | none => false
  | _ => false

/-- The conditions of R477 hold for a context. -/
def State.deadlocked (s : State) (ctx : Nat) : Bool :=
  let ls := s.launches.filter (·.ctx == ctx)
  (s.warps.any fun w => w.ident.ctx == ctx && w.slot == .parked)
    && ls.all s.stoppedLaunch && !s.mem.defer.any (·.ctx == ctx)
    && (s.cmd.queues.filter (·.ctx == ctx)).all fun x => x.running.all (s.stoppedPacket ctx) && !s.headReady x

/-- Note since when each context has been deadlocked. -/
def State.watchDead (s : State) : State :=
  let dead := ((s.warps.filter (·.slot == .parked)).map (·.ident.ctx)).eraseDups.filter s.deadlocked
  let old := s.cmd.deadSince.filter fun d => dead.contains d.1
  let new := (dead.filter fun c => !old.any (·.1 == c)).map fun c => (c, s.io.time.timebase.toNat)
  if old.length = s.cmd.deadSince.length && new.isEmpty then s else { s with cmd := { s.cmd with deadSince := old ++ new } }

/-- DEADLOCK_DETECT: the conditions have held for 1 ms. -/
def execDeadlockDetect (ctx : Nat) (s : State) : Host.Outcome State Fault Refusal :=
  match s.cmd.deadSince.find? (·.1 == ctx) with
  | none => .next s
  | some d =>
    if s.io.time.timebase.toNat < d.2 + 1000000 || !s.deadlocked ctx then .next s
    else
      let ws := sortBy (·.vw) (s.warps.filter fun w => w.ident.ctx == ctx && w.slot == .parked)
      let aux := at_ ws.length 0
      let (a, s) := s.drawWord
      let items := faultDesc 0x21 5 ctx 0 0 0 a aux :: (ws.take 64).map fun w =>
        match w.parkEntry with
        | some e => faultDesc 0x21 0 ctx e.planes w.vw e.seq e.faddr aux
        | none => faultDesc 0x21 0 ctx 0 w.vw 0 0 aux
      let s := s.event ⟨0x01, ctx, 0, 0, 0, 0, [], items⟩
      .next (((s.launches.filter (·.ctx == ctx)).map (·.lid)).foldl (fun s lid => s.freezeLaunch lid .deadlock) s)

end Sys2Proof.Machine
end

