-- ==== Sys2Proof/Machine/Pair.lean ====
section
/-! DEFINITION. Checkpoints and rollbacks of sheaf pairs (R505 to R510). -/

namespace Sys2Proof.Machine

/-! ## Checkpoints (R507, R508) -/

/-- Warps of a sheaf, and of both copies side by side. -/
def State.warpsOf (s : State) (sid : Nat) : List Warp := s.warps.filter (·.ident.sid == sid)
def State.twins (s : State) (l : Sheaf) : List (Warp × Warp) :=
  (s.warpsOf l.sid).filterMap fun w => (s.twinOf w).map fun x => (w, x.2)

/-- Data slots in which the lanes of `L` read 0. -/
def HkEntry.settledData (e : HkEntry) (L : Mask) : List Lanes := e.data.map fun x => Lanes.of fun i => if has L i then 0 else Lanes.get x i

/-- What a checkpoint compares of a husk entry: all but state, pending lanes, progress, and the data of lanes that are pending in either copy; the
scalars that it captured, cause and address of a fault that both await, and of an operation that no engine carries on the data. -/
def HkEntry.imageEq (a b : HkEntry) : Bool :=
  let L := a.pend ||| b.pend
  a.instr == b.instr && a.seq == b.seq && a.planes == b.planes && a.addr == b.addr && a.cfg == b.cfg && a.rm == b.rm && a.txl == b.txl
    && (carried a.instr || a.settledData L == b.settledData L) && a.request.2 == b.request.2 && (L != 0 || a.psn == b.psn)
    && (a.state != .awaiting || b.state != .awaiting || (a.cause == b.cause && a.faddr == b.faddr))

/-- What a checkpoint compares of a warp: all but slot state and wake time. -/
def Warp.imageEq (a b : Warp) : Bool :=
  a.vpc == b.vpc && a.v == b.v && a.s == b.s && a.p == b.p && a.acc == b.acc && a.dc == b.dc && a.spr == b.spr
    && a.cfg == b.cfg && a.clause == b.clause && a.nseq == b.nseq && a.tx == b.tx && a.issued == b.issued
    && (a.wins.filter (·.pipe)).map Win.word == (b.wins.filter (·.pipe)).map Win.word
    && a.husk.length == b.husk.length && (a.husk.zip b.husk).all fun x => x.1.imageEq x.2 && a.winLeft x.1 == b.winLeft x.2

/-- Steps 1 to 3 of Table 19.2 are done for a pair of warps: the trailing copy stands where the leading one does, and what is compared
has been performed. -/
def State.aligned (s : State) (w t : Warp) : Bool :=
  w.issued == t.issued && w.husk.all fun e => match s.pairWay w e with
    | .own => true
    | .lead => e.undone == 0 || mayStay e.instr || !compared e.instr
    | _ => false

/-- Image of a copy. -/
def State.imageOf (s : State) (h : Sheaf) : PairImg := ⟨s.warpsOf h.sid, h.scr, h.psn, h.bars⟩

/-- Freeze one sheaf's warps as a checkpoint does, and go on. -/
def State.latch (s : State) (sid : Nat) : State :=
  { s with
    warps := updIf (fun w => w.ident.sid == sid && w.slot != .finished) Warp.freeze s.warps
    focus := match s.focus with
      | some v => if s.warps.any (fun w => w.vw == v && w.ident.sid == sid) then none else some v
      | none => none }

/-- The checkpoint of a pair that asks for one and is aligned. -/
def State.checkpointPair (s : State) (l t : Sheaf) : State :=
  if !l.pair.want || l.pair.bad || l.state != .resident || t.state != .resident || !(s.twins l).all (fun x => s.aligned x.1 x.2)
      || !l.pair.fwd.isEmpty then s
  else
    let s := (s.latch l.sid).latch t.sid
    if !((s.twins l).all fun x => x.1.imageEq x.2) || l.scr != t.scr || l.psn != t.psn || l.bars != t.bars then s.mismatch l.sid
    else
      let resume (w : Warp) : Warp :=
        { w.replay with waits := { w.waits with ckpt := none }, reads := [], traps := [] }
      let s := { s with warps := updIf (fun w => w.ident.sid == l.sid || w.ident.sid == t.sid) resume s.warps }
      let img := (s.imageOf l, s.imageOf t)
      s.modSheaf l.sid fun h => { h with pair := { PairSt.start with img := some img } }

/-- Pairs of a launch, leading and trailing. -/
def State.pairsOf (s : State) (lid : Nat) : List (Sheaf × Sheaf) :=
  (s.sheaves.filter fun h => h.lid == lid && !h.trail).filterMap fun h => (h.twin.bind s.sheaf).map fun t => (h, t)

/-- CHECKPOINT. -/
def execCheckpoint (lid : Nat) (s : State) : Host.Outcome State Fault Refusal :=
  .next ((s.pairsOf lid).foldl (fun s (l, t) => s.checkpointPair l t) s)

/-- Limits that ask for a checkpoint: the pair log is three-quarters full, or a warp has advanced 16,384 sequence numbers (R508). -/
def State.pairLimits (s : State) : State :=
  s.sheaves.foldl (fun s h =>
    if h.twin.isNone || h.trail || h.pair.want then s
    else
      let base (w : Warp) : BitVec 16 := match h.pair.img with
        | some i => ((i.1.warps.find? (·.vw == w.vw)).map (·.nseq)).getD 0
        | none => 0
      let accepted (w : Warp) : Nat := match s.twinOf w with
        | some (_, t) => (w.reads.filter fun r => decide (r.n ≤ t.issued)).length
        | none => 0
      if 49152 ≤ h.pair.log.length + ((s.warpsOf h.sid).map accepted).sum || (s.warpsOf h.sid).any (fun w => decide (16384 ≤ (w.nseq - base w).toNat)) then s.wantCkpt h.sid
      else s) s

/-- CKPT_WAIT_TIMEOUT: 65,536 cycles have passed; the request stands. -/
def execCkptWaitTimeout (vw : Nat) (s : State) : Host.Outcome State Fault Refusal :=
  match s.warp vw with
  | none => .next s
  | some w => match w.waits.ckpt with
    | some t => .next (if t ≤ s.clockOf w then s.setWarp { w with waits := { w.waits with ckpt := none } } else s)
    | none => .next s

/-! ## Rollbacks (R509, R510) -/

/-- The starting state of a warp, under its own identifiers. -/
def State.restartWarp (s : State) (h : Sheaf) (w : Warp) : Warp :=
  match h.seed.find? (·.vw == w.vw), s.launch h.lid with
  | some x, _ => { x with ident := w.ident }
  | none, some l =>
    { Warp.start w.vw w.ident (l.r.roles.getD w.ident.role ⟨0, 0, 0, 0, 0, 0⟩) l.args s.now 0 with ident := w.ident }
  | none, none => w

/-- Why a sheaf is stopped after a rollback: one that waits for RESUME waits on. -/
def Why.rolled : Why → Why
  | .halt => .halt
  | .fault => .fault
  | .quota => .quota
  | .deadlock => .deadlock
  | _ => .evict

/-- One copy goes back to its image, or to its starting state, and waits to be placed again. What it read of the registers of
Table 19.1 and its twin accepted is read again, and a HALT that was performed is not performed again; its chaff records of operations on the
sheaf's own slices go with the slices. -/
def State.rollOne (s : State) (h : Sheaf) (img : Option PairImg) (shun : List Nat) : State :=
  let old := s.warpsOf h.sid
  let mem := (img.map fun i : PairImg => (i.scr, i.psn, i.bars)).getD ([], [], [])
  let again := match img with
    | some i => i.warps
    | none => old.map (s.restartWarp h)
  let seen (w : Warp) : List PairRead :=
    match old.find? (·.vw == w.vw) with
    | some x => x.reads.filter fun r => r.done && match s.twinOf x with | some (_, t) => decide (r.n ≤ t.issued) | none => false
    | none => []
  -- what its warps did in their own slices is done again, and so is a BGEMV that accumulates there
  let again1 (c : Chaff) : Bool := old.any fun w => w.vw == c.vw && (match c.place with
      | .loc (.scr sid ..) => sid == h.sid || some sid == h.twin
      | _ => false) || (c.kind == 7 && w.vw == c.vw && s.ownAddr w ((((w.entry c.seq).map (·.scal)).getD
        (((s.leadOf h.sid).bind fun l => pairFind l.pair.log w c.seq).elim [] (·.scal))).getD 2 0).toNat)
  let place (w : Warp) : Warp :=
    { w with reads := seen w, slot := if w.slot == .turn || w.slot == .ready then .waiting else w.slot }
  let s1 : State := { s with
    warps := s.warps.filter (fun w => w.ident.sid != h.sid) ++ again.map place
    focus := match s.focus with
      | some v => if old.any (·.vw == v) then none else some v
      | none => none }
  (s1.modSheaf h.sid fun h =>
    { h with state := .saved, why := h.why.rolled, frozenAt := s.io.time.timebase.toNat, shun := shun,
             scr := mem.1, psn := mem.2.1, bars := mem.2.2 }).setMem
    { s1.mem.dropPins h.sid with chaff := s1.mem.chaff.filter fun c => !again1 c }

/-- A pair in which a mismatch was found rolls back; with no retry left its launch fails with 0x30. -/
def State.rollbackPair (s : State) (l t : Sheaf) : State :=
  if !l.pair.bad then s
  else match s.launch l.lid with
  | none => s
  | some la =>
    if la.r.retry ≤ l.pair.retries then s.failLaunch l.lid 2 []
    else
      let shun := [l.cur / 24, t.cur / 24]
      let img := l.pair.img
      -- both read lists refer to the state before
      let s1 := s.rollOne l (img.map (·.1)) shun
      let s2 := s1.rollOne t (img.map (·.2)) shun
      s2.modSheaf l.sid fun h => { h with pair := { h.pair with fwd := [], again := h.pair.log, bad := false,
                                                                 retries := h.pair.retries + 1 } }

/-- ROLLBACK. -/
def execRollback (lid : Nat) (s : State) : Host.Outcome State Fault Refusal :=
  .next ((s.pairsOf lid).foldl (fun s (l, t) => s.rollbackPair l t) s)

end Sys2Proof.Machine
end

