-- ==== Sys2Proof/Machine/Streams.lean ====
section
/-! DEFINITION. View streams: the configure packet and its record (R368 to R370, R381, R391), gaze packets (R374, R375), frames,
their draws and geometry (R371 to R373, R381), latches (R376 to R378). -/

namespace Sys2Proof.Machine

/-! ## Streams by number -/

def State.stream (s : State) (id : Nat) : Option Stream := s.streams.find? (·.id == id)
def State.modStream (s : State) (id : Nat) (f : Stream → Stream) : State := { s with streams := updIf (·.id == id) f s.streams }
def State.setStream (s : State) (t : Stream) : State := { s with streams := upsert (·.id == t.id) t s.streams }

/-- The number by which an event names a stream. -/
def streamId (ctx num : Nat) : Nat := 256 * ctx + num

/-- Add to a counter of Table 18.5. -/
def Stream.count (t : Stream) (k n : Nat) : Stream :=
  { t with counters := t.counters.modify k (· + BitVec.ofNat 32 n) }
def State.countStream (s : State) (id k n : Nat) : State := s.modStream id (·.count k n)

def VsRec.strips (r : VsRec) : Nat := r.nstrip

/-- Times of R372. -/
def VsRec.frameAt (r : VsRec) (f : Nat) : Nat := r.epoch + f * r.frame
def VsRec.latchAt (r : VsRec) (f k : Nat) : Nat := r.frameAt f + r.goff + k * r.sper
def VsRec.deadline (r : VsRec) (f k : Nat) : Nat := r.latchAt f k + r.bound
def VsRec.checkAt (r : VsRec) (f k : Nat) : Nat := r.deadline f k - r.guard

/-! ## Templates (R381) -/

/-- Read a template record: none when it breaks R381; `vregs` registers and `scr` bytes are needed at least. -/
def State.readTemplate (s : State) (ctx a vregs scr : Nat) : Option Template × State :=
  match s.readRecord ctx a true with
  | (.error _, s) => (none, s)
  | (.ok v, s) =>
    let r := v.r
    let role := r.roles.getD 0 ⟨0, 0, 0, 0, 0, 0⟩
    if r.graphics && r.shape == 1 && r.wgs == 1 && r.roles.length == 1 && role.warps == 1 && !r.paired && !r.restart && !r.atOnce
        && decide (4 + v.args.length ≤ role.sregs) && decide (vregs ≤ 8 * (role.vblk + 1)) && decide (scr ≤ role.scr) then
      (some ⟨r, v.args⟩, s)
    else (none, s)

/-! ## The record (Tables 11.1, 11.2) -/

def word32s (w : List Word64) : List Word32 := w.flatMap fun x => [x.extractLsb' 0 32, x.extractLsb' 32 32]

/-- Bytes of an IPv6 address in network order, as a number. -/
def netAddr (a b : Word64) : BitVec 128 :=
  BitVec.ofNat 128 ((bytesOf 8 a.toNat ++ bytesOf 8 b.toNat).foldl (fun x y => 256 * x + y.toNat) 0)

/-- A view record from its 32 words. -/
def View.of (w : List Word64) : View :=
  let d := word32s w
  { cluster := fld (w.getD 0 0) 5 0, addr := netAddr (w.getD 1 0) (w.getD 2 0), dport := fld (w.getD 3 0) 15 0,
    dmap := fld (w.getD 4 0) 55 0, tl := nthW d 10, tr := nthW d 11, tb := nthW d 12, tt := nthW d 13,
    m := (d.drop 14).take 16, eye := (d.drop 30).take 3, rot := (d.drop 33).take 9 }

/-- A record from its header's 32 words and its views. -/
def VsRec.of (w : List Word64) (views : List View) (recon : Option Template) : VsRec :=
  let x (k : Nat) : Word64 := w.getD k 0
  let d := word32s w
  let cf := fld (x 0) 21 20
  { nstrip := fld (x 0) 19 16 + 1, cwords := if cf = 0 then 1 else if cf = 1 then 2 else 4, nbuf := fld (x 0) 23 22 + 2,
    rband := fld (x 0) 26 24, stop := (x 0).getLsbD 27, port := fld (x 0) 43 40, udp := fld (x 0) 63 48, epoch := (x 1).toNat,
    frame := fld (x 2) 31 0, sper := fld (x 2) 63 32, goff := fld (x 3) 31 0, bound := fld (x 3) 63 32, guard := fld (x 4) 31 0,
    nx := fld (x 4) 47 32, ny := fld (x 4) 63 48, dx := fld (x 5) 15 0, dy := fld (x 5) 31 16, ftab := fld (x 6) 55 0,
    nftab := fld (x 6) 63 56 + 1, hist := fld (x 7) 55 0, ecc := (d.drop 20).take 7, dens := (d.drop 28).take 8,
    views := views, recon := recon }

/-- Bits that the words of a record's header and of a view record use. -/
def vsBits : List Word64 :=
  let a : Word64 := BitVec.allOnes 64
  [0xFFFF0FFF0FFF3FFF, a, a, a, a, 0xFFFFFFFF, a, 0x00FFFFFFFFFFFFFF, 0x00FFFFFFFFFFFFFF, 0, a, a, a, 0xFFFFFFFF, a, a, a, a]
    ++ List.replicate 14 0
def viewBits : List Word64 :=
  let a : Word64 := BitVec.allOnes 64
  [0x3F, a, a, 0xFFFF, 0x00FFFFFFFFFFFFFF] ++ List.replicate 16 a ++ List.replicate 11 0

def positive (x : Word32) : Bool := finite x && flt 0 x
def rising : List Word32 → Bool
  | a :: b :: r => fle a b && rising (b :: r)
  | _ => true

/-- Items 1 to 7 of R370 on a record and the words that it was read from. -/
def VsRec.valid (r : VsRec) (w : List Word64) (vws : List (List Word64)) : Bool :=
  let x := w.getD 0 0
  let S := r.nstrip
  let mult (n : Nat) : Bool := n % 16 == 0
  bitsOk w vsBits && vws.all (bitsOk · viewBits) && fld x 7 0 == 1 && fld x 21 20 != 3 && fld x 23 22 != 3
    && r.ftab % 16 == 0 && r.hist % 4096 == 0 && r.views.all (·.dmap % 8 == 0)
  && decide (64 ≤ r.nx ∧ r.nx ≤ 4096 ∧ 64 ≤ r.ny ∧ r.ny ≤ 4096 ∧ 16 ≤ r.dx ∧ r.dx ≤ 4096 ∧ 16 ≤ r.dy ∧ r.dy ≤ 4096)
    && mult r.nx && mult r.ny && mult r.dx && mult r.dy && r.ny % (16 * S) == 0 && r.dy % (16 * S) == 0
  && decide (S * r.sper ≤ r.frame ∧ r.goff < r.frame ∧ r.guard < r.bound ∧ r.bound ≤ 100000000)
  && decide (2000 + 64 * r.views.length * (r.dx / 16) * (r.dy / (16 * S)) ≤ r.guard)
  && r.ecc.all positive && r.dens.all positive && rising r.ecc
  && r.views.all (fun v => [v.tl, v.tr, v.tb, v.tt].all finite && v.m.all finite && v.rot.all finite && flt v.tl v.tr && flt v.tb v.tt)
  && r.views.all (fun v => decide (v.cluster < 48) && v.cluster / 6 == ((r.views.head?).map (·.cluster / 6)).getD 0)

/-- Bytes of one strip buffer (R391). -/
def VsRec.bufBytes (r : VsRec) : Nat :=
  r.nx * (r.ny / r.nstrip) * 4 * r.cwords + r.nx / 16 * (r.ny / (16 * r.nstrip)) * 32

/-- Cores that the strip stores of a record take of a cluster (R391). -/
def VsRec.coresOf (r : VsRec) (cl : Nat) : Nat :=
  ((r.views.filter (·.cluster == cl)).length * r.nbuf * r.bufBytes + 2 ^ 20 - 1) / 2 ^ 20
def VsRec.clusters (r : VsRec) : List Nat := (r.views.map (·.cluster)).eraseDups

/-- Item 8 of R370. -/
def State.storesFit (s : State) (r : VsRec) : Bool :=
  r.clusters.all fun c => decide (r.coresOf c ≤ 8) && decide (r.coresOf c ≤ ((s.cores.bal[c]?).map (·.gmax)).getD 0)

/-- Read and validate a record: the reason of a rejection (R370, R485). -/
def State.readVs (s : State) (ctx a : Nat) : Except Nat VsRec × State :=
  if a % 256 ≠ 0 then (.error 14, s)
  else match s.readDws ctx a 32 with
  | (.error _, s) => (.error 15, s)
  | (.ok w, s) =>
    let n := fld (w.getD 0 0) 13 8 + 1
    match s.readDws ctx (a + 256) (32 * n) with
    | (.error _, s) => (.error 15, s)
    | (.ok vw, s) =>
      let vws := (List.range n).map fun v => (vw.drop (32 * v)).take 32
      let r := VsRec.of w (vws.map View.of) none
      let ra := fld (w.getD 8 0) 55 0
      if !r.valid w vws || !s.storesFit r then (.error 14, s)
      else if ra = 0 then (.ok r, s)
      else match s.readTemplate ctx ra 0 (1024 * r.cwords + 32) with
        | (none, s) => (.error 14, s)
        | (some t, s) => (.ok { r with recon := some t }, s)

/-! ## Reservations (R391) -/

/-- The floors that a stream's records ask for. -/
def Stream.reserve (t : Stream) : Stream :=
  let rs := (t.cur.toList ++ t.pend.map (·.vs)).filter fun r => !r.stop
  let cls := (rs.flatMap VsRec.clusters).eraseDups
  { t with floors := cls.map fun c => (c, rs.foldl (fun a r => max a (r.coresOf c)) 0) }

/-- Graphics partitions grow to their floors at once, and sheaves that hold scratchpad on the strip stores freeze. -/
def State.reserved (s : State) : State :=
  let s := (List.range 48).foldl (fun s c =>
    if ((s.cores.bal[c]?).map (·.g)).getD 0 < s.floor c then s.setG c (s.floor c) else s) s
  (s.evictOrder (s.sheaves.filter fun h => h.state == .resident && s.mustLeave h)).foldl (fun s h => s.evict h.sid) s

/-! ## Configure (R370) -/

def Stream.new (ctx num : Nat) : Stream :=
  { id := streamId ctx num, num := num, ctx := ctx, cur := none, pend := [], gaze := [], latches := [], frames := [], strips := [],
    warps := [], hist := [], counters := List.replicate 10 0, floors := [], nextF := 0, era := 0, base := 0, started := 0, on := [],
    checks := [] }

/-- First frame that starts at a time or later. -/
def VsRec.firstFrom (r : VsRec) (t : Nat) : Nat := if t ≤ r.epoch then 0 else (t - r.epoch + r.frame - 1) / max r.frame 1

/-- VIEW_STREAM_CONFIGURE: it starts only after the first lock (R437); a valid record waits for its frame. -/
def execViewStreamConfigure (q : Nat) (s : State) : Host.Outcome State Fault Refusal :=
  if !s.io.time.everLocked then .next s
  else .next (s.startHead q (fun t _ => t == 0x06) fun s n ctx b =>
    match s.readVs ctx (b.getD 0 0).toNat with
    | (.error reason, s) => s.reject q n reason
    | (.ok r, s) =>
      let num := match (s.readDw ctx (b.getD 0 0).toNat).1 with | .ok w => fld w 39 32 | .error _ => 0
      let id := streamId ctx num
      let t := (s.stream id).getD (Stream.new ctx num)
      let p : VsPend := ⟨r, r.firstFrom (now s + 100000), q, n⟩
      let s := (s.setKind q n (.config id)).setStream ({ t with pend := t.pend ++ [p] }).reserve
      s.reserved)

/-! ## Gaze (R374, R375) -/

/-- The gaze record of a view: empty at configure. -/
def Stream.gazeOf (t : Stream) (v : Nat) : Gaze := (t.gaze.find? fun g => g.view == v && g.era == t.era).getD Gaze.none

/-- Item of R375 that a packet fails first, as a counter number, or the accepted record. -/
def Stream.accepts (t : Stream) (r : VsRec) (src : BitVec 128) (l : List Byte) (stamp : Word64) : Except Nat Gaze :=
  let w := wordsOf 8 (l ++ List.replicate 32 0)
  let x (k : Nat) : Word32 := w.getD k 0
  let v := (x 1).toNat / 256 % 64
  let g := t.gazeOf v
  let small (a : Word32) : Bool := finite a && flt (fabs a) 0x3FC00000
  let d := x 2 - g.seq
  if (x 1).toNat % 256 != t.num || decide (r.views.length ≤ v) || ((r.views[v]?).map (·.addr)) != some src then .error 0
  else if l.length != 32 || x 0 != 0x02015442 || (x 1).toNat / 2 ^ 14 != 0 || x 5 != 0 || x 7 != 0 || crc32c (l.take 24) != x 6 then
    .error 1
  else if !small (x 3) || !small (x 4) then .error 2
  else if !g.empty && (d == 0 || d.getLsbD 31) then .error 3
  else .ok ⟨t.era, v, x 3, x 4, stamp, x 2, false⟩

/-- A port counts a frame that it drops (R425, R499). -/
def State.dropFrame (s : State) (port : Nat) : State :=
  { s with io := { s.io with ports := s.io.ports.modify port fun p => { p with drops := p.drops + 1, changed := true } } }

/-- An address in network byte order. -/
def addrOf (l : List Byte) : Nat := l.foldl (fun a b => 256 * a + b.toNat) 0

/-- The all-nodes multicast address. -/
def allNodes : BitVec 128 := 0xFF020000000000000000000000000001

/-- A port serves datagrams to its global address, to its link-local one, and to all nodes (R425, R427). -/
def State.serves (s : State) (port : Nat) (dst : BitVec 128) : Bool :=
  match s.io.ports[port]? with
  | some p => dst == allNodes || dst == p.linkLocal || (p.addr != 0 && dst == p.addr)
  | none => false

/-- A frame arrives on a port, as the model's own data: its IPv6 destination address (16 bytes), then what `f` reads; `extra` is what
the frame has beyond that data. A frame above 9,216 bytes is dropped and counted, and so is one to a multicast group that the port does
not support (Table 13.1; PTP's groups carry no UDP or ICMPv6 request of the model's); one to another unicast address is not served. -/
def State.receive (s : State) (port extra : Nat) (data : List Byte) (f : List Byte → State) : State :=
  let dst := BitVec.ofNat 128 (addrOf (data.take 16))
  if !s.hears port then s
  else if 9216 < data.length + extra then s.dropFrame port
  else if s.serves port dst then f (data.drop 16)
  else if dst.extractLsb' 120 8 == 0xFF then s.dropFrame port else s

/-- Running streams that take gaze packets on a UDP port, with their records. -/
def State.onUdp (s : State) (udp : Nat) : List (Stream × VsRec) :=
  s.streams.filterMap fun t => t.cur.bind fun r => if r.udp == udp then some (t, r) else none

/-- A gaze packet from `src` reaches a UDP port: every stream of that port for which it meets R375 takes it; when none does, it is
counted in the first that `BT.STREAM` names, else in the first (log entry 83, DESIGN CHOICE). -/
def State.gaze (s : State) (port udp : Nat) (src : BitVec 128) (l : List Byte) : State :=
  let ts := s.onUdp udp
  let ok := ts.filterMap fun (t, r) => match t.accepts r src l s.io.time.timebase with
    | .ok g => some (t.id, g)
    | .error _ => none
  match ok, ts.find? (fun x => x.1.num == (l.getD 4 0).toNat) <|> ts.head? with
  | [], none => s.dropFrame port
  | [], some (t, r) => match t.accepts r src l s.io.time.timebase with
    | .error k => s.countStream t.id k 1
    | .ok _ => s
  | ok, _ => ok.foldl (fun s (id, g) => s.modStream id fun t => { t with gaze := g :: t.gaze }) s

/-- GAZE_PACKET: a UDP frame: after its destination address its destination port (2 bytes), its source address (16, network order),
and its payload. -/
def execGazePacket (port : Nat) (data : List Byte) (s : State) : Host.Outcome State Fault Refusal :=
  .next (s.receive port 32 data fun l =>
    s.gaze port (ofBytes (l.take 2)) (BitVec.ofNat 128 (addrOf ((l.drop 2).take 16))) (l.drop 18))

/-! ## Frames (R370, R371, R372, R494) -/

/-- Read a draw entry and its templates; none when it is skipped. -/
def State.readDraw (s : State) (ctx i : Nat) (w : List Word64) : Option Draw × State :=
  let x (k : Nat) : Word64 := w.getD k 0
  let n := fld (x 3) 4 0
  if fld (x 0) 63 56 != 0 || fld (x 1) 63 56 != 0 || fld (x 3) 63 5 != 0 || decide (16 < n) then (none, s)
  else match s.readTemplate ctx (x 0).toNat 0 0 with
  | (none, s) => (none, s)
  | (some m, s) =>
    match s.readTemplate ctx (x 1).toNat (8 + n) 0 with
    | (none, s) => (none, s)
    | (some f, s) => (some ⟨i, m, f, x 2, n⟩, s)

/-- The draws of a frame, and how many are skipped (R371; a count above 4,096, log entry 78, or bits of `FT.DRAWS`'s doubleword above it,
log entry 108, skip all: DESIGN CHOICE). -/
def State.readDraws (s : State) (ctx : Nat) (r : VsRec) (f : Nat) : (List Draw × Nat) × State :=
  match s.readDws ctx (r.ftab + 16 * (f % r.nftab)) 2 with
  | (.error _, s) => (([], 1), s)
  | (.ok e, s) =>
    let n := fld (e.getD 0 0) 63 32
    let a := (e.getD 1 0).toNat
    if fld (e.getD 0 0) 31 0 != f % 2 ^ 32 || n = 0 then (([], 0), s)
    else if a % 32 ≠ 0 ∨ 2 ^ 56 ≤ a ∨ 4096 < n then (([], n), s)
    else match s.readDws ctx a (4 * n) with
    | (.error _, s) => (([], n), s)
    | (.ok l, s) =>
      (List.range n).foldl (fun ((ds, k), s) i =>
        match s.readDraw ctx i ((l.drop (4 * i)).take 4) with
        | (some d, s) => ((ds ++ [d], k), s)
        | (none, s) => ((ds, k + 1), s)) (([], 0), s)

/-- Send and clear the counters of a stream when one is nonzero (R494). -/
def State.streamReport (s : State) (id : Nat) : State :=
  match s.stream id with
  | none => s
  | some t =>
    if t.counters.all (· == 0) then s
    else
      let c (k : Nat) : Nat := (t.counters.getD k 0).toNat
      let body := (List.range 5).map fun k => at_ (c (2 * k)) 0 ||| at_ (c (2 * k + 1)) 32
      (s.event ⟨0x0B, t.ctx, 0, 0, t.num, 0, body, []⟩).modStream id fun t => { t with counters := List.replicate 10 0 }

/-- Start frame f under a record. -/
def State.startFrame (s : State) (id : Nat) (r : VsRec) (f : Nat) : State :=
  match s.stream id with
  | none => s
  | some t =>
    let s := s.streamReport id
    let ((ds, k), s) := s.readDraws t.ctx r f
    (s.countStream id 7 k).modStream id fun t =>
      { t with frames := t.frames ++ [⟨f, t.started, t.era, r, none, ds, [], 0, 0, false, 0, 0, 0⟩], nextF := f + 1, started := t.started + 1 }

/-- Dimensions on which the history depends (R370). -/
def VsRec.dims (r : VsRec) : List Nat := [r.views.length, r.nx, r.ny, r.nstrip, r.cwords, r.dx, r.dy]

/-- A record takes effect at its frame (R370): its packet completes; a stop ends the stream, frames already latched run on. -/
def State.takeRecord (s : State) (id : Nat) (p : VsPend) : State :=
  match s.stream id with
  | none => s
  | some t =>
    let keep := match t.cur with | some r => r.dims == p.vs.dims | none => false
    let t1 := { t with
      cur := if p.vs.stop then none else some p.vs
      pend := t.pend.erase p, hist := if keep then t.hist else []
      era := t.era + 1, base := if t.cur.isNone then t.era + 1 else t.base
      frames := if p.vs.stop then t.frames.filter fun x => decide (0 < x.latched) else t.frames
      nextF := p.f0 }
    let s := s.setStream t1.reserve
    let s := if p.vs.stop then s.streamReport id else s.startFrame id p.vs p.f0
    s.completePacket p.q p.n 0

/-- FRAME_START: the frame that starts next, under a record that takes effect there if one does. -/
def execFrameStart (stream : Nat) (s : State) : Host.Outcome State Fault Refusal :=
  match s.stream stream with
  | none => .next s
  | some t =>
    let due := sortBy (fun p : VsPend => p.vs.frameAt p.f0) (t.pend.filter fun p => decide (p.vs.frameAt p.f0 ≤ now s))
    match due.head?, t.cur with
    | some p, some r => .next (if p.vs.frameAt p.f0 ≤ r.frameAt t.nextF then s.takeRecord stream p else s.startFrame stream r t.nextF)
    | some p, none => .next (s.takeRecord stream p)
    | none, some r => .next (if r.frameAt t.nextF ≤ now s then s.startFrame stream r t.nextF else s)
    | none, none => .next s

/-! ## Template warps (R381) -/

/-- A launch of a template for a stream: it sends no record. -/
def State.templateLaunch (s : State) (t : Stream) (x : Template) (n : Nat) : Nat × State :=
  let (lid, s) := s.fresh
  let r := { x.r with prio := min x.r.prio (s.ceiling t.ctx), nsheaf := n }
  let l := { Launch.new lid t.ctx 0 0 s.cmd.nextLid r x.args [] with state := .admitted, view := some t.id }
  (lid, { s with launches := s.launches ++ [l], cmd := { s.cmd with nextLid := s.cmd.nextLid + 1 } })

/-- One warp of a template launch, in a sheaf of its own, Unstarted (R381): `idSheaf` is its `ID_SHEAF`, s0 to s3 are given, and `f`
fills the rest of its start. -/
def State.templateWarp (s : State) (lid : Nat) (kind : WarpKind) (idx : Nat) (idSheaf : Word32) (zone : Nat × Nat)
    (s03 : List Nat) (scr : Bytes) (f : Warp → Warp) : Nat × State :=
  match s.launch lid with
  | none => (0, s)
  | some l =>
    let (sid, s) := s.fresh
    let (vw, s) := s.fresh
    let args := s03.map (BitVec.ofNat 64) ++ l.args
    let w := f (Warp.start vw (l.formedId sid 0 kind idSheaf (idSheaf.setWidth 64)) (l.r.roles.getD 0 ⟨0, 0, 0, 0, 0, 0⟩) args s.now 0)
    (sid, (s.addFormed sid lid idx w (some zone) none false).modSheaf sid fun h => { h with scr := scr })

/-- What a stream keeps of a template's warp. -/
def VWarp.new (sid : Nat) (kind : WarpKind) (key : Nat) : VWarp :=
  { sid := sid, kind := kind, key := key, strip := 0, view := 0, draw := 0, meshlet := 0, tile := 0, samples := [], vtx := [],
    prims := [], ended := 0 }

/-! ## Geometry (R373) -/

/-- Every meshlet of a frame's draws has been launched. -/
def FrameSt.launched (x : FrameSt) : Bool := x.begun.isSome && decide (x.draws.length ≤ x.nd)

/-- A frame's geometry has completed. -/
def Stream.geoDone (t : Stream) (x : FrameSt) : Bool :=
  x.dead || (x.launched && !t.warps.any fun w => w.kind == .mesh && w.key == x.key)

/-- A strip's rasterising has begun in a view. -/
def StripSt.starts (y : StripSt) (v : Nat) : Bool := (y.rast.getD v none).isSome

/-- Every primitive of a strip's frame has been rasterised in it, in every view. -/
def Stream.rastered (t : Stream) (y : StripSt) : Bool :=
  match t.frames.find? (·.key == y.key) with
  | some x => y.rast.all (· == some x.prims.length)
  | none => true

/-- A launch that a stream may still add warps of a draw to. -/
def Stream.open (t : Stream) (lid : Nat) : Bool := t.frames.any (·.lid == lid) || t.strips.any fun y => y.lids.any (·.2.2 == lid)

/-- Die whose view front end serves a record. -/
def VsRec.die (r : VsRec) : Nat := ((r.views.head?).map (·.cluster)).getD 0 / 6

/-- The checkpoint of a unit for a stream (Table 12.7): its position at the primitive boundary that it has reached. The model's steps take one
meshlet, one primitive in one view, and one display tile, so every step ends at such a boundary, and a bin position is that of a view. -/
def Stream.checkpoint (t : Stream) : ViewUnit → Checkpoint
  | .frontEnd => match (t.frames.filter (·.begun.isSome)).getLast? with
    | some x => ⟨.frontEnd, x.f, [((x.draws[x.nd]?).map (·.idx)).getD x.nd, x.nm, x.prims.length, x.amp], []⟩
    | none => ⟨.frontEnd, 0, [0, 0, 0, 0], []⟩
  | .rasteriser => match (t.strips.filter (·.rast.any Option.isSome)).getLast? with
    | some y =>
      let v := (y.rast.zipIdx.filter (·.1.isSome)).foldl (fun _ x => x.2) 0
      ⟨.rasteriser, y.f, [y.s, (y.rast.getD v none).getD 0, v, 0, 0], y.counts⟩
    | none => ⟨.rasteriser, 0, [0, 0, 0, 0, 0], []⟩
  | .backEnd => match (t.strips.filter (·.keysReset)).getLast? with
    | some y => ⟨.backEnd, y.f, [y.s, (t.warps.filter fun w => w.kind == .recon && w.key == y.key && w.strip == y.s).length, y.lens], []⟩
    | none => ⟨.backEnd, 0, [0, 0, 0], []⟩

/-- A unit leaves a stream with a checkpoint. -/
def Stream.leave (t : Stream) (u : ViewUnit) : Stream :=
  if t.on.contains u then
    { t with on := t.on.filter (· != u), checks := t.checkpoint u :: t.checks.filter (·.unit != u) }
  else t

/-- A unit of a record's die turns to a stream (R419): each other stream of the die that it served gets its checkpoint, and the stream
is resumed from its own, which is where its frames and strips stand. -/
def State.serve (s : State) (u : ViewUnit) (t : Stream) (r : VsRec) : State :=
  { s with streams := s.streams.map fun x =>
      if x.id == t.id then { x with on := u :: x.on.filter (· != u), checks := x.checks.filter (·.unit != u) }
      else if x.cur.all fun y => y.die != r.die then x else x.leave u }

/-- Replace a frame's record. -/
def State.modFrame (s : State) (id key : Nat) (g : FrameSt → FrameSt) : State :=
  s.modStream id fun t => { t with frames := updIf (fun y => y.key == key) g t.frames }

/-- The next mesh warp of a frame (R381): its meshlet and draw, in a launch of the draw's own. -/
def State.meshWarp (s : State) (t : Stream) (x : FrameSt) (d : Draw) : State :=
  let (lid, s) := if x.nm = 0 then s.templateLaunch t d.mesh d.mesh.r.nsheaf else (x.lid, s)
  let (sid, s) := s.templateWarp lid .mesh x.nm (BitVec.ofNat 32 x.nm) (144 * x.vs.die, 144) [d.idx, x.f % 2 ^ 64, 0, 0] [] id
  let s := s.modStream t.id fun t => { t with warps := t.warps ++ [{ VWarp.new sid .mesh x.key with draw := d.idx, meshlet := x.nm }] }
  s.modFrame t.id x.key fun y => if x.nm + 1 < d.mesh.r.nsheaf then { y with nm := x.nm + 1, lid := lid } else { y with nd := x.nd + 1, nm := 0, lid := 0 }

/-- The frame that the view front end works on: the first that has meshlets left to launch, once the geometry of every frame before it has
completed. -/
def Stream.nextFrame (t : Stream) : Option FrameSt :=
  match t.frames.find? fun x => !x.dead && !x.launched with
  | none => none
  | some x => if (t.frames.takeWhile fun y => y.key != x.key).all t.geoDone then some x else none

/-- GEOMETRY_START: the geometry of a frame begins, or goes on, with its next meshlet. -/
def execGeometryStart (stream : Nat) (s : State) : Host.Outcome State Fault Refusal :=
  match s.stream stream with
  | none => .next s
  | some t =>
    match t.nextFrame with
    | none => .next s
    | some x =>
      let s := (s.serve .frontEnd t x.vs).modFrame stream x.key fun y => { y with begun := some (x.begun.getD (now s)) }
      .next (match x.draws[x.nd]? with
        | some d => s.meshWarp t x d
        | none => s)

/-! ## Latches (R376, R378) -/

/-- The gaze that a latch of a frame takes: the newest packet accepted since the frame's configuration took effect. -/
def Stream.gazeAt (t : Stream) (era v time : Nat) : Gaze :=
  (t.gaze.find? fun g => g.view == v && decide (era ≤ g.era) && decide (g.stamp.toNat < time)).getD Gaze.none

/-- The latch of a strip in a view; the vertical segments are those of strip 0 of the frame. -/
def Stream.latchOf (t : Stream) (x : FrameSt) (k v : Nat) (w : View) : Latch :=
  let r := x.vs
  let g := t.gazeAt x.era v (r.latchAt x.f k)
  let vseg := match t.latches.find? fun l => l.key == x.key && l.strip == 0 && l.view == v with
    | some l => l.vseg
    | none => segments (fneg w.tt) (fneg w.tb) (fneg (ftan g.el)) r.ecc r.dens r.ny
  ⟨x.key, x.era, k, v, g, segments w.tl w.tr (ftan g.az) r.ecc r.dens r.nx, vseg⟩

/-- A strip at its latch. -/
def StripSt.new (x : FrameSt) (k : Nat) : StripSt :=
  { f := x.f, key := x.key, s := k, vs := x.vs, rast := x.vs.views.map fun _ => none, lids := [], colour := [], cover := [], counts := [],
    keys := [], map := x.vs.views.map fun _ => [], keysReset := false, lensed := false, lens := 0, checked := false, dead := x.dead,
    tiles := [], bad := [] }

/-- The frame whose strip of a number is next to be latched and due: that with the earliest latch time, whatever the others wait for (R373). -/
def Stream.latchFrame (t : Stream) (strip time : Nat) : Option FrameSt :=
  (sortBy (fun x : FrameSt => x.vs.latchAt x.f strip) (t.frames.filter fun x =>
    x.latched == strip && decide (strip < x.vs.nstrip) && decide (x.vs.latchAt x.f strip ≤ time))).head?

/-- STRIP_LATCH, at L(f, s). -/
def execStripLatch (stream strip : Nat) (s : State) : Host.Outcome State Fault Refusal :=
  match s.stream stream with
  | none => .next s
  | some t =>
    match t.latchFrame strip (now s) with
    | none => .next s
    | some x =>
      let new := x.vs.views.zipIdx.map fun (w, v) => t.latchOf x strip v w
      let st := StripSt.new x strip
      let old (l : Latch) : Bool := l.strip == strip && !t.strips.any (fun y => y.key == l.key && y.s == strip)
        && !(l.strip == 0 && t.frames.any fun y => y.key == l.key && decide (y.latched < y.vs.nstrip) && y.key != x.key)
      .next (s.modStream stream fun t => { t with
        latches := new ++ t.latches.filter fun l => !old l
        strips := t.strips ++ [st]
        frames := updIf (fun y => y.key == x.key) (fun y => { y with latched := y.latched + 1 }) t.frames })

end Sys2Proof.Machine
end

