-- ==== Sys2Proof/Machine/Ports.lean ====
section
/-! DEFINITION. The Ethernet ports: congestion, links, drops, and what a port answers by itself (R425, R426, R496, R499). -/

namespace Sys2Proof.Machine

def State.modPort (s : State) (port : Nat) (f : Port → Port) : State :=
  { s with io := { s.io with ports := s.io.ports.modify port f } }

/-! ## Congestion (R426) -/

/-- Line rate and floor of a connection, in Mbit/s. -/
def lineRate : Nat := 1600000
def rateFloor : Nat := 1000

/-- Rate of a connection, by its number. -/
def State.rate (s : State) (q : Nat) : Rate := (s.io.rates.find? (·.q == q)).getD ⟨q, lineRate, 0, none, 0⟩
def State.setRate (s : State) (r : Rate) : State := { s with io := { s.io with rates := upsert (·.q == r.q) r s.io.rates } }

/-- Half the rate, down to the floor. -/
def Rate.halve (r : Rate) : Rate :=
  if r.num ≤ rateFloor * 2 ^ (r.halves + 1) then { r with num := rateFloor, halves := 0 } else { r with halves := r.halves + 1 }

/-- The rate and 1/16 of the line rate, up to the line rate. -/
def Rate.raise (r : Rate) : Rate :=
  let n := r.num + lineRate / 16 * 2 ^ r.halves
  if lineRate * 2 ^ r.halves ≤ n then { r with num := lineRate, halves := 0 } else { r with num := n }

/-- A connection that works: a queue's, or a peer entry's. -/
def State.linked (s : State) (q : Nat) : Bool :=
  if q < 4096 then match s.queue q with | some x => !x.lost | none => false
  else s.cmd.peers.any fun p => connOf p.ctx p.dev == q && !p.lost

/-- A connection that works, on a port whose link is up: something can arrive on it (R28). -/
def State.audible (s : State) (q : Nat) : Bool :=
  if q < 4096 then (s.queue q).any s.reached
  else s.cmd.peers.any fun p => connOf p.ctx p.dev == q && !p.lost && s.hears p.port

/-- CE_MARK_RECEIVED: a notification to the sender, at most one per connection per 50 µs. -/
def execCeMarkReceived (q : Nat) (s : State) : Host.Outcome State Fault Refusal :=
  let r := s.rate q
  let soon := match r.sentAt with | some t => decide (now s < t + 50000) | none => false
  if !s.audible q || soon then .next s
  else .next ((s.setRate { r with sentAt := some (now s) }).send (.cnp q))

/-- CNP_RECEIVED: the rate halves, down to the floor. -/
def execCnpReceived (q : Nat) (s : State) : Host.Outcome State Fault Refusal :=
  let r := s.rate q
  if !s.audible q then .next s else .next (s.setRate { r.halve with lastAt := now s })

/-- RATE_RECOVERY: 55 µs without a notification raise the rate by 1/16 of the line rate. -/
def execRateRecovery (q : Nat) (s : State) : Host.Outcome State Fault Refusal :=
  let r := s.rate q
  if !s.linked q || decide (now s < r.lastAt + 55000) then .next s
  else .next (s.setRate { r.raise with lastAt := now s })

/-! ## Links (R496, R499) -/

/-- Event 0x0D. -/
def State.linkEvent (s : State) (port : Nat) (up : Bool) (drops : Word32) : State :=
  s.event ⟨0x0D, 0, 0, 0, 0, 0, [at_ port 0 ||| at_ (b2n up) 8, at_ drops.toNat 0], []⟩

/-- LINK_DOWN: reported with the drop count, which is cleared. -/
def execLinkDown (port : Nat) (s : State) : Host.Outcome State Fault Refusal :=
  match s.io.ports[port]? with
  | none => .next s
  | some p =>
    if !p.up then .next s
    else .next ((s.modPort port fun p => { p with up := false, downAt := now s, drops := 0, changed := false }).linkEvent port false p.drops)

/-- LINK_UP. -/
def execLinkUp (port : Nat) (s : State) : Host.Outcome State Fault Refusal :=
  match s.io.ports[port]? with
  | none => .next s
  | some p => if p.up then .next s else .next ((s.modPort port fun p => { p with up := true }).linkEvent port true 0)

/-- A queue's connection enters the error state: the queue is unmapped, but for queue 0, whose loss ends management. -/
def State.loseQueue (s : State) (q : Nat) : State :=
  let unm := match s.queue q with | some x => x.unmapping | none => true
  let s := s.modQueue q fun x => { x with lost := true }
  if q = 0 || unm then s else s.unmapStart q

/-- LINK_DOWN_TIMEOUT: a link down for 1 s loses every connection bound to its port. -/
def execLinkDownTimeout (port : Nat) (s : State) : Host.Outcome State Fault Refusal :=
  match s.io.ports[port]? with
  | none => .next s
  | some p =>
    if p.up || decide (now s < p.downAt + 1000000000) then .next s
    else
      let qs := (s.cmd.queues.filter fun x => x.port == port && !x.lost).map (·.q)
      let ps := (s.cmd.peers.zipIdx.filter fun (x, _) => x.port == port).map (·.2)
      .next (ps.foldl State.losePeer (qs.foldl State.loseQueue s))

/-- PORT_DROP_REPORT: once per second, a count that has changed. -/
def execPortDropReport (port : Nat) (s : State) : Host.Outcome State Fault Refusal :=
  match s.io.ports[port]? with
  | none => .next s
  | some p =>
    if !p.changed || decide (now s < p.reported + 1000000000) then .next s
    else .next (((s.modPort port fun p => { p with drops := 0, changed := false, reported := now s }).linkEvent port true p.drops).post
      (.note 3 port))

/-! ## What a port answers by itself (R425) -/

/-- MAC addresses of ports 0 to n − 1: each the first from its seed on that no lower port has, so that they are distinct (R427). -/
def macs : Nat → List (BitVec 48)
  | 0 => []
  | n + 1 =>
    let l := macs n
    let c (k : Nat) : BitVec 48 := Config.macSeed n + BitVec.ofNat 48 k
    l ++ [c (((List.range (n + 1)).find? fun k => !l.contains (c k)).getD 0)]

/-- The MAC address fused into a port. -/
def macOf (port : Nat) : BitVec 48 := (macs (port + 1)).getD port 0

/-- DROPPED_FRAME. -/
def execDroppedFrame (port : Nat) (s : State) : Host.Outcome State Fault Refusal :=
  .next (if s.hears port then s.dropFrame port else s)

/-- PFC_PAUSE: on a port with PFC, for one of its lossless priorities. -/
def execPfcPause (port prio : Nat) (pause : Bool) (s : State) : Host.Outcome State Fault Refusal :=
  let t := s.io.start
  let lossless := t.pfcMask.getLsbD port && (prio == t.pfcA.toNat || (t.pfc2 && prio == t.pfcB.toNat))
  let bit : Byte := BitVec.ofNat 8 (2 ^ prio)
  .next (if s.hears port && lossless then s.modPort port fun p => { p with paused := if pause then p.paused ||| bit else p.paused &&& ~~~bit } else s)

/-- Bytes in network order. -/
def netBytes (n x : Nat) : List Byte := (bytesOf n x).reverse

/-- ICMPV6_ECHO: the request after its destination address: the source address, then identifier, sequence number and data, which the
reply returns to that address. -/
def execIcmpv6Echo (port : Nat) (data : List Byte) (s : State) : Host.Outcome State Fault Refusal :=
  .next (s.receive port 30 data fun l => s.send (.icmp port (0x81 :: l)))

/-- NEIGHBOUR_SOLICITATION: type (135 or 136), target address, sender's address and link-layer address. A solicitation of an
address of the port is answered with its MAC address (R427); either message updates the address resolution. -/
def execNeighbourSolicitation (port : Nat) (data : List Byte) (s : State) : Host.Outcome State Fault Refusal :=
  match s.io.ports[port]? with
  | none => .next s
  | some p =>
    if !p.up then .next s else
    let typ := data.headD 0
    let target := BitVec.ofNat 128 (addrOf ((data.drop 1).take 16))
    let sender := BitVec.ofNat 128 (addrOf ((data.drop 17).take 16))
    let mac := BitVec.ofNat 48 (addrOf ((data.drop 33).take 6))
    let who := if typ = 136 then target else sender
    let learn (s : State) : State :=
      { s with io := { s.io with neigh := upsert (fun x => x.1 == port && x.2.1 == who) (port, who, mac) s.io.neigh } }
    let answer : List Byte := 136 :: netBytes 16 target.toNat ++ netBytes 16 sender.toNat ++ netBytes 6 (macOf port).toNat
    if typ = 136 then .next (learn s)
    else if typ = 135 && ((p.addr != 0 && target == p.addr) || target == p.linkLocal) then .next ((learn s).send (.icmp port answer))
    else .next s

end Sys2Proof.Machine
end

