-- ==== Sys2Proof/Machine/Clock.lean ====
section
/-! DEFINITION. The package timebase (R21, R436, R437, R498). -/

namespace Sys2Proof.Machine

/-- Nanoseconds of the package's oscillator pass: at half rate while a backward correction is taken up, else at the corrected
rate. -/
def Time.advance (t : Time) (ns : Nat) : Time :=
  let slow := min ns t.half
  let total := t.frac + slow * 500000 + (ns - slow) * (1000000 + t.rate).toNat
  { t with timebase := t.timebase + BitVec.ofNat 64 (total / 1000000), frac := total % 1000000, half := t.half - slow }

/-- ACLK runs at 940 MHz, whatever the power controller does (R20): cycles in nanoseconds, with the thousandths of a cycle that
are left over. -/
def Cores.advance (c : Cores) (ns : Nat) : Cores :=
  let total := c.cfrac + 940 * ns
  { c with clock := c.clock.map (· + BitVec.ofNat 64 (total / 1000)), cfrac := total % 1000 }

/-- Nanoseconds of the oscillator pass: `CLOCK` and `TIMEBASE` advance (R21). -/
def State.elapse (s : State) (ns : Nat) : State :=
  { s with cores := s.cores.advance ns, io := { s.io with time := s.io.time.advance ns } }

/-- The port that PTP runs on: the first of the CONFIG order whose link is up (R436). -/
def State.ptpPort (s : State) : Option Nat :=
  s.io.start.clkord.find? fun k => match s.io.ports[k]? with | some p => p.up | none => false

/-- Counts of exchanges in a row, after one with offset `o` in ns. -/
def Time.count (t : Time) (o : Int) : Time :=
  { t with good := if o.natAbs < 100 then t.good + 1 else 0, bad := if 1000 < o.natAbs then t.bad + 1 else 0, offset := o }

/-- The correction for an offset, the timebase less the master's time: before the first lock a step forward, or half rate until the
offset is taken up; afterwards a rate within ±200 ppm, a free choice. -/
def State.correct (s : State) (o : Int) : State :=
  let set (t : Time) : State := { s with io := { s.io with time := t } }
  let t := s.io.time
  if t.everLocked then
    let (x, s) := s.drawWord
    { s with io := { s.io with time := { t with rate := (x.toNat % 401 : Nat) - 200 } } }
  else if o < 0 then set { t with timebase := t.timebase + BitVec.ofNat 64 o.natAbs, half := 0 }
  else set { t with half := 2 * o.natAbs }

/-- Event 0x0E. -/
def State.lockEvent (s : State) (gained : Bool) : State :=
  s.event ⟨0x0E, 0, 0, 0, 0, 0, [at_ (b2n gained) 0, BitVec.ofInt 64 s.io.time.offset], []⟩

/-- PTP_SYNC: one two-step delay request-response exchange with the master of CONFIG's domain (R436): the device's own message in it is
the Delay_Req, stamped with the timebase at its first byte; what the master's Sync, Follow_Up and Delay_Resp say is in the offset that the
exchange gives (log entry 23). Eight in a row below 100 ns declare lock. -/
def execPtpSync (offset : Int) (s : State) : Host.Outcome State Fault Refusal :=
  if !s.io.start.configured then .next s
  else match s.ptpPort with
  | none => .next s
  | some port =>
    let s := s.send (.delayReq port s.io.start.domain s.io.time.timebase)
    let s := s.correct offset
    let t := s.io.time.count offset
    let t := { t with lastSync := t.timebase.toNat }
    if !t.locked && decide (8 ≤ t.good) then
      -- after lock the timebase is corrected by rate alone (R21)
      .next (State.lockEvent { s with io := { s.io with
        time := { t with locked := true, everLocked := true, bad := 0, half := 0 } } } true)
    else .next { s with io := { s.io with time := t } }

/-- PTP_LOCK_LOSS: no exchange for 4 s, or eight in a row above 1 µs; the timebase runs on at its last rate. -/
def execPtpLockLoss (s : State) : Host.Outcome State Fault Refusal :=
  let t := s.io.time
  if t.locked && (decide (t.lastSync + 4000000000 ≤ t.timebase.toNat) || decide (8 ≤ t.bad)) then
    .next (State.lockEvent { s with io := { s.io with time := { t with locked := false, good := 0, bad := 0 } } } false)
  else .next s

end Sys2Proof.Machine
end

