-- ==== Sys2Proof/Machine/Boot.lean ====
section
/-! DEFINITION. Bootstrap datagrams, announce, and the start sequences (R428 to R430, R434, R438 to R440). -/

namespace Sys2Proof.Machine

/-! ## Datagrams (R428, R430, Tables 13.2a and 13.2b) -/

/-- An unsigned field of n bytes at an offset. -/
def field (l : List Byte) (o n : Nat) : Nat := ofBytes ((l.drop o).take n)

/-- A datagram with correct common words, under the operator's signature, for this start, and newer than any accepted before. -/
def State.bootOk (s : State) (l : List Byte) (kind : Nat) : Bool :=
  let t := s.io.start
  let n := l.length
  let key := (l.drop 0x38).take 64
  let newer := match t.seqMax with | some m => decide (m < field l 0x10 8) | none => true
  t.powered && decide (0x78 + 64 ≤ n) && field l 0 2 == 0x4253 && field l 2 1 == 1 && field l 3 1 == kind && field l 4 4 == n
    && field l 8 8 == Config.serial.toNat && field l 0x18 32 == (Config.startNonce t.starts).toNat && newer
    && Config.sha256 key == Config.operatorKeyHash
    && Config.ecdsaVerify (BitVec.ofNat 512 (ofBytes key)) (Config.sha256 (l.take (n - 64))) (BitVec.ofNat 512 (field l (n - 64) 64))

/-- The body of a datagram. -/
def bootBody (l : List Byte) : List Byte := (l.drop 0x78).take (l.length - 0x78 - 64)

/-- Take an accepted datagram's sequence number. -/
def State.accept (s : State) (l : List Byte) (f : Start → Start) : State :=
  { s with io := { s.io with start := f { s.io.start with seqMax := some (field l 0x10 8) } } }

/-! ## CONFIG (R428 to R430) -/

/-- Port numbers of `BC.CLKORD`; none when an entry before the end is no port. -/
def clkOrder (l : List Byte) : Option (List Nat) :=
  let o := (l.takeWhile (· != 0xFF)).map (·.toNat)
  if o.all fun x => decide (x < 16) then some o else none

/-- The body of CONFIG keeps to Table 13.2b and R337. -/
def State.configOk (s : State) (b : List Byte) : Bool :=
  let x (o : Nat) : Word64 := BitVec.ofNat 64 (field b o 8)
  let zero (o : Nat) (m : Word64) : Bool := x o &&& ~~~m == 0
  let k := fld (x 0x130) 28 24
  let logS := fld (x 0x130) 36 32
  b.length == 0x150 && zero 0 0xFFFFFFF && zero 8 0x177FFFF && zero 0x130 0x1F1FFFFFFF && zero 0x138 0xFFFFFFFFFFFFF
    && zero 0x148 0xFFFFFFFF && (clkOrder ((b.drop 0x10).take 16)).isSome && decide (4 ≤ logS ∧ logS ≤ 16)
    && !s.ringBad k (x 0x138).toNat

/-- What an accepted CONFIG sets, received on a port. -/
def State.configure (s : State) (port : Nat) (b : List Byte) : State :=
  let x (o : Nat) : Word64 := BitVec.ofNat 64 (field b o 8)
  let q0 : Queue :=
    { q := 0, ctx := 0, k := fld (x 0x130) 28 24, ring := (x 0x138).toNat, cring := x 0x140, rkey := (x 0x148).setWidth 32,
      logS := fld (x 0x130) 36 32, qp := fld (x 0x130) 23 0, port := port, h := 0, t := 0, recNo := 0, running := [],
      unmapping := false, lock := none, lost := false, dqp := 1 }
  let t : Start := { s.io.start with
    configured := true
    device := (x 0).extractLsb' 0 20
    domain := (x 0).extractLsb' 20 8
    pfcMask := (x 8).extractLsb' 0 16
    pfcA := (x 8).extractLsb' 16 3
    pfcB := (x 8).extractLsb' 20 3
    pfc2 := (x 8).getLsbD 24
    clkord := (clkOrder ((b.drop 0x10).take 16)).getD []
    host := BitVec.ofNat 128 (addrOf ((b.drop 0x120).take 16)) }
  let ports := s.io.ports.zipIdx.map fun (p, n) => { p with addr := BitVec.ofNat 128 (addrOf ((b.drop (0x20 + 16 * n)).take 16)) }
  State.flushEvents { s with io := { s.io with start := t, ports := ports, rates := s.io.rates.filter (·.q != 0) }, cmd := { s.cmd with queues := q0 :: s.cmd.queues } }

/-- A bootstrap datagram on a port (UDP port 27,712): after its destination address, its payload. -/
def State.bootFrom (s : State) (port : Nat) (data : List Byte) (f : List Byte → State) : State := s.receive port 50 data f

/-- CONFIG: accepted once per start. -/
def execConfig (port : Nat) (data : List Byte) (s : State) : Host.Outcome State Fault Refusal :=
  .next (s.bootFrom port data fun l =>
    let b := bootBody l
    if s.io.start.configured || !s.bootOk l 1 || !s.configOk b then s else (s.accept l id).configure port b)

/-! ## Firmware (R430, R434) -/

/-- FWCHUNK. -/
def execFwchunk (port : Nat) (data : List Byte) (s : State) : Host.Outcome State Fault Refusal :=
  .next (s.bootFrom port data fun l =>
    let b := bootBody l
    let off := field b 0 4
    let n := field b 4 4
    let pad := (n + 7) / 8 * 8
    let ok := b.length == 8 + pad && decide (1 ≤ n ∧ n ≤ 8192) && off % 64 == 0 && (b.drop (8 + n)).all (· == 0)
    if !s.bootOk l 2 || !ok then s
    else s.accept l fun t => { t with staged := t.staged.putN off ((b.drop 8).take n) })

/-- FWCOMMIT: a staged image that passes its checks is the one used at the next start. -/
def execFwcommit (port : Nat) (data : List Byte) (s : State) : Host.Outcome State Fault Refusal :=
  .next (s.bootFrom port data fun l =>
    let b := bootBody l
    if !s.bootOk l 3 || b.length != 8 || field b 4 4 != 0 then s
    else s.accept l fun t =>
      let img := t.staged.getN 0 (field b 0 4)
      match imageVersion img with
      | some v => { t with next := some (v, img) }
      | none => t)

/-- The image that the next start would use passes the checks of R434. -/
def Start.mayRun (t : Start) : Bool := imagePasses t.next

/-! ## Announce (R428, R430) -/

/-- The announce of a port, signed by the identity key. -/
def State.announceData (s : State) (port : Nat) : List Byte :=
  let t := s.io.start
  let dev := if t.configured then t.device.toNat else 0
  let body := bytesOf 8 (t.version % 2 ^ 32 + dev * 2 ^ 32 + b2n t.configured * 2 ^ 52)
    ++ bytesOf 8 (port + b2n s.io.time.locked * 2 ^ 8) ++ bytesOf 64 Config.identityKey.toNat
  let head := bytesOf 4 0x00014253 ++ bytesOf 4 (0x78 + body.length + 64) ++ bytesOf 8 Config.serial.toNat
    ++ bytesOf 8 t.announces ++ bytesOf 32 (Config.startNonce t.starts).toNat ++ bytesOf 64 (Config.exchangeKey t.starts).toNat
  let all := head ++ body
  all ++ bytesOf 64 (Config.identitySign (Config.sha256 all)).toNat

/-- A port whose link is up sends an announce. -/
def State.announceOn (s : State) (port : Nat) : State :=
  let s := s.send (.datagram port (s.announceData port))
  { s with io := { s.io with start := { s.io.start with announces := s.io.start.announces + 1 } } }

/-- Ports whose link is up. -/
def State.upPorts (s : State) : List Nat := (s.io.ports.zipIdx.filter (·.1.up)).map (·.2)

/-- ANNOUNCE: once per millisecond, from each port whose link is up. -/
def execAnnounce (s : State) : Host.Outcome State Fault Refusal :=
  let soon := match s.io.start.announced with | some t => decide (now s < t + 1000000) | none => false
  if soon then .next s
  else
    let s := s.upPorts.foldl State.announceOn s
    .next { s with io := { s.io with start := { s.io.start with announced := some (now s) } } }

/-! ## Starts (R26, R434, R438 to R440, Table 13.6) -/

/-- Device memory keeps its bits, under the keys they stand with; all else of memory goes, and no slot holds a key (R440). -/
def Mem.restart (m : Mem) : Mem := { Mem.reset with dram := m.dram, skeys := m.skeys, psn := m.psn, badck := m.badck, owner := m.owner }

/-! ## Lane repair (R517, R518) -/

/-- The failed physical lanes of a pipe that its repair knows of (Table 19.5); lane 32 is the spare. -/
def pipeFailed (m : BitVec 7) : BitVec 33 :=
  (if m.getLsbD 5 then BitVec.ofNat 33 (2 ^ (m.toNat % 32)) else 0) ||| (if m.getLsbD 6 then BitVec.ofNat 33 (2 ^ 32) else 0)

/-- The repair of a pipe with these failed lanes; none when it has two, or one and a failed spare (R518). -/
def pipeRepair (F : BitVec 33) : Option (BitVec 7) :=
  match (List.range 32).filter F.getLsbD with
  | [] => some (if F.getLsbD 32 then 0x40 else 0)
  | [i] => if F.getLsbD 32 then none else some (BitVec.ofNat 7 (32 + i))
  | _ => none

/-- The lane repair of a core in which a test finds the lanes `F` failing, over what it knew of; and whether a pipe of it cannot be repaired, and
keeps the repair that it had (log entry 31). -/
def laneRepair (old : Word64) (F : BitVec 132) : Word64 × Bool :=
  (List.range 4).foldl (fun (m, dead) k =>
    let o := old.extractLsb' (16 * k) 7
    match pipeRepair (pipeFailed o ||| F.extractLsb' (33 * k) 33) with
    | some x => (m ||| at_ x.toNat (16 * k), dead)
    | none => (m ||| at_ o.toNat (16 * k), true)) (0, false)

/-- What the self test of a start finds, in the layout of Table 19.5. -/
def tested (n : Nat) : List (Nat × Word64) × List Nat :=
  let l := (List.range 1152).map fun c => let x := Config.selfTest n c; (c, laneRepair 0 x.1, x.2)
  ((l.map fun (c, x, _) => (c, x.1)).filter (·.2 != 0), (l.filter fun (_, x, bad) => x.2 || bad).map (·.1))

/-- Everything that a start discards (R440), with the units as they leave reset. -/
def State.discardAll (s : State) : State :=
  { s with
    warps := [], sheaves := [], launches := [], streams := [], focus := none
    mem := s.mem.restart
    cmd := Cmd.reset
    io := { s.io with rates := [], neigh := [], time := Time.reset } }

/-- A start, up to step 8 of Table 13.6. A cold one trains memory, every link and tests every core; a warm one keeps links and
`LANEMAP`. The image used is the one committed last; the nonce and exchange key are those of a new start. -/
def State.restart (s : State) (cold : Bool) : State :=
  let t := s.io.start
  let s := s.discardAll
  let (maps, out) := if cold then tested (t.starts + 1) else (s.cores.maps, s.cores.out)
  let ports := s.io.ports.zipIdx.map fun (p, k) => { Port.reset k with up := !cold && p.up, downAt := p.downAt }
  { s with
    cores := { Cores.reset with maps := maps, out := out }
    io := { s.io with
      ports := ports
      start := { Start.reset with running := t.mayRun, starts := t.starts + 1, next := t.next, image := t.next } } }

/-- The kind bit of a RESET that is accepted. -/
def State.resetKind (s : State) (data : List Byte) : Option Bool :=
  let b := bootBody data
  if !s.bootOk data 4 || b.length != 8 || decide (2 ≤ field b 0 8) then none else some (field b 0 8 == 1)

/-- RESET_WARM. Whether memory trains again changes only time. -/
def execResetWarm (port : Nat) (data : List Byte) (s : State) : Host.Outcome State Fault Refusal :=
  .next (s.bootFrom port data fun l => if s.resetKind l = some false then s.restart false else s)

/-- RESET_COLD. -/
def execResetCold (port : Nat) (data : List Byte) (s : State) : Host.Outcome State Fault Refusal :=
  .next (s.bootFrom port data fun l => if s.resetKind l = some true then s.restart true else s)

/-- POWER_LOSS: the package stops. -/
def execPowerLoss (s : State) : Host.Outcome State Fault Refusal :=
  let s := s.discardAll
  .next { s with cores := Cores.reset
                 io := { s.io with ports := s.io.ports.zipIdx.map fun (_, k) => Port.reset k,
                                   start := { Start.reset with powered := false, starts := s.io.start.starts,
                                                               next := s.io.start.next } } }

/-- POWER_GOOD: power comes back, and a cold start runs. -/
def execPowerGood (s : State) : Host.Outcome State Fault Refusal :=
  .next (if s.io.start.powered then s else s.restart true)

/-- A package without power answers nothing but power (spec/13: there is no standby domain); one whose image may not run (R434), power
alone. -/
def State.answers (s : State) (i : Instr) : Bool :=
  match i with
  | .powerGood => true
  | .powerLoss => s.io.start.powered
  | _ => s.io.start.powered && s.io.start.running

end Sys2Proof.Machine
end

