-- ==== Sys2Proof/Machine/Emit.lean ====
section
/-! DEFINITION. Graphics emission, 0xDA to 0xDE (R334, R335, R382, R383, R389): MSVTX, MSPRIM, MSEND, FSOUT and GZREAD. The four
emissions are captured at the core's port and performed as they issue, each with its chaff record (R401, R405). -/

namespace Sys2Proof.Machine

/-- The stream of a template's warp. -/
def State.ownStream (s : State) (w : Warp) : Option Stream := s.streams.find? fun t => t.warps.any (·.sid == w.ident.sid)

/-- Change what a stream keeps of a warp's work. -/
def State.modVWarp (s : State) (w : Warp) (f : VWarp → VWarp) : State :=
  { s with streams := s.streams.map fun t => { t with warps := updIf (·.sid == w.ident.sid) f t.warps } }

/-- Issue an emission: fault 0x01 in a warp of another kind, 0x02 where `bad` finds a reserved operand value. -/
def State.emit (s : State) (i : Instr) (g : Guard) (src : List Src) (k : WarpKind) (bad : Warp → Mask → Bool)
    (f : State → Warp → Mask → State) : Host.Outcome State Fault Refusal :=
  s.issue i g src fun s w P =>
    if w.ident.kind != k then .trap 0x01
    else if bad w P then .trap 0x02
    else if w.huskFull then .hold s
    else .go (if P = 0 then f s w P else (f s w P).chaffed w (HkEntry.new w i .D P) 5 P 0 .graphics []) w.tick false

/-- Some lane of P holds more than `n` bits. -/
def Warp.above (w : Warp) (a : R8) (n : Nat) (P : Mask) : Bool := (lanesOf P).any fun i => decide (2 ^ n ≤ (w.ln a i).toNat)

/-- MSVTX. -/
def execMsvtx (g : Guard) (n : BitVec 5) (a b c : R8) (s : State) : Host.Outcome State Fault Refusal :=
  s.emit (.msvtx g n a b c) g [⟨a, 1, tRaw⟩, ⟨b, 4, tF32⟩, ⟨c, n.toNat, tF32⟩] .mesh (fun w P => w.above a 8 P) fun s w P =>
    let words (r : R8) (k i : Nat) : List Word32 := (List.range k).map fun j => Lanes.get (w.lanes (r.toNat + j)) i
    s.modVWarp w fun x => (lanesOf P).foldl (fun x i =>
      let v : Vtx := ⟨(w.ln a i).toNat, words b 4 i, words c n.toNat i⟩
      { x with vtx := upsert (·.idx == v.idx) v x.vtx }) x

/-- MSPRIM. -/
def execMsprim (g : Guard) (a b c : R8) (s : State) : Host.Outcome State Fault Refusal :=
  s.emit (.msprim g a b c) g [⟨a, 1, tRaw⟩, ⟨b, 1, tRaw⟩, ⟨c, 2, tRaw⟩] .mesh (fun w P => w.above a 8 P) fun s w P =>
    s.modVWarp w fun x => (lanesOf P).foldl (fun x i =>
      let k := (w.ln a i).toNat
      { x with prims := upsert (·.1 == k) (k, w.ln b i, w.ln64 c i) x.prims }) x

/-- A primitive of a meshlet with its vertices; none when it is dropped. -/
def VWarp.prim (x : VWarp) (d : Draw) (nv k : Nat) (b : Word32) (m : Word64) : Option Prim :=
  let ix : List Nat := [b.toNat % 256, b.toNat / 256 % 256, b.toNat / 65536 % 256]
  let vs := ix.filterMap fun i => if i < nv then x.vtx.find? (·.idx == i) else none
  if vs.length = 3 then some ⟨x.draw, x.meshlet, x.ended, k, vs, m &&& d.vmask⟩ else none

/-- Amplification: the views of a primitive that still find room, the number of amplified primitives, and the views dropped (R383). -/
def amplify (views amp : Nat) (m : Word64) : Word64 × Nat × Nat :=
  (List.range views).foldl (fun (k, n, d) v =>
    if !m.getLsbD v then (k, n, d)
    else if n < 65536 then (k ||| at_ 1 v, n + 1, d) else (k, n, d + 1)) ((0 : Word64), amp, 0)

/-- Hand over the primitives 0 to n − 1 of a warp's meshlet to its frame: the frame, and the number dropped. -/
def FrameSt.take (x : FrameSt) (w : VWarp) (nv n : Nat) : FrameSt × Nat :=
  match x.draws.find? (·.idx == w.draw) with
  | none => (x, 0)
  | some d =>
    (List.range n).foldl (fun (x, k) i =>
      match w.prims.find? (·.1 == i) with
      | none => (x, k)
      | some (_, b, m) =>
        match w.prim d nv i b m with
        | none => (x, k + 1)
        | some p =>
          let (m, amp, lost) := amplify x.vs.views.length x.amp p.vmask
          ({ x with prims := x.prims ++ [{ p with vmask := m }], amp := amp }, k + lost)) (x, 0)

/-- MSEND at the rasteriser: the meshlet goes over, and a fresh one is open. -/
def State.msendRun (s : State) (w : Warp) (nv n : Nat) : State :=
  match s.ownStream w with
  | none => s
  | some t => match t.warps.find? (·.sid == w.ident.sid) with
    | none => s
    | some x =>
      let s := match t.frames.find? (·.key == x.key) with
        | none => s
        | some y =>
          let (y1, lost) := y.take x nv n
          (s.modStream t.id fun t => { t with frames := updIf (·.key == x.key) (fun _ => y1) t.frames }).countStream t.id 6 lost
      s.modVWarp w fun x => { x with vtx := [], prims := [], ended := x.ended + 1 }

/-- MSEND. -/
def execMsend (g : Guard) (a b : R8) (s : State) : Host.Outcome State Fault Refusal :=
  s.emit (.msend g a b) g [] .mesh (fun w P => P != 0 && decide (256 < (w.sc a).toNat ∨ 256 < (w.sc b).toNat)) fun s w _ =>
    s.msendRun w (w.sc a).toNat (w.sc b).toNat

/-- Type of FSOUT's colour words. -/
def fsTy : FsTy → Ty
  | .f32 => .f32
  | .h2 => .h2
  | .e4 => .e4

/-- Number of a sample within its tile (R391). -/
def inTile (x y : Nat) : Nat := 16 * (y % 16) + x % 16

/-- Write one colour word of a tile. -/
def StripSt.put (y : StripSt) (view tile k : Nat) (v : Word32) : StripSt :=
  { y with colour := upsert (fun c => c.1 == view && c.2.1 == tile && c.2.2.1 == k) (view, tile, k, v) y.colour }

/-- Colour words of a fragment warp's lanes go to their samples; words beyond the format are dropped (R389). -/
def StripSt.shade (y : StripSt) (x : VWarp) (P : Mask) (n : Nat) (f : Nat → Nat → Word32) : StripSt :=
  let W := y.vs.cwords
  (lanesOf P).foldl (fun y i =>
    let (sx, sy) := x.samples.getD i (0, 0)
    (List.range (min n W)).foldl (fun (y : StripSt) j => y.put x.view x.tile (W * inTile sx sy + j) (f i j)) y) y

/-- FSOUT at the strip store. -/
def State.fsoutRun (s : State) (w : Warp) (P : Mask) (a : R8) (n : Nat) : State :=
  match s.ownStream w with
  | none => s
  | some t => match t.warps.find? (·.sid == w.ident.sid) with
    | none => s
    | some x =>
      let f (i j : Nat) : Word32 := Lanes.get (w.lanes (a.toNat + j)) i
      s.modStream t.id fun t =>
        { t with strips := updIf (fun y => y.key == x.key && y.s == x.strip) (·.shade x P n f) t.strips }

/-- FSOUT. -/
def execFsout (g : Guard) (t : FsTy) (n : BitVec 2) (a : R8) (s : State) : Host.Outcome State Fault Refusal :=
  s.emit (.fsout g t n a) g [⟨a, n.toNat + 1, [0, (tyTag (fsTy t)).toNat]⟩] .fragment (fun _ _ => false) fun s w P =>
    s.fsoutRun w P a (n.toNat + 1)

/-- GZREAD. -/
def execGzread (g : Guard) (la : BitVec 4) (d a : R8) (s : State) : Host.Outcome State Fault Refusal :=
  s.huskOp (.gzread g la d a) g [] .I fun w _ e => { e.returns 8 with scal := [w.sc a] }

/-- The stream that a GZREAD names. -/
def State.gazeStream (s : State) (w : Warp) (x : Word64) : Option Stream :=
  if x.getLsbD 16 then s.streams.find? fun t => t.ctx == w.ident.ctx && t.cur.isSome && t.num == fld x 15 8
  else s.ownStream w

/-- The words that a GZREAD returns. -/
def State.gazeWords (s : State) (w : Warp) (x : Word64) : List Word32 :=
  let v := fld x 5 0
  match s.gazeStream w x with
  | none => List.replicate 8 0
  | some t => match t.cur with
    | none => List.replicate 8 0
    | some r =>
      if r.views.length ≤ v then List.replicate 8 0
      else let g := t.gazeOf v; [g.az, g.el, g.seq, g.stamp.extractLsb' 0 32, g.stamp.extractLsb' 32 32, 0, 0, 0]

/-- GZREAD reads the gaze record as it stands. -/
def State.gzRun (s : State) (w : Warp) (e : HkEntry) : State :=
  let l := s.gazeWords w (e.scal.headD 0)
  (s.modWarp w.vw (·.modEntry e.seq fun y => { y with data := l.map Lanes.all })).performed w.vw e false

end Sys2Proof.Machine
end

