-- ==== Sys2Proof/Machine/Lane.lean ====
section
/-! DEFINITION. Lane-crossing and predicate instructions, 0x90 to 0x9F (R247 to R255). -/

namespace Sys2Proof.Machine

/-- Lanes that contribute nothing: in E, not performing (R247). -/
def silent (E P : Mask) : Mask := E &&& ~~~P

/-- Issue a lane-crossing instruction: `f` gets the executing set E and P. -/
def State.cross (s : State) (i : Instr) (g : Guard) (src : List Src) (f : Warp → Mask → Mask → Warp) :
    Host.Outcome State Fault Refusal :=
  match s.issuer with
  | none => .fault .noIssuingWarp
  | some w0 => s.issue i g src fun s w P => .go s (f w w0.exec P) false

/-- A predicate written in full. -/
def Warp.pfull (w : Warp) (n : Nat) (x : Mask) : Warp := w.pset n (BitVec.allOnes 32) x

/-- VBALLOT (R248). Of two results in one predicate, that of pq stands (log entry 94). -/
def execVballot (g : Guard) (d a : R8) (bit : BitVec 5) (q : BitVec 4) (s : State) : Host.Outcome State Fault Refusal :=
  s.cross (.vballot g d a bit q) g [⟨a, 1, tRaw⟩] fun w E P =>
    (w.pfull d.toNat (maskOf fun j => has P j && (w.ln a j).getLsbD bit.toNat)).pfull q.toNat E

/-- The conditions of VVOTE (R249): `t` the members that are true, `pm` the members. -/
def voteHolds (md : VoteMd) (pm t : Mask) : Bool :=
  match md with
  | .all => t == pm
  | .any => t != 0
  | .eq => t == pm || t == 0

/-- VVOTE (R249). Of two results in one predicate, that of pq stands (log entry 94). -/
def execVvote (g : Guard) (md : VoteMd) (d pm ps : R8) (q : BitVec 4) (s : State) : Host.Outcome State Fault Refusal :=
  s.cross (.vvote g md d pm ps q) g [] fun w E P =>
    let m := w.pr pm
    let r : Mask := if voteHolds md m (m &&& P &&& w.pr ps) then BitVec.allOnes 32 else 0
    (w.pfull d.toNat r).pfull q.toNat (m &&& E)

/-- Source lane of VSHFL (Table 7.10). -/
def shflLane (md : ShflMd) (i n : Nat) : Nat :=
  match md with
  | .idx => n
  | .xor => i ^^^ n
  | .up => if i < n then i else i - n
  | .dn => if 31 < i + n then i else i + n

/-- VSHFL (R250). -/
def execVshfl (g : Guard) (md : ShflMd) (d a b : R8) (q : BitVec 4) (s : State) : Host.Outcome State Fault Refusal :=
  s.cross (.vshfl g md d a b q) g [⟨a, 1, tAny⟩, ⟨b, 1, tRaw⟩] fun w E P =>
    let j (i : Nat) := shflLane md i ((w.ln b i).toNat % 32)
    (w.putV d P (w.tag a.toNat) fun i => w.ln a (j i)).pfull q.toNat (maskOf fun i => has P i && has E (j i))

/-- The lanes of P that name lane t in VSHFLP (R251). -/
def pushers (w : Warp) (b : R8) (P : Mask) (t : Nat) : List Nat :=
  (lanesOf P).filter fun x => (w.ln b x).toNat % 32 == t

/-- VSHFLP (R251): a higher source wins. -/
def execVshflp (g : Guard) (d a b : R8) (pc : BitVec 4) (s : State) : Host.Outcome State Fault Refusal :=
  s.cross (.vshflp g d a b pc) g [⟨a, 1, tAny⟩, ⟨b, 1, tRaw⟩] fun w _ P =>
    let hit := maskOf fun t => !(pushers w b P t).isEmpty
    (w.vset d.toNat hit (Lanes.of fun t => w.ln a ((pushers w b P t).getLastD 0)) (w.tag a.toNat)).pfull pc.toNat
      (maskOf fun t => decide (2 ≤ (pushers w b P t).length))

/-- VBCAST (R252); the lanes that execute are those of the warp before it advances. A lane L that executes but is guarded off contributes nothing (R247), and the manual states no value instead: it is free
(log entry 91). -/
def execVbcast (g : Guard) (d : R8) (src : BcSrc) (s : State) : Host.Outcome State Fault Refusal :=
  match src with
  | .lane a l => s.issue (.vbcast g d src) g [⟨a, 1, tAny⟩] fun s w P =>
      if ((s.warp w.vw).map fun x => has (x.exec &&& ~~~P) l.toNat).getD false then
        let (x, s) := s.drawWord
        .go s (w.putV d P (w.tag a.toNat) fun _ => x.setWidth 32) false
      else .go s (w.putV d P (w.tag a.toNat) fun _ => w.ln a l.toNat) false
  | .scal a => s.vop (.vbcast g d src) g [] d 0 fun w _ => (w.sc a).setWidth 32

/-- Identity, tags and result tag of a reduction (Table 7.11). -/
def redIdent : RedOp → Word32
  | .addI | .addU => 0
  | .addF => 0x80000000
  | .minI => 0x7FFFFFFF
  | .minU => 0xFFFFFFFF
  | .minF => 0x7F800000
  | .maxI => 0x80000000
  | .maxU => 0
  | .maxF => 0xFF800000
  | .and => 0xFFFFFFFF
  | .or | .xor => 0
def redTags : RedOp → List Nat
  | .addI | .addU | .minI | .minU | .maxI | .maxU => tInt
  | .addF | .minF | .maxF => tF32
  | .and | .or | .xor => tRaw
def redTag : RedOp → Tag
  | .addI | .minI | .maxI => 1
  | .addU | .minU | .maxU => 2
  | .addF | .minF | .maxF => 3
  | .and | .or | .xor => 0

/-- One combining step of a reduction (Table 7.11, R98). -/
def redStep (op : RedOp) (rm : RM) (a b : Word32) : Word32 × FlagSet :=
  match op with
  | .addI | .addU => (a + b, 0)
  | .minI => (if a.sle b then a else b, 0)
  | .minU => (if a.ule b then a else b, 0)
  | .maxI => (if b.sle a then a else b, 0)
  | .maxU => (if b.ule a then a else b, 0)
  | .and => (a &&& b, 0)
  | .or => (a ||| b, 0)
  | .xor => (a ^^^ b, 0)
  | .addF => fLane .f32 rm addOp [a, b]
  | .minF => fLane .f32 rm minOp [a, b]
  | .maxF => fLane .f32 rm maxOp [a, b]

/-- Contributions of the 32 lanes (R253). -/
def redIn (w : Warp) (op : RedOp) (a : R8) (pm E P : Mask) : List Word32 :=
  (List.range 32).map fun j => if has pm j && !has (silent E P) j then w.ln a j else redIdent op

/-- One level of the tree. -/
def treeLevel (f : Word32 → Word32 → Word32 × FlagSet) : List Word32 → List Word32 × FlagSet
  | a :: b :: r =>
    let (x, fl) := f a b
    let (l, fs) := treeLevel f r
    (x :: l, fl ||| fs)
  | l => (l, 0)

/-- The pairwise tree of R98. -/
def treeOf (f : Word32 → Word32 → Word32 × FlagSet) (l : List Word32) : Word32 × FlagSet :=
  let r := (List.range 5).foldl (fun a _ =>
    let (l, fl) := treeLevel f a.1
    (l, a.2 ||| fl)) (l, (0 : FlagSet))
  (r.1.headD 0, r.2)

/-- The prefixes of R99. -/
def scanOf (f : Word32 → Word32 → Word32 × FlagSet) (l : List Word32) : List Word32 × FlagSet :=
  [1, 2, 4, 8, 16].foldl (fun a dist =>
    let r := (List.range 32).map fun i =>
      if dist ≤ i then f (a.1.getD (i - dist) 0) (a.1.getD i 0) else (a.1.getD i 0, 0)
    (r.map (·.1), r.foldl (fun x y => x ||| y.2) a.2)) (l, (0 : FlagSet))

/-- VREDUCE (R98, R253). -/
def execVreduce (g : Guard) (op : RedOp) (d a : R8) (pm q : BitVec 4) (s : State) : Host.Outcome State Fault Refusal :=
  s.cross (.vreduce g op d a pm q) g [⟨a, 1, redTags op⟩] fun w E P =>
    let m := w.pget pm.toNat
    let (x, fl) := treeOf (redStep op w.rm) (redIn w op a m E P)
    ((w.putV d P (redTag op) fun _ => x).flags fl).pfull q.toNat (m &&& E)

/-- VSCAN (R99, R253). -/
def execVscan (g : Guard) (op : RedOp) (ex : Bool) (d a : R8) (pm q : BitVec 4) (s : State) :
    Host.Outcome State Fault Refusal :=
  s.cross (.vscan g op ex d a pm q) g [⟨a, 1, redTags op⟩] fun w E P =>
    let m := w.pget pm.toNat
    let (y, fl) := scanOf (redStep op w.rm) (redIn w op a m E P)
    let res (i : Nat) : Word32 := if ex then (if i = 0 then redIdent op else y.getD (i - 1) 0) else y.getD i 0
    ((w.putV d P (redTag op) res).flags fl).pfull q.toNat (m &&& E)

/-- VMATCH (R254). -/
def execVmatch (g : Guard) (d a : R8) (pm q : BitVec 4) (s : State) : Host.Outcome State Fault Refusal :=
  s.cross (.vmatch g d a pm q) g [⟨a, 1, tRaw⟩] fun w E P =>
    let m := w.pget pm.toNat
    (w.putV d P 0 fun i => maskOf fun j => has m j && !has (silent E P) j && w.ln a j == w.ln a i).pfull q.toNat (m &&& E)

/-- A warp-level predicate instruction: all 32 bits of pd (R255). -/
def State.predOp (s : State) (i : Instr) (g : Guard) (d : R8) (f : Warp → Mask) : Host.Outcome State Fault Refusal :=
  s.issue i g [] fun s w _ => .go s (w.pfull d.toNat (f w)) false

/-- PAND (Table 7.12). -/
def execPand (g : Guard) (d a b : R8) (s : State) : Host.Outcome State Fault Refusal :=
  s.predOp (.pand g d a b) g d fun w => w.pr a &&& w.pr b

/-- POR (Table 7.12). -/
def execPor (g : Guard) (d a b : R8) (s : State) : Host.Outcome State Fault Refusal :=
  s.predOp (.por g d a b) g d fun w => w.pr a ||| w.pr b

/-- PXOR (Table 7.12). -/
def execPxor (g : Guard) (d a b : R8) (s : State) : Host.Outcome State Fault Refusal :=
  s.predOp (.pxor g d a b) g d fun w => w.pr a ^^^ w.pr b

/-- PNOT (Table 7.12). -/
def execPnot (g : Guard) (d a : R8) (s : State) : Host.Outcome State Fault Refusal :=
  s.predOp (.pnot g d a) g d fun w => ~~~(w.pr a)

/-- PMOV (Table 7.12). -/
def execPmov (g : Guard) (d a : R8) (s : State) : Host.Outcome State Fault Refusal :=
  s.predOp (.pmov g d a) g d fun w => w.pr a

/-- PMOV.tov (Table 7.12). -/
def execPmovTov (g : Guard) (d a : R8) (s : State) : Host.Outcome State Fault Refusal :=
  s.vop (.pmovTov g d a) g [] d 0 fun w _ => w.pr a

/-- PMOV.frv (Table 7.12). -/
def execPmovFrv (g : Guard) (d a : R8) (s : State) : Host.Outcome State Fault Refusal :=
  s.pop (.pmovFrv g d a) g [⟨a, 1, tRaw⟩] d.toNat fun w i => (w.ln a i != 0, 0)

/-- PMOV.tos (Table 7.12). -/
def execPmovTos (g : Guard) (d a : R8) (s : State) : Host.Outcome State Fault Refusal :=
  s.sop (.pmovTos g d a) g d fun w => (w.pr a).setWidth 64

/-- PSET (Table 7.12). -/
def execPset (g : Guard) (d a : R8) (s : State) : Host.Outcome State Fault Refusal :=
  s.predOp (.pset g d a) g d fun w => (w.sc a).setWidth 32

/-- PSET.rng (Table 7.12). -/
def execPsetRng (g : Guard) (d : R8) (lo hi : BitVec 5) (s : State) : Host.Outcome State Fault Refusal :=
  s.predOp (.psetRng g d lo hi) g d fun _ => maskOf fun i => decide (lo.toNat ≤ i ∧ i ≤ hi.toNat)

/-- PSET.and (Table 7.12). -/
def execPsetAnd (g : Guard) (d : R8) (m k : BitVec 5) (s : State) : Host.Outcome State Fault Refusal :=
  s.predOp (.psetAnd g d m k) g d fun _ => maskOf fun i => i &&& m.toNat == k.toNat

/-- PCOUNT (Table 7.12). -/
def execPcount (g : Guard) (d a : R8) (s : State) : Host.Outcome State Fault Refusal :=
  s.sop (.pcount g d a) g d fun w => BitVec.ofNat 64 (count (w.pr a))

/-- PFIRST (Table 7.12). -/
def execPfirst (g : Guard) (d a : R8) (s : State) : Host.Outcome State Fault Refusal :=
  s.sop (.pfirst g d a) g d fun w => BitVec.ofNat 64 ((lanesOf (w.pr a)).headD 32)

end Sys2Proof.Machine
end

