-- ==== Sys2Proof/Machine/Vint.lean ====
section
/-! DEFINITION. Vector integer and bit instructions, 0x30 to 0x51 (R226 to R233). -/

namespace Sys2Proof.Machine

/-- Lane values of two-source, unpacked integer forms, by signedness. -/
def isS (t : ITy) : Bool := t == .i32
def elem32 (t : ITy) (x : Word32) : Int := elem (isS t) 32 0 x

def vaddE (t : ITy) (pk : Pack) (a b : Word32) : Word32 := mapElems t pk (· + ·) a b
def vsubE (t : ITy) (pk : Pack) (a b : Word32) : Word32 := mapElems t pk (· - ·) a b
def vmulE (t : ITy) (pk : Pack) (a b : Word32) : Word32 := mapElems t pk (· * ·) a b
def vminE (t : ITy) (pk : Pack) (a b : Word32) : Word32 := mapElems t pk min a b
def vmaxE (t : ITy) (pk : Pack) (a b : Word32) : Word32 := mapElems t pk max a b
def vaddsE (t : ITy) (pk : Pack) (a b : Word32) : Word32 × FlagSet := mapElemsSat t pk (· + ·) a b
def vsubsE (t : ITy) (pk : Pack) (a b : Word32) : Word32 × FlagSet := mapElemsSat t pk (· - ·) a b
/-- Bits [63:32] of the product. -/
def vmulhE (t : ITy) (a b : Word32) : Word32 := BitVec.ofInt 32 (elem32 t a * elem32 t b / 2 ^ 32)
/-- |a| mod 2^w, and −a mod 2^w. -/
def vabsE (pk : Pack) (a : Word32) : Word32 := mapElems .i32 pk (fun x _ => (x.natAbs : Int)) a 0
def vnegE (pk : Pack) (a : Word32) : Word32 := mapElems .i32 pk (fun x _ => -x) a 0
/-- Shifts by the whole second source (R227). -/
def vshlE (a b : Word32) : Word32 := if b.toNat < 32 then a <<< b.toNat else 0
def vshrE (a b : Word32) : Word32 := if b.toNat < 32 then a >>> b.toNat else 0
def vsraE (a b : Word32) : Word32 := a.sshiftRight (min b.toNat 31)
def vrotE (a b : Word32) : Word32 := a.rotateLeft (b.toNat % 32)
/-- The bit of place i moves to 31 − i. -/
def vbrevE (a : Word32) : Word32 := bitsOf 32 fun i => a.getLsbD (31 - i)
def vclzE (a : Word32) : Word32 := BitVec.ofNat 32 (clzOf32 a)
  where clzOf32 (x : Word32) : Nat := if x = 0 then 32 else 31 - Nat.log2 x.toNat
def vpopcE (a : Word32) : Word32 := BitVec.ofNat 32 ((List.range 32).filter a.getLsbD).length

/-- Sources A and B under an integer type. -/
def src2 (ok : List Nat) (a b : R8) : List Src := [⟨a, 1, ok⟩, ⟨b, 1, ok⟩]

/-- VADD (R227). -/
def execVadd (g : Guard) (t : ITy) (pk : Pack) (d a b : R8) (s : State) : Host.Outcome State Fault Refusal :=
  s.vop (.vadd g t pk d a b) g (src2 (intTags pk) a b) d (intTag t pk) fun w i => vaddE t pk (w.ln a i) (w.ln b i)

/-- VSUB (R227). -/
def execVsub (g : Guard) (t : ITy) (pk : Pack) (d a b : R8) (s : State) : Host.Outcome State Fault Refusal :=
  s.vop (.vsub g t pk d a b) g (src2 (intTags pk) a b) d (intTag t pk) fun w i => vsubE t pk (w.ln a i) (w.ln b i)

/-- One lane of a carry or borrow chain: the result and the carry out (R228). -/
def carryStep (sub : Bool) (a b : Word32) (c : Bool) : Word32 × Bool :=
  let x : Int := if sub then a.toNat - b.toNat - b2n c else a.toNat + b.toNat + b2n c
  (BitVec.ofInt 32 x, if sub then decide (x < 0) else decide (2 ^ 32 ≤ x))

/-- VADDC and VSUBB write the sum and the carry predicate. -/
def State.chain (s : State) (i : Instr) (g : Guard) (sub : Bool) (t : ITy) (d a b ci : R8) (co : BitVec 4) :
    Host.Outcome State Fault Refusal :=
  s.issue i g (src2 tInt a b) fun s w P =>
    let r (j : Nat) := carryStep sub (w.ln a j) (w.ln b j) (has (w.pr ci) j)
    .go s ((w.putV d P (intTag t .none) fun j => (r j).1).pset co.toNat P (maskOf fun j => (r j).2)) false

/-- VADDC (R228). -/
def execVaddc (g : Guard) (t : ITy) (d a b ci : R8) (co : BitVec 4) (s : State) : Host.Outcome State Fault Refusal :=
  s.chain (.vaddc g t d a b ci co) g false t d a b ci co

/-- VSUBB (R228). -/
def execVsubb (g : Guard) (t : ITy) (d a b ci : R8) (co : BitVec 4) (s : State) : Host.Outcome State Fault Refusal :=
  s.chain (.vsubb g t d a b ci co) g true t d a b ci co

/-- VADDS (R227). -/
def execVadds (g : Guard) (t : ITy) (pk : Pack) (d a b : R8) (s : State) : Host.Outcome State Fault Refusal :=
  s.vopF (.vadds g t pk d a b) g (src2 (intTags pk) a b) d (intTag t pk) fun w i => vaddsE t pk (w.ln a i) (w.ln b i)

/-- VSUBS (R227). -/
def execVsubs (g : Guard) (t : ITy) (pk : Pack) (d a b : R8) (s : State) : Host.Outcome State Fault Refusal :=
  s.vopF (.vsubs g t pk d a b) g (src2 (intTags pk) a b) d (intTag t pk) fun w i => vsubsE t pk (w.ln a i) (w.ln b i)

/-- VMUL (R227). -/
def execVmul (g : Guard) (t : ITy) (pk : Pack) (d a b : R8) (s : State) : Host.Outcome State Fault Refusal :=
  s.vop (.vmul g t pk d a b) g (src2 (intTags pk) a b) d (intTag t pk) fun w i => vmulE t pk (w.ln a i) (w.ln b i)

/-- VMULH (R227). -/
def execVmulh (g : Guard) (t : ITy) (d a b : R8) (s : State) : Host.Outcome State Fault Refusal :=
  s.vop (.vmulh g t d a b) g (src2 tInt a b) d (intTag t .none) fun w i => vmulhE t (w.ln a i) (w.ln b i)

/-- VMAD (R227). -/
def execVmad (g : Guard) (t : ITy) (d a b c : R8) (s : State) : Host.Outcome State Fault Refusal :=
  s.vop (.vmad g t d a b c) g (src2 tInt a b ++ [⟨c, 1, tInt⟩]) d (intTag t .none) fun w i =>
    w.ln a i * w.ln b i + w.ln c i

/-- VMIN (R227). -/
def execVmin (g : Guard) (t : ITy) (pk : Pack) (d a b : R8) (s : State) : Host.Outcome State Fault Refusal :=
  s.vop (.vmin g t pk d a b) g (src2 (intTags pk) a b) d (intTag t pk) fun w i => vminE t pk (w.ln a i) (w.ln b i)

/-- VMAX (R227). -/
def execVmax (g : Guard) (t : ITy) (pk : Pack) (d a b : R8) (s : State) : Host.Outcome State Fault Refusal :=
  s.vop (.vmax g t pk d a b) g (src2 (intTags pk) a b) d (intTag t pk) fun w i => vmaxE t pk (w.ln a i) (w.ln b i)

/-- VABS (R227). -/
def execVabs (g : Guard) (pk : Pack) (d a : R8) (s : State) : Host.Outcome State Fault Refusal :=
  s.vop (.vabs g pk d a) g [⟨a, 1, intTags pk⟩] d (intTag .i32 pk) fun w i => vabsE pk (w.ln a i)

/-- VNEG (R227). -/
def execVneg (g : Guard) (pk : Pack) (d a : R8) (s : State) : Host.Outcome State Fault Refusal :=
  s.vop (.vneg g pk d a) g [⟨a, 1, intTags pk⟩] d (intTag .i32 pk) fun w i => vnegE pk (w.ln a i)

/-- VAND (R227). -/
def execVand (g : Guard) (d a b : R8) (s : State) : Host.Outcome State Fault Refusal :=
  s.vop (.vand g d a b) g (src2 tRaw a b) d 0 fun w i => w.ln a i &&& w.ln b i

/-- VOR (R227). -/
def execVor (g : Guard) (d a b : R8) (s : State) : Host.Outcome State Fault Refusal :=
  s.vop (.vor g d a b) g (src2 tRaw a b) d 0 fun w i => w.ln a i ||| w.ln b i

/-- VXOR (R227). -/
def execVxor (g : Guard) (d a b : R8) (s : State) : Host.Outcome State Fault Refusal :=
  s.vop (.vxor g d a b) g (src2 tRaw a b) d 0 fun w i => w.ln a i ^^^ w.ln b i

/-- VNOT (R227). -/
def execVnot (g : Guard) (d a : R8) (s : State) : Host.Outcome State Fault Refusal :=
  s.vop (.vnot g d a) g [⟨a, 1, tRaw⟩] d 0 fun w i => ~~~(w.ln a i)

/-- VSHL (R227). -/
def execVshl (g : Guard) (d a b : R8) (s : State) : Host.Outcome State Fault Refusal :=
  s.vop (.vshl g d a b) g (src2 tRaw a b) d 0 fun w i => vshlE (w.ln a i) (w.ln b i)

/-- VSHR (R227). -/
def execVshr (g : Guard) (d a b : R8) (s : State) : Host.Outcome State Fault Refusal :=
  s.vop (.vshr g d a b) g (src2 tRaw a b) d 0 fun w i => vshrE (w.ln a i) (w.ln b i)

/-- VSRA (R227). -/
def execVsra (g : Guard) (d a b : R8) (s : State) : Host.Outcome State Fault Refusal :=
  s.vop (.vsra g d a b) g (src2 tRaw a b) d 0 fun w i => vsraE (w.ln a i) (w.ln b i)

/-- VROT (R227). -/
def execVrot (g : Guard) (d a b : R8) (s : State) : Host.Outcome State Fault Refusal :=
  s.vop (.vrot g d a b) g (src2 tRaw a b) d 0 fun w i => vrotE (w.ln a i) (w.ln b i)

/-- VFUNL (R227). -/
def execVfunl (g : Guard) (d a b c : R8) (s : State) : Host.Outcome State Fault Refusal :=
  s.vop (.vfunl g d a b c) g (src2 tRaw a b ++ [⟨c, 1, tRaw⟩]) d 0 fun w i =>
    (((w.ln a i ++ w.ln b i : Word64)) <<< ((w.ln c i).toNat % 32)).extractLsb' 32 32

/-- The conditions of VCMP (R229). -/
def vcmpHolds (cc : VCond) (a b : Int) : Bool :=
  match cc with
  | .eq => a == b
  | .ne => a != b
  | .lt => decide (a < b)
  | .le => decide (a ≤ b)
  | .gt => decide (b < a)
  | .ge => decide (b ≤ a)

/-- VCMP (R229). -/
def execVcmp (g : Guard) (cc : VCond) (t : ITy) (d a b : R8) (s : State) : Host.Outcome State Fault Refusal :=
  s.pop (.vcmp g cc t d a b) g (src2 tInt a b) d.toNat fun w i =>
    (vcmpHolds cc (elem32 t (w.ln a i)) (elem32 t (w.ln b i)), 0)

/-- Result tag of VSEL (R229). -/
def selTag (x y : Tag) : Tag := if x = 15 ∨ y = 15 then 15 else if x = y then x else 0

/-- VSEL (R229). -/
def execVsel (g : Guard) (d a b c : R8) (s : State) : Host.Outcome State Fault Refusal :=
  s.issue (.vsel g d a b c) g (src2 tAny a b) fun s w P =>
    .go s (w.putV d P (selTag (w.tag a.toNat) (w.tag b.toNat)) fun i => if has (w.pr c) i then w.ln a i else w.ln b i) false

/-- VMOV: a raw move of one register, or of a pair, with its tags (R74, R227). -/
def execVmov (g : Guard) (wide : Bool) (d a : R8) (s : State) : Host.Outcome State Fault Refusal :=
  s.issue (.vmov g wide d a) g [⟨a, wideRegs wide, tAny⟩] fun s w P =>
    let lo := w.vget a.toNat
    let hi := w.vget (a.toNat + 1)
    let w1 := w.vset d.toNat P lo.x lo.tag
    .go s (if wide then w1.vset (d.toNat + 1) P hi.x hi.tag else w1) false

/-- Result tag of VMOVI (R230). -/
def movTag : MovTy → Tag
  | .i32 => 1
  | .u32 => 2
  | .b32 => 0
  | .f32 => 3

/-- Tags under which vmovi.lo reads its destination (R230). -/
def movTags : MovTy → List Nat
  | .i32 | .u32 => tInt
  | .b32 => tRaw
  | .f32 => tF32

/-- VMOVI (Table 7.5). -/
def execVmovi (g : Guard) (t : MovTy) (d : R8) (imm : BitVec 24) (s : State) : Host.Outcome State Fault Refusal :=
  s.vop (.vmovi g t d imm) g [] d (movTag t) fun _ _ => if t = .i32 then imm.signExtend 32 else imm.setWidth 32

/-- VMOVI.hi (Table 7.5). -/
def execVmoviHi (g : Guard) (t : MovTy) (d : R8) (imm : BitVec 16) (s : State) : Host.Outcome State Fault Refusal :=
  s.vop (.vmoviHi g t d imm) g [] d (movTag t) fun _ _ => imm ++ 0#16

/-- VMOVI.lo (Table 7.5). -/
def execVmoviLo (g : Guard) (t : MovTy) (d : R8) (imm : BitVec 16) (s : State) : Host.Outcome State Fault Refusal :=
  s.vop (.vmoviLo g t d imm) g [⟨d, 1, movTags t⟩] d (movTag t) fun w i => (w.ln d i).extractLsb' 16 16 ++ imm

/-- The sum of VDOT4 (R231). -/
def dot4 (a b c : Word32) : Word32 × FlagSet :=
  let r := clampTo true 32 (elem true 32 0 c + ((List.range 4).map fun j => elem true 8 j a * elem true 8 j b).sum)
  (BitVec.ofInt 32 r.1, r.2)

/-- VDOT4 (R231). -/
def execVdot4 (g : Guard) (d a b c : R8) (s : State) : Host.Outcome State Fault Refusal :=
  s.vopF (.vdot4 g d a b c) g (src2 [0, 12] a b ++ [⟨c, 1, tInt⟩]) d 1 fun w i => dot4 (w.ln a i) (w.ln b i) (w.ln c i)

/-- VCLZ (R227). -/
def execVclz (g : Guard) (d a : R8) (s : State) : Host.Outcome State Fault Refusal :=
  s.vop (.vclz g d a) g [⟨a, 1, tRaw⟩] d 0 fun w i => vclzE (w.ln a i)

/-- VPOPC (R227). -/
def execVpopc (g : Guard) (d a : R8) (s : State) : Host.Outcome State Fault Refusal :=
  s.vop (.vpopc g d a) g [⟨a, 1, tRaw⟩] d 0 fun w i => vpopcE (w.ln a i)

/-- VBREV (R227). -/
def execVbrev (g : Guard) (d a : R8) (s : State) : Host.Outcome State Fault Refusal :=
  s.vop (.vbrev g d a) g [⟨a, 1, tRaw⟩] d 0 fun w i => vbrevE (w.ln a i)

/-- Offset and width of a bit field (R232). -/
def bfPos (b : Word32) : Nat × Nat := (b.toNat % 32, min (b.toNat / 256 % 64) 32)

/-- VBFE's field of `a` (R232). -/
def bfExtract (sgn : Bool) (a b : Word32) : Word32 :=
  let (o, n) := bfPos b
  let x := a.toNat / 2 ^ o % 2 ^ n
  if sgn && n != 0 && x.testBit (n - 1) then BitVec.ofInt 32 ((x : Int) - 2 ^ n) else BitVec.ofNat 32 x

/-- VBFI's word (R232). -/
def bfInsert (a b c : Word32) : Word32 :=
  let (o, n) := bfPos b
  bitsOf 32 fun i => if o ≤ i && i < o + n then a.getLsbD (i - o) else c.getLsbD i

/-- VBFE (R232). -/
def execVbfe (g : Guard) (sgn : Bool) (d a b : R8) (s : State) : Host.Outcome State Fault Refusal :=
  s.vop (.vbfe g sgn d a b) g (src2 tRaw a b) d 0 fun w i => bfExtract sgn (w.ln a i) (w.ln b i)

/-- VBFI (R232). -/
def execVbfi (g : Guard) (d a b c : R8) (s : State) : Host.Outcome State Fault Refusal :=
  s.vop (.vbfi g d a b c) g (src2 tRaw a b ++ [⟨c, 1, tRaw⟩]) d 0 fun w i => bfInsert (w.ln a i) (w.ln b i) (w.ln c i)

/-- Interleaving of two words' low halves, or of three words' low ten bits (R233). -/
def interleave (w3 : Bool) (a b c : Word32) : Word32 :=
  if w3 then bitsOf 32 fun i => decide (i < 30) &&
    (if i % 3 = 0 then a.getLsbD (i / 3) else if i % 3 = 1 then b.getLsbD (i / 3) else c.getLsbD (i / 3))
  else bitsOf 32 fun i => if i % 2 = 0 then a.getLsbD (i / 2) else b.getLsbD (i / 2)

/-- Stream `k` of a word (R233). -/
def deinterleave (w3 : Bool) (a : Word32) (k : Nat) : Word32 :=
  let n := if w3 then 3 else 2
  bitsOf 32 fun i => decide (n * i + k < if w3 then 30 else 32) && a.getLsbD (n * i + k)

/-- VBITIL (R233). -/
def execVbitil (g : Guard) (w3 : Bool) (d a b c : R8) (s : State) : Host.Outcome State Fault Refusal :=
  s.vop (.vbitil g w3 d a b c) g (src2 tRaw a b ++ if w3 then [⟨c, 1, tRaw⟩] else []) d 0 fun w i =>
    interleave w3 (w.ln a i) (w.ln b i) (w.ln c i)

/-- VBITDL (R233). -/
def execVbitdl (g : Guard) (w3 : Bool) (d a : R8) (k : BitVec 2) (s : State) : Host.Outcome State Fault Refusal :=
  s.vop (.vbitdl g w3 d a k) g [⟨a, 1, tRaw⟩] d 0 fun w i => deinterleave w3 (w.ln a i) k.toNat

end Sys2Proof.Machine
end

