-- ==== Sys2Proof/Machine/Paired.lean ====
section
/-! DEFINITION. Paired words (R191 to R193): both halves read all their sources before either writes. -/

namespace Sys2Proof.Machine

/-- Integer type of a half. -/
def CTyI : CTy → ITy
  | .u32 => .u32
  | _ => .i32

/-- Sources of a half with the tags they accept, as its full form reads them (R191). -/
def compactSrc : Compact → List Src
  | .nop => []
  | .op o t _ a b =>
    let ok := match o with
      | .vmov => tAny
      | .vshfl => tAny
      | _ => match t with
        | .i32 | .u32 => tInt
        | .b32 => tRaw
        | .f32 => tF32
    let okB := if o = .vshfl then tRaw else ok
    if o.two then [⟨a, 1, ok⟩, ⟨b, 1, okB⟩] else [⟨a, 1, ok⟩]

/-- Result of a half in one lane, with its flags: exactly that of the full form, every form flag zero (R191, Table 6.9). -/
def compactLane (w : Warp) (o : COp) (t : CTy) (a b : R8) (i : Nat) : Word32 × FlagSet :=
  let x := w.ln a i
  let y := w.ln b i
  let ty := CTyI t
  let xv := F32.value x.toNat
  let f (r : Nat × FlagSet) : Word32 × FlagSet := (BitVec.ofNat 32 r.1, r.2)
  match o with
  | .vadd => (vaddE ty .none x y, 0)
  | .vsub => (vsubE ty .none x y, 0)
  | .vadds => vaddsE ty .none x y
  | .vsubs => vsubsE ty .none x y
  | .vmul => (vmulE ty .none x y, 0)
  | .vmulh => (vmulhE ty x y, 0)
  | .vmin => (vminE ty .none x y, 0)
  | .vmax => (vmaxE ty .none x y, 0)
  | .vand => (x &&& y, 0)
  | .vor => (x ||| y, 0)
  | .vxor => (x ^^^ y, 0)
  | .vnot => (~~~x, 0)
  | .vshl => (vshlE x y, 0)
  | .vshr => (vshrE x y, 0)
  | .vsra => (vsraE x y, 0)
  | .vrot => (vrotE x y, 0)
  | .vabs => (vabsE .none x, 0)
  | .vneg => (vnegE .none x, 0)
  | .vmov => (x, 0)
  | .vclz => (vclzE x, 0)
  | .vpopc => (vpopcE x, 0)
  | .vbrev => (vbrevE x, 0)
  | .vfadd => fLane .f32 w.rm addOp [x, y]
  | .vfsub => fLane .f32 w.rm subOp [x, y]
  | .vfmul => fLane .f32 w.rm mulOp [x, y]
  | .vfmin => fLane .f32 w.rm minOp [x, y]
  | .vfmax => fLane .f32 w.rm maxOp [x, y]
  | .vfrcp => f (rcpOf w.rm xv)
  | .vfrsq => f (rsqOf w.rm xv)
  | .vfexp2 => f (exp2Of w.rm xv)
  | .vflog2 => f (log2Of w.rm xv)
  | .vfsinp => f (sinPiOf w.rm xv)
  | .vfcosp => f (cosPiOf w.rm xv)
  | .vffrac => fLane .f32 w.rm fracOp [x]
  | .vfrnd => fLane .f32 w.rm (rndOp .dyn false) [x]
  | .vshfl => (w.ln a (y.toNat % 32), 0)

/-- Result tag of a half. -/
def compactTag (w : Warp) (o : COp) (t : CTy) (a : R8) : Tag :=
  if o = .vmov ∨ o = .vshfl then w.tag a.toNat
  else match t with
    | .i32 => 1
    | .u32 => 2
    | .b32 => 0
    | .f32 => 3

/-- What a half writes, and the flags it raises. -/
def compactWrite (w : Warp) (P : Mask) : Compact → List WB × FlagSet
  | .nop => ([], 0)
  | .op o t d a b =>
    ([wbV d P (compactTag w o t a) fun i => (compactLane w o t a b i).1], laneFlags P fun i => (compactLane w o t a b i).2)

/-- PAIRED_WORD: a half of class T is written when its pipeline completes, as with `LA` = 0 (R191, R195). -/
def execPairedWord (hi lo : Compact) (s : State) : Host.Outcome State Fault Refusal :=
  s.issue (.pairedWord hi lo) ⟨0, false⟩ (compactSrc hi ++ compactSrc lo) fun s w P =>
    let (x, fx) := compactWrite w P hi
    let (y, fy) := compactWrite w P lo
    let now := (if hi.classT then [] else x) ++ (if lo.classT then [] else y)
    let late := (if hi.classT then x else []) ++ (if lo.classT then y else [])
    let w1 := (w.write now).flags (fx ||| fy)
    if late.isEmpty then .go s w1 false
    else .go { s with nextId := s.nextId + 1 }
      (w1.openPipe s.nextId 0 (Instr.pairedWord hi lo).pending late) false

end Sys2Proof.Machine
end

