-- ==== Sys2Proof/Machine/Raster.lean ====
section
/-! DEFINITION. Clipping, rasterisation and fragment warps (R382 to R389), and STRIP_RASTER_START (R373). -/

namespace Sys2Proof.Machine

/-! ## Clipping (R384) -/

/-- A vertex: x, y, z, w of its clip position, then its attributes. -/
abbrev ClipV := List Word32

def ClipV.w (p : ClipV) : Word32 := nthW p 3
def ClipV.x (p : ClipV) : Word32 := nthW p 0
/-- −y, on which the vertical axis runs (R378). -/
def ClipV.u (p : ClipV) : Word32 := fneg (nthW p 1)

/-- Distance from the plane c = b w, positive where c is larger, and where c is smaller. -/
def overPlane (c : ClipV → Word32) (b : Word32) (p : ClipV) : Word32 := fsub (c p) (fmul b (ClipV.w p))
def underPlane (c : ClipV → Word32) (b : Word32) (p : ClipV) : Word32 := fsub (fmul b (ClipV.w p)) (c p)

/-- The crossing vertex of the edge from p to q. -/
def crossing (p q : ClipV) (dp dq : Word32) : ClipV :=
  let r := fdiv dp (fsub dp dq)
  p.zipWith (fun a b => fadd a (fmul r (fsub b a))) q

/-- One clip of an ordered polygon. -/
def clipPoly (d : ClipV → Word32) (l : List ClipV) : List ClipV :=
  let last : List ClipV := match l.getLast? with | some p => [p] | none => []
  let out := ((last ++ l).zip l).flatMap fun (p, q) =>
    let pin : Bool := fle 0 (d p)
    let qin : Bool := fle 0 (d q)
    (if pin != qin then [crossing p q (d p) (d q)] else []) ++ if qin then [q] else []
  if out.length < 3 then [] else out

/-- The clips of steps 1 and 2. -/
def View.clip (v : View) (l : List ClipV) : List ClipV :=
  let y (p : ClipV) : Word32 := nthW p 1
  [fun p => fsub (ClipV.w p) 0x35800000, overPlane ClipV.x v.tl, underPlane ClipV.x v.tr, overPlane y v.tb, underPlane y v.tt].foldl
    (fun l d => clipPoly d l) l

/-- A polygon cut at every boundary between the segments of an axis, in ascending order: its part in each segment. -/
def Segs.cut (g : Segs) (c : ClipV → Word32) : List Nat → List ClipV → List (Nat × List ClipV)
  | [], _ => []
  | [i], l => [(i, l)]
  | i :: r, l =>
    let b := nthW g.a (i + 1)
    (i, clipPoly (underPlane c b) l) :: g.cut c r (clipPoly (overPlane c b) l)

/-- The parts that cover samples. -/
def Segs.parts (g : Segs) (c : ClipV → Word32) (l : List ClipV) : List (Nat × List ClipV) :=
  (g.cut c (List.range g.n) l).filter fun (i, p) => !p.isEmpty && decide (g.s.getD i 0 < g.s.getD (i + 1) 0)

/-! ## Coverage and interpolation (R385) -/

/-- A vertex of a piece in fixed point with 8 fractional bits. -/
structure FixV where
  x : Int
  y : Int
  v : ClipV
  deriving DecidableEq, Repr

/-- The edge function of a → b at (x, y): positive to its right in warped space, where y grows downward. -/
def edgeFn (a b : FixV) (x y : Int) : Int := (b.x - a.x) * (y - a.y) - (b.y - a.y) * (x - a.x)

/-- A top or left edge, of the orientation that makes the interior positive. -/
def topLeft (a b : FixV) : Bool := (a.y == b.y && decide (a.x < b.x)) || decide (b.y < a.y)

/-- Edges of a triangle opposite its vertices, oriented so that the interior is positive; none of zero area. -/
def triEdges (a b c : FixV) : Option (List (FixV × FixV)) :=
  let area := edgeFn a b c.x c.y
  if area = 0 then none
  else if 0 < area then some [(b, c), (c, a), (a, b)] else some [(c, b), (a, c), (b, a)]

/-- A fragment: sample, barycentrics b1 and b2, depth and attributes. -/
structure Frag where
  x : Nat
  y : Nat
  b1 : Word32
  b2 : Word32
  vals : List Word32
  deriving DecidableEq, Repr

/-- Perspective-correct interpolation of component k. -/
def interpolate (b : List Word32) (t : List ClipV) (k : Nat) : Word32 :=
  let sum3 (f : Nat → Word32) : Word32 := fadd (fadd (f 0) (f 1)) (f 2)
  let w (j : Nat) : Word32 := ClipV.w (t.getD j [])
  fdiv (sum3 fun j => fdiv (fmul (nthW b j) (nthW (t.getD j []) k)) (w j)) (sum3 fun j => fdiv (nthW b j) (w j))

/-- The fragment that a triangle gives a sample, if it covers it. The sum that divides the barycentrics, of which the manual does not say how it
is formed, adds the converted values from the left, each addition rounded (log entry 109, DESIGN CHOICE). -/
def triFrag (t : List FixV) (e : List (FixV × FixV)) (nattr x y : Nat) : Option Frag :=
  let px : Int := 256 * x + 128
  let py : Int := 256 * y + 128
  let f : List Int := e.map fun (a, b) => edgeFn a b px py
  if (e.zip f).all fun ((a, b), v) => decide (0 < v) || (v == 0 && topLeft a b) then
    let g := f.map fint
    let sum := fadd (fadd (nthW g 0) (nthW g 1)) (nthW g 2)
    let b := g.map fun v => fdiv v sum
    some ⟨x, y, nthW b 1, nthW b 2, (2 :: (List.range nattr).map (· + 4)).map (interpolate b (t.map (·.v)))⟩
  else none

/-- The fan of a piece. -/
def fan (l : List FixV) : List (List FixV × List (FixV × FixV)) :=
  match l with
  | [] => []
  | a :: r => (r.zip (r.drop 1)).filterMap fun (b, c) => (triEdges a b c).map fun e => ([a, b, c], e)

/-- Where a strip of a view is rasterised: record, view, latch and strip. -/
structure RasterAt where
  vs : VsRec
  view : Nat
  l : Latch
  strip : Nat
  deriving DecidableEq, Repr

/-- Fixed-point vertices of a piece in segments i and j. -/
def RasterAt.fix (r : RasterAt) (i j : Nat) (p : ClipV) : Option FixV :=
  let x := r.l.h.fwdIn i (fdiv (ClipV.x p) (ClipV.w p))
  let y := r.l.vseg.fwdIn j (fdiv (ClipV.u p) (ClipV.w p))
  if finite x && finite y then some ⟨ffix 8 x, ffix 8 y, p⟩ else none

/-- Index of a sample's tile over the view (R389). -/
def VsRec.tileOf (r : VsRec) (x y : Nat) : Nat := y / 16 * (r.nx / 16) + x / 16

/-- Band of the tile of a sample, and whether it is peripheral (R386). -/
def RasterAt.peripheral (r : RasterAt) (tx ty : Nat) : Bool :=
  let band (g : Segs) (c : Nat) : Nat := g.band.getD (g.ofSample c) 0
  r.vs.rband != 0 && decide (r.vs.rband ≤ max (band r.l.h (16 * tx + 8)) (band r.l.vseg (16 * ty + 8)))

/-- The samples of a segment pair in the strip's rows, by y, then x. -/
def RasterAt.samples (r : RasterAt) (i j : Nat) : List (Nat × Nat) :=
  let h := r.vs.ny / r.vs.nstrip
  let span (a b : Nat) : List Nat := (List.range (b - a)).map (a + ·)
  let ys := span (max (r.l.vseg.s.getD j 0) (r.strip * h)) (min (r.l.vseg.s.getD (j + 1) 0) ((r.strip + 1) * h))
  ys.flatMap fun y => (span (r.l.h.s.getD i 0) (r.l.h.s.getD (i + 1) 0)).map fun x => (x, y)

/-- The fragments of a piece, by y, then x. A piece with a vertex whose warped coordinate is not finite, for which no result is stated, covers
nothing (log entry 110, DESIGN CHOICE). -/
def RasterAt.piece (r : RasterAt) (nattr i j : Nat) (l : List ClipV) : List Frag :=
  let fx := l.filterMap (r.fix i j)
  if fx.length ≠ l.length then []
  else
    let tris := fan fx
    (r.samples i j).filterMap fun (x, y) =>
      if (x % 2 != 0 || y % 2 != 0) && r.peripheral (x / 16) (y / 16) then none
      else tris.findSome? fun (t, e) => triFrag t e nattr x y

/-- The amplified position of a vertex (R383). -/
def View.amplify (v : View) (p : List Word32) : List Word32 :=
  (List.range 4).map fun r =>
    let m (k : Nat) : Word32 := fmul (nthW v.m (4 * r + k)) (nthW p k)
    fadd (fadd (fadd (m 0) (m 1)) (m 2)) (m 3)

/-- A fragment warp to be: draw, primitive order number, view, tile, and its fragments with their sequence numbers. -/
structure FragWarp where
  draw : Nat
  order : Nat
  view : Nat
  tile : Nat
  frags : List (Frag × Nat)
  deriving DecidableEq, Repr

/-- Cut a list into runs of at most `n`. -/
def chunks {α : Type} (n : Nat) : Nat → List α → List (List α)
  | 0, _ => []
  | f + 1, l => if l.isEmpty then [] else l.take n :: chunks n f (l.drop n)

/-- Fragment counts of samples (R387). -/
abbrev Counts := List ((Nat × Nat × Nat) × Nat)
def Counts.next (c : Counts) (k : Nat × Nat × Nat) : Nat × Counts :=
  let n := ((c.find? (·.1 == k)).map (·.2)).getD 0
  (n, upsert (·.1 == k) (k, n + 1) c)

/-- The warps of one piece: its fragments tile by tile, 32 at a time (R387, R388). -/
def RasterAt.pieceWarps (r : RasterAt) (draw order : Nat) (fs : List Frag) (c : Counts) : List FragWarp × Counts :=
  let (l, c) := fs.foldl (fun ((l, c) : List (Frag × Nat) × Counts) f =>
    let (n, c) := c.next (r.view, f.x, f.y)
    (l ++ [(f, n)], c)) (([] : List (Frag × Nat)), c)
  let tile (f : Frag × Nat) : Nat := r.vs.tileOf f.1.x f.1.y
  ((l.map tile).eraseDups.flatMap fun t =>
    (chunks 32 (l.length + 1) (l.filter (tile · == t))).map fun g => ⟨draw, order, r.view, t, g⟩, c)

/-- The warps of one amplified primitive in a strip. -/
def RasterAt.primWarps (r : RasterAt) (v : View) (draw order nattr : Nat) (l : List ClipV) (c : Counts) : List FragWarp × Counts :=
  let ps := (r.l.vseg.parts ClipV.u (v.clip l)).flatMap fun (j, p) => (r.l.h.parts ClipV.x p).map fun (i, q) => (i, j, q)
  ps.foldl (fun ((out, c) : List FragWarp × Counts) (i, j, q) =>
    let (ws, c) := r.pieceWarps draw order (r.piece nattr i j q) c
    (out ++ ws, c)) (([] : List FragWarp), c)

/-! ## Strips -/

/-- Primitive order (R382). -/
def Prim.before (a b : Prim) : Bool :=
  decide (a.draw < b.draw) || (a.draw == b.draw && (decide (a.meshlet < b.meshlet) || (a.meshlet == b.meshlet &&
    (decide (a.ended < b.ended) || (a.ended == b.ended && decide (a.idx < b.idx))))))
def insertPrim (p : Prim) : List Prim → List Prim
  | [] => [p]
  | q :: r => if p.before q then p :: q :: r else q :: insertPrim p r
def FrameSt.ordered (x : FrameSt) : List Prim := x.prims.foldl (fun l p => insertPrim p l) []

/-- A vertex's attributes, free where the mesh warp set fewer. -/
def State.attrs (s : State) (v : Vtx) (n : Nat) : List Word32 × State :=
  (List.range n).foldl (fun (l, s) k =>
    match v.attr[k]? with
    | some a => (l ++ [a], s)
    | none => let (x, s) := s.drawWord; (l ++ [x.setWidth 32], s)) (([] : List Word32), s)

/-- The fragment warps of primitive `order` of a frame in one view of a strip, and the fragment counts of the strip's samples after it. -/
def State.rasterise (s : State) (t : Stream) (x : FrameSt) (k v order : Nat) (c : Counts) : (List FragWarp × Counts) × State :=
  match x.ordered[order]?, x.vs.views[v]?, t.latches.find? fun l => l.key == x.key && l.strip == k && l.view == v with
  | some p, some w, some l =>
    if !p.vmask.getLsbD v then (([], c), s)
    else
      let n := ((x.draws.find? (·.idx == p.draw)).map (·.nattr)).getD 0
      let (poly, s) := p.vtx.foldl (fun ((l, s) : List ClipV × State) y =>
        let (a, s) := s.attrs y n
        (l ++ [w.amplify y.pos ++ a], s)) (([] : List ClipV), s)
      ((RasterAt.mk x.vs v l k).primWarps w p.draw order n poly c, s)
  | _, _, _ => (([], c), s)

/-- The ordered-section key of a sample (R389). -/
def sampleKey (view frame tile x y : Nat) : Word64 :=
  at_ 2 62 ||| at_ view 56 ||| at_ (frame % 65536) 40 ||| at_ (tile % 65536) 24 ||| at_ (inTile x y) 16

/-- The gaze registers of a warp with a strip (R377). -/
def Warp.gazed (w : Warp) (g : Gaze) : Warp :=
  { w with spr := { w.spr with gazeAz := g.az, gazeEl := g.el, gazeTime := g.stamp, gazeSeq := g.seq } }

/-- The registers of a fragment warp at its start (Table 11.8). -/
def Warp.fragment (w : Warp) (x : FragWarp) (frame : Nat) : Warp :=
  let f (i : Nat) : Frag × Nat := x.frags.getD i (⟨0, 0, 0, 0, []⟩, 0)
  let live (i : Nat) : Bool := decide (i < x.frags.length)
  let key (i : Nat) : Word64 := if live i then sampleKey x.view frame x.tile (f i).1.x (f i).1.y else 0
  let put (w : Warp) (n : Nat) (t : Tag) (g : Nat → Word32) : Warp := { w with v := w.v.set n ⟨Lanes.of g, t⟩ }
  let w := put w 0 2 fun i => BitVec.ofNat 32 (f i).1.x
  let w := put w 1 2 fun i => BitVec.ofNat 32 (f i).1.y
  let w := put w 2 0 fun i => (key i).extractLsb' 0 32
  let w := put w 3 0 fun i => (key i).extractLsb' 32 32
  let w := put w 4 2 fun i => BitVec.ofNat 32 (f i).2
  let w := put w 5 3 fun i => (f i).1.b1
  let w := put w 6 3 fun i => (f i).1.b2
  let n := ((x.frags.head?).map (·.1.vals.length)).getD 0
  let w := (List.range n).foldl (fun w k => put w (7 + k) 3 fun i => nthW (f i).1.vals k) w
  w.setPc (maskOf fun i => !live i) fun _ => exited

/-- Replace a strip's record. -/
def State.modStrip (s : State) (id key k : Nat) (g : StripSt → StripSt) : State :=
  s.modStream id fun t => { t with strips := updIf (fun y => y.key == key && y.s == k) g t.strips }

/-- Launch fragment warps of one draw in a strip, in the launch of the draw in their view. -/
def State.fragWarps (s : State) (t : Stream) (x : FrameSt) (y : StripSt) (v : Nat) (d : Draw) (ws : List FragWarp) : State :=
  if ws.isEmpty then s
  else
    let k := y.s
    let (lid, s) := match y.lids.find? fun l => l.1 == v && l.2.1 == d.idx with
      | some l => (l.2.2, s)
      | none => s.templateLaunch t d.frag d.frag.r.nsheaf
    let s := s.modStrip t.id y.key k fun z => { z with lids := upsert (fun l => l.1 == v) (v, d.idx, lid) z.lids }
    ws.zipIdx.foldl (fun s (fw, n) =>
      let g := ((t.latches.find? fun l => l.key == x.key && l.strip == k && l.view == fw.view).map (·.gaze)).getD Gaze.none
      let cl := ((x.vs.views[fw.view]?).map (·.cluster)).getD 0
      let (id, s) := s.drawWord
      let (sid, s) := s.templateWarp lid .fragment n (id.setWidth 32) (24 * cl, 24) [fw.order, fw.view, x.f, k] []
        fun w => (w.fragment fw x.f).gazed g
      let vw : VWarp := { VWarp.new sid .fragment x.key with
        strip := k, view := fw.view, draw := d.idx, tile := fw.tile, samples := fw.frags.map fun (f, _) => (f.x, f.y) }
      s.modStream t.id fun t => { t with warps := t.warps ++ [vw] }) s

/-- Display tiles of a strip in one view, and over all views. -/
def VsRec.viewTiles (r : VsRec) : Nat := r.dx / 16 * (r.dy / (16 * r.nstrip))
def VsRec.stripTiles (r : VsRec) : Nat := r.views.length * r.viewTiles

/-- Lens correction of a strip is over, and its history copied. -/
def StripSt.corrected (y : StripSt) : Bool := y.lensed && decide (y.vs.stripTiles ≤ y.lens)

/-- A strip's buffer of a view is free (R373, R391): every display tile of the view is handed over or substituted, and the strip's history is
copied. -/
def StripSt.freeIn (y : StripSt) (v : Nat) : Bool :=
  y.dead || (y.lensed && (y.checked || decide ((v + 1) * y.vs.viewTiles ≤ y.lens)))
def StripSt.free (y : StripSt) : Bool := y.dead || (y.lensed && (y.checked || y.corrected))

/-- A strip may begin in a view (R373): its frame's geometry has completed, every strip before it has begun there, and a buffer of the view is
free. -/
def Stream.mayBegin (t : Stream) (y : StripSt) (x : FrameSt) (v : Nat) : Bool :=
  t.geoDone x && ((t.strips.takeWhile fun z => !(z.key == y.key && z.s == y.s)).all fun z => z.dead || z.starts v)
    && decide ((t.strips.filter fun z => z.starts v && !z.freeIn v).length < y.vs.nbuf)

/-- What the rasteriser does next in a strip of a number: the strip, its frame, the view, and the primitive, none to begin the strip there. Of
the strips the first in latch order, of its views the first. -/
def Stream.nextStrip (t : Stream) (strip : Nat) : Option (StripSt × FrameSt × Nat × Option Nat) :=
  t.strips.findSome? fun y =>
    if y.s != strip || y.dead then none
    else (t.frames.find? (·.key == y.key)).bind fun x =>
      y.rast.zipIdx.findSome? fun (r, v) => match r with
        | some n => if n < x.prims.length then some (y, x, v, some n) else none
        | none => if t.mayBegin y x v then some (y, x, v, none) else none

/-- Covered samples of a strip. -/
def coverOf (ws : List FragWarp) : List (Nat × Nat × Nat) :=
  (ws.flatMap fun w => w.frags.map fun (f, _) => (w.view, w.tile, inTile f.x f.y)).eraseDups

/-- Entries of one view's distortion map in a strip's display rows, none where one cannot be read (R394). -/
def State.readMapView (s : State) (ctx : Nat) (r : VsRec) (strip : Nat) (w : View) : List (Option Word64) × State :=
  let n := r.dy / r.nstrip * r.dx
  (List.range n).foldl (fun ((l, s) : List (Option Word64) × State) k =>
    let (e, s) := s.readDw ctx (w.dmap + 8 * (strip * n + k))
    (l ++ [e.toOption], s)) ([], s)

/-- The distortion map of a view as a strip finds it when it begins there. -/
def State.readMap (s : State) (ctx : Nat) (r : VsRec) (strip v : Nat) : List (Option Word64) × State :=
  match r.views[v]? with
  | some w => s.readMapView ctx r strip w
  | none => ([], s)

/-- STRIP_RASTER_START: the rasterising of a strip begins in a view, with an empty buffer and the distortion map as it stands, or goes on with its
next primitive. -/
def execStripRasterStart (stream strip : Nat) (s : State) : Host.Outcome State Fault Refusal :=
  match s.stream stream with
  | none => .next s
  | some t => match t.nextStrip strip with
    | none => .next s
    | some (y, x, v, none) =>
      let (m, s) := (s.serve .rasteriser t y.vs).readMap t.ctx y.vs strip v
      .next (s.modStrip stream y.key strip fun z => { z with rast := z.rast.set v (some 0), map := z.map.set v m })
    | some (y, x, v, some n) =>
      let r := (s.serve .rasteriser t y.vs).rasterise t x strip v n y.counts
      let ws := r.1.1
      let s := r.2.modStrip stream y.key strip fun z =>
        { z with rast := z.rast.set v (some (n + 1)), cover := (z.cover ++ coverOf ws).eraseDups, counts := r.1.2 }
      .next (x.draws.foldl (fun s d => s.fragWarps t x y v d (ws.filter (·.draw == d.idx))) s)

end Sys2Proof.Machine
end

