-- ==== Sys2Proof/Machine/Tiles.lean ====
section
/-! DEFINITION. The tile back end and the serialiser: key reset, reconstruction warps, lens correction, substitutes, tile packets and
the draw watchdog (R390 to R398, R475, R493, R495). -/

namespace Sys2Proof.Machine

/-- Tiles of a strip in one view, by row, then column. -/
def VsRec.tilesOf (r : VsRec) (k : Nat) : List (Nat × Nat) :=
  let rows := r.ny / (16 * r.nstrip)
  (List.range rows).flatMap fun j => (List.range (r.nx / 16)).map fun i => (i, k * rows + j)

/-! ## Key reset and reconstruction (R390, R392) -/

/-- An ordered-section key that the strip's fragment warps used (R390). -/
def StripSt.ownsKey (y : StripSt) (ctx : Nat) (k : KeyEnt) : Bool := k.ctx == ctx && y.keys.contains (k.cluster, k.key)

/-- The keys of a strip return to the unused state; one still held has been poisoned, and is counted (R475). -/
def State.resetKeys (s : State) (t : Stream) (y : StripSt) : State :=
  let mine := s.mem.keys.filter (y.ownsKey t.ctx)
  let held := (mine.filter fun k => k.held != 0 || k.poisoned.isSome).length
  (s.setMem { s.mem with keys := s.mem.keys.filter fun k => !mine.contains k }).countStream t.id 8 held

/-- Colour word of a strip's buffer, zero where nothing was written. -/
def StripSt.word (y : StripSt) (view tile k : Nat) : Word32 :=
  ((y.colour.find? fun c => c.1 == view && c.2.1 == tile && c.2.2.1 == k).map (·.2.2.2)).getD 0

/-- Colour bytes of a tile, then its coverage mask. -/
def StripSt.tileBytes (y : StripSt) (view tile : Nat) : List Byte :=
  ((List.range (256 * y.vs.cwords)).flatMap fun k => bytesOf 4 (y.word view tile k).toNat)
    ++ (List.range 32).map fun b => BitVec.ofNat 8 ((List.range 8).foldl (fun a i =>
        a + if y.cover.contains (view, tile, 8 * b + i) then 2 ^ i else 0) 0)

/-- The latch of a strip in a view. -/
def Stream.latch (t : Stream) (y : StripSt) (v : Nat) : Option Latch :=
  t.latches.find? fun l => l.key == y.key && l.strip == y.s && l.view == v

/-- Peripheral tiles of a strip: view, its record, latch, column and row. -/
def Stream.peripherals (t : Stream) (y : StripSt) : List (Nat × View × Latch × Nat × Nat) :=
  y.vs.views.zipIdx.flatMap fun (w, v) =>
    match t.latch y v with
    | none => []
    | some l => ((y.vs.tilesOf y.s).filter fun (i, j) => (RasterAt.mk y.vs v l y.s).peripheral i j).map fun (i, j) => (v, w, l, i, j)

/-- The reconstruction warps of a strip. -/
def State.reconWarps (s : State) (t : Stream) (y : StripSt) : State :=
  match y.vs.recon, t.peripherals y with
  | none, _ | _, [] => s
  | some x, ps =>
    let (lid, s) := s.templateLaunch t x ps.length
    ps.zipIdx.foldl (fun s ((v, w, l, i, j), n) =>
      let tile := j * (y.vs.nx / 16) + i
      let (id, s) := s.drawWord
      let (sid, s) := s.templateWarp lid .recon n (id.setWidth 32) (24 * w.cluster, 24) [i, j, v, y.f]
        (Bytes.putN [] 0 (y.tileBytes v tile)) fun w => w.gazed l.gaze
      let vw : VWarp := { VWarp.new sid .recon y.key with strip := y.s, view := v, tile := tile }
      s.modStream t.id fun t => { t with warps := t.warps ++ [vw] }) s

/-- A warp of a strip is left. -/
def Stream.busy (t : Stream) (y : StripSt) (k : WarpKind) : Bool :=
  t.warps.any fun w => w.kind == k && w.key == y.key && w.strip == y.s

/-- A strip whose fragment warps have all finished. -/
def Stream.shaded (t : Stream) (y : StripSt) : Bool := t.rastered y && !y.dead && !y.keysReset && !t.busy y .fragment

/-- STRIP_KEY_RESET: a strip of that number whose fragment warps have all finished. -/
def execStripKeyReset (stream strip : Nat) (s : State) : Host.Outcome State Fault Refusal :=
  match s.stream stream with
  | none => .next s
  | some t => match t.strips.find? fun y => y.s == strip && t.shaded y with
    | none => .next s
    | some y => .next ((((s.serve .backEnd t y.vs).resetKeys t y).reconWarps t y).modStrip stream y.key strip fun y =>
        { y with keysReset := true, lids := [] })

/-- When a reconstruction warp retires, its colour bytes return to the tile (R392). -/
def StripSt.rebuilt (y : StripSt) (x : VWarp) (scr : Bytes) : StripSt :=
  let ws := wordsOf (256 * y.vs.cwords) (scr.getN 0 (1024 * y.vs.cwords))
  { y with colour := (y.colour.filter fun c => !(c.1 == x.view && c.2.1 == x.tile))
      ++ (ws.zipIdx.filter fun (w, _) => w != 0).map fun (w, k) => (x.view, x.tile, k, w) }

/-! ## Lens correction (R393) -/

/-- The four channels of a sample's colour words, in binary32. -/
def channels (W : Nat) (w : List Word32) : List Word32 :=
  match W with
  | 1 => (List.range 4).map fun k => fput (E4M3.value ((nthW w 0).toNat / 256 ^ k % 256), 0)
  | 2 => (List.range 4).map fun k => fput (F16.value ((nthW w (k / 2)).toNat / 65536 ^ (k % 2) % 65536), 0)
  | _ => w.take 4

/-- An integer clamped to a range. -/
def clampIdx (lo hi : Nat) (x : Int) : Nat := min hi (max (lo : Int) x).toNat

/-- An output channel as a byte. -/
def outByte (c : Word32) : Nat :=
  if (fv c).isNan || fle c 0 then 0 else if fle 0x3F800000 c then 255 else (frne (fmul c (fint 255))).toNat

/-- A display pixel from its map entry: R, G, B, A from the low byte. -/
def VsRec.pixel (r : VsRec) (strip : Nat) (h v : Segs) (word : Nat → Nat → Word32) (e : Word64) : Word32 :=
  let tx := e.extractLsb' 0 32
  let ty := e.extractLsb' 32 32
  if !finite tx || !finite ty then 0
  else
    let px := fsub (h.fwd tx) 0x3F000000
    let py := fsub (v.fwd (fneg ty)) 0x3F000000
    if !finite px || !finite py then 0
    else
      let x0 := ffloor px
      let y0 := ffloor py
      let fx := fsub px (fint x0)
      let fy := fsub py (fint y0)
      let gx := fsub 0x3F800000 fx
      let gy := fsub 0x3F800000 fy
      let rows := r.ny / r.nstrip
      let c (dx dy : Int) : List Word32 :=
        let x := clampIdx 0 (r.nx - 1) (x0 + dx)
        let y := clampIdx (strip * rows) ((strip + 1) * rows - 1) (y0 + dy)
        channels r.cwords ((List.range r.cwords).map fun j => word (r.tileOf x y) (r.cwords * inTile x y + j))
      let out (k : Nat) : Nat :=
        let a (gx gy : Word32) (p : List Word32) : Word32 := fmul (fmul gx gy) (nthW p k)
        outByte (fadd (fadd (a gx gy (c 0 0)) (a fx gy (c 1 0))) (fadd (a gx fy (c 0 1)) (a fx fy (c 1 1))))
      BitVec.ofNat 32 (out 0 + 256 * out 1 + 65536 * out 2 + 16777216 * out 3)

/-- Display tiles of a strip in one view, by row, then column. -/
def VsRec.dispTiles (r : VsRec) (k : Nat) : List (Nat × Nat) :=
  let rows := r.dy / (16 * r.nstrip)
  (List.range rows).flatMap fun j => (List.range (r.dx / 16)).map fun i => (i, k * rows + j)

/-- Pixels of a display tile of a strip: each from its entry of the map `m` of the strip's rows, none where the entry could not be
read. -/
def VsRec.tilePixels (r : VsRec) (m : List (Option Word64)) (strip col row : Nat) (h v : Segs) (word : Nat → Nat → Word32) :
    List (Option Word32) :=
  (List.range 256).map fun k =>
    let X := 16 * col + k % 16
    let Y := 16 * row + k / 16 - strip * (r.dy / r.nstrip)
    ((m[Y * r.dx + X]?).bind fun e => e).map (r.pixel strip h v word)

/-- Compute one display tile of a strip: none, counted in counter 9, when an entry of the map could not be read (R393), or when its check values
fail at the handoff (R495). -/
def StripSt.lensTile (y : StripSt) (v : Nat) (l : Latch) (i j : Nat) : Option DTile :=
  let px := y.vs.tilePixels (y.map.getD v []) y.s i j l.h l.vseg (y.word v)
  if px.any Option.isNone || y.bad.contains (v, i, j) then none
  else some ⟨v, i, j, px.filterMap fun p => p, false, false, BitVec.ofNat 32 y.f, false⟩

/-- The display tile that lens correction computes next, in the order of views, rows and columns (Table 12.7, log entry 100), with the latch of its
view. -/
def Stream.nextTile (t : Stream) (y : StripSt) : Option (Nat × Latch × Nat × Nat) :=
  let v := y.lens / y.vs.viewTiles
  match t.latch y v, (y.vs.dispTiles y.s)[y.lens % y.vs.viewTiles]? with
  | some l, some (i, j) => some (v, l, i, j)
  | _, _ => none

/-- Bytes of one history entry, and its place in the buffer: view by view, strip by strip, which is the model's own order, since the
layout is not architectural (log entry 76). -/
def VsRec.histSize (r : VsRec) : Nat := r.nx * (r.ny / r.nstrip) * 4 * r.cwords + 512
def VsRec.histAt (r : VsRec) (v k : Nat) : Nat := r.hist + (v * r.nstrip + k) * r.histSize

/-- Store `n` doublewords of an entry, which are free; none once one cannot be stored. -/
def State.histPut (s : State) (ctx a : Nat) : Nat → Option (List Byte) × State
  | 0 => (some [], s)
  | n + 1 =>
    match s.translate ⟨ctx, none, none⟩ a 8 Need.write with
    | (.error _, s) => (none, s)
    | (.ok t, s) =>
      let (x, s) := s.drawWord
      let s := (s.touch 0 t).putBytes ⟨ctx, none, none⟩ none t (bytesOf 8 x.toNat) false
      match State.histPut s ctx (a + 8) n with
      | (some l, s) => (some (bytesOf 8 x.toNat ++ l), s)
      | (none, s) => (none, s)

/-- The history entries that a strip leaves (R395): its colour, then the segments, go over the entry of each view. A strip whose
dimensions are no longer those of the stream leaves none (R370). -/
def State.remember (s : State) (t : Stream) (y : StripSt) : State :=
  if t.cur.any fun r => r.dims != y.vs.dims then s
  else (List.range y.vs.views.length).foldl (fun s v =>
    match t.latch y v with
    | none => s
    | some l =>
      let a := y.vs.histAt v y.s
      let (img, s) := s.histPut t.ctx a (y.vs.histSize / 8)
      let new := Hist.mk v y.s y.f a img ((y.colour.filter (·.1 == v)).map (·.2)) l.h l.vseg
      s.modStream t.id fun t => { t with hist := new :: t.hist.filter fun h => !(h.view == v && h.strip == y.s) }) s

/-- A strip of the stream whose check instant has come and which has not been checked: its substitutes show the history as it stood
then, so it comes first (R398). -/
def Stream.checkDue (t : Stream) (time : Nat) : Bool := t.strips.any fun z => !z.checked && decide (z.vs.checkAt z.f z.s ≤ time)

/-- A strip whose reconstruction warps have all retired, and whose lens correction is not over. -/
def Stream.rebuilt (t : Stream) (y : StripSt) : Bool := y.keysReset && !y.dead && !y.corrected && !t.busy y .recon

/-- A strip's colour goes into the history now: from when it is complete on, and at the latest once its last display tile is computed; the moment
is free (R395, Tables 15.10 and 15.12, log entry 36). -/
def State.copyNow (s : State) (y : StripSt) : Bool × State :=
  if y.lensed then (false, s) else if y.vs.stripTiles ≤ y.lens then (true, s) else s.drawBool

/-- LENS_CORRECTION_START: lens correction of a strip of that number computes the next display tile, or copies the strip's colour into the
history. A tile handed over before T(f, s) is finished; a later one is discarded (R397). -/
def execLensCorrectionStart (stream strip : Nat) (s : State) : Host.Outcome State Fault Refusal :=
  match s.stream stream with
  | none => .next s
  | some t => match t.strips.find? fun y => y.s == strip && t.rebuilt y with
    | none => .next s
    | some y =>
      if t.checkDue (now s) then .next s
      else
        let (copy, s) := (s.serve .backEnd t y.vs).copyNow y
        if copy then .next ((s.remember t y).modStrip stream y.key strip fun y => { y with lensed := true })
        else
          let tile := (t.nextTile y).bind fun (v, l, i, j) => y.lensTile v l i j
          let s := if (t.nextTile y).isSome && tile.isNone then s.countStream stream 9 1 else s
          .next (s.modStrip stream y.key strip fun y =>
            { y with lens := y.lens + 1, tiles := if y.checked then y.tiles else y.tiles ++ tile.toList })

/-! ## Substitutes (R397, R398) -/

/-- Colour word of a history entry. -/
def Hist.word (h : Hist) (tile k : Nat) : Word32 :=
  ((h.colour.find? fun c => c.1 == tile && c.2.1 == k).map (·.2.2)).getD 0

/-- A history entry as the back end finds it: bad when a check value fails (R495), good when its bytes are those that were stored. -/
def State.histGet (s : State) (ctx : Nat) (h : Hist) : (Bool × Bool) × State :=
  match h.img with
  | none => ((false, false), s)
  | some l =>
    (dwordsOf (l.length / 8) l).zipIdx.foldl (fun (((bad, good), s) : (Bool × Bool) × State) (x, k) =>
      match s.readDw ctx (h.addr + 8 * k) with
      | (.ok y, s) => ((bad, good && x == y), s)
      | (.error e, s) => ((bad || e.1 == 0x29, false), s)) ((false, true), s)

/-- The substitute of a display tile from a history entry; a pixel is free where its map entry cannot be read, and everywhere once a
store has changed the entry (R395). -/
def State.substitute (s : State) (y : StripSt) (m : List (Option Word64)) (hist : Option (Hist × Bool)) (v col row : Nat) : DTile × State :=
  match hist with
  | none => (⟨v, col, row, List.replicate 256 0, true, true, 0xFFFFFFFF, false⟩, s)
  | some (h, good) =>
    let px := (y.vs.tilePixels m y.s col row h.h h.vseg h.word).map fun p => if good then p else none
    let (l, s) := px.foldl (fun ((l, s) : List Word32 × State) p =>
      match p with
      | some x => (l ++ [x], s)
      | none => let (x, s) := s.drawWord; (l ++ [x.setWidth 32], s)) (([] : List Word32), s)
    (⟨v, col, row, l, true, false, BitVec.ofNat 32 h.frame, false⟩, s)

/-- The entry of a view for the substitutes of a strip: none when there is none, or when it fails its check. -/
def State.histFor (s : State) (t : Stream) (y : StripSt) (v : Nat) : Option (Hist × Bool) × State :=
  match t.hist.find? fun h => h.view == v && h.strip == y.s with
  | none => (none, s)
  | some h =>
    let ((bad, good), s) := s.histGet t.ctx h
    (if bad then none else some (h, good), s)

/-- CHECK_INSTANT: at T(f, s) every unfinished tile of a strip of that number is substituted. -/
def execCheckInstant (stream strip : Nat) (s : State) : Host.Outcome State Fault Refusal :=
  match s.stream stream with
  | none => .next s
  | some t => match t.strips.find? fun y => y.s == strip && !y.checked && decide (y.vs.checkAt y.f y.s ≤ now s) with
    | none => .next s
    | some y =>
      let (subs, s) := (List.range y.vs.views.length).foldl (fun ((l, s) : List DTile × State) v =>
        -- a strip that has not begun in a view finds the map as it stands now (log entry 76)
        let (m, s) := if y.starts v then (y.map.getD v [], s) else s.readMap t.ctx y.vs strip v
        let todo := (y.vs.dispTiles y.s).filter fun (i, j) => !y.tiles.any fun d => d.view == v && d.col == i && d.row == j
        let (h, s) := s.histFor t y v
        todo.foldl (fun ((l, s) : List DTile × State) (i, j) =>
          let (d, s) := s.substitute y m h v i j
          (l ++ [d], s)) (l, s)) (([] : List DTile), s)
      let s := (s.countStream stream 4 subs.length).countStream stream 5 (subs.filter (·.blank)).length
      .next (s.modStrip stream y.key strip fun y => { y with checked := true, tiles := y.tiles ++ subs })

/-! ## Tile packets (R396) -/

/-- The packet of a tile, as the port gets it: source and destination port, destination address, payload. -/
def Stream.packet (t : Stream) (y : StripSt) (w : View) (d : DTile) (time : Word64) : List Byte :=
  let gseq := ((t.latch y d.view).map (·.gaze.seq)).getD 0
  let head := bytesOf 4 0x01015442 ++ bytesOf 4 (t.num + 256 * d.view) ++ bytesOf 4 y.f
    ++ bytesOf 4 (y.s + 16 * b2n d.late + 32 * b2n d.blank) ++ bytesOf 2 d.col ++ bytesOf 2 d.row ++ bytesOf 4 gseq.toNat
    ++ bytesOf 8 (y.vs.latchAt y.f y.s) ++ bytesOf 8 time.toNat ++ bytesOf 8 (y.vs.deadline y.f y.s) ++ bytesOf 4 d.src.toNat
    ++ bytesOf 4 0
  let body := d.pix.flatMap fun p => bytesOf 4 p.toNat
  bytesOf 2 y.vs.udp ++ bytesOf 2 w.dport ++ (bytesOf 16 w.addr.toNat).reverse
    ++ head ++ bytesOf 4 (crc32c (head ++ body)).toNat ++ bytesOf 4 0 ++ body

/-- Display tile number `tile` of a view, row by row, that has not departed. -/
def StripSt.isTile (y : StripSt) (view tile : Nat) (d : DTile) : Bool :=
  d.view == view && d.row * (y.vs.dx / 16) + d.col == tile && !d.gone

/-- The tiles of a number that may depart, of every strip of a number whose deadline is not past. -/
def Stream.departing (t : Stream) (strip view tile time : Nat) : List (StripSt × DTile × View) :=
  t.strips.filterMap fun y =>
    if y.s == strip && decide (time ≤ y.vs.deadline y.f y.s) then
      (y.tiles.find? (y.isTile view tile)).bind fun d => (y.vs.views[view]?).map fun w => (y, d, w)
    else none

/-- TILE_DEPART: a tile of a strip of that number departs, no later than D(f, s); of several strips' in any order (R397). It is discarded at a
port whose link is down (R496). -/
def execTileDepart (stream strip view tile : Nat) (s : State) : Host.Outcome State Fault Refusal :=
  match s.stream stream with
  | none => .next s
  | some t => match s.pick (t.departing strip view tile (now s)) with
    | (none, s) => .next s
    | (some (y, d, w), s) =>
      let s := if s.hears y.vs.port then s.send (.tile y.vs.port (t.packet y w d s.io.time.timebase)) else s
      .next (s.modStrip stream y.key strip fun z => { z with tiles := updIf (y.isTile view tile) (fun d => { d with gone := true }) z.tiles })

/-! ## The end of strips and frames -/

/-- A strip over which nothing is left to do. -/
def StripSt.over (y : StripSt) : Bool := (y.dead || y.corrected) && y.checked && y.tiles.all (·.gone)

/-- A frame whose strips have all been rasterised, and whose warps have gone. -/
def Stream.frameOver (t : Stream) (x : FrameSt) : Bool :=
  x.latched == x.vs.nstrip && !t.warps.any (·.key == x.key) && t.strips.all fun y => y.key != x.key || t.rastered y || y.dead

/-- What is over goes. -/
def Stream.tidy (t : Stream) : Stream :=
  { t with frames := t.frames.filter fun x => !t.frameOver x, strips := t.strips.filter fun y => !y.over }

/-! ## The draw watchdog (R493) -/

/-- A draw of a frame has not finished: a warp of it is left or still to be launched, or a strip that may hold fragments of it has not been
rasterised. -/
def Stream.drawLeft (t : Stream) (x : FrameSt) (d : Draw) : Bool :=
  (x.draws.drop x.nd).contains d
    || t.warps.any (fun w => w.key == x.key && w.draw == d.idx && (w.kind == .mesh || w.kind == .fragment))
    || (x.prims.any (·.draw == d.idx) && (decide (x.latched < x.vs.nstrip) || t.strips.any fun y => y.key == x.key && !t.rastered y))

/-- The draw that has exceeded its allowance. -/
def Stream.late (t : Stream) (time : Nat) : Option (Nat × Nat) :=
  t.frames.findSome? fun x => match x.begun with
    | none => none
    | some b =>
      if x.dead || time ≤ b + 2 * x.vs.frame then none
      else (x.draws.find? (t.drawLeft x)).map fun d => (x.f, d.idx)

/-- Reset a stream's graphics work. -/
def State.resetStream (s : State) (t : Stream) : State :=
  let keys := s.mem.keys.filter fun k => t.strips.any fun y => y.ownsKey t.ctx k
  let s := s.setMem { s.mem with keys := s.mem.keys.filter fun k => !keys.contains k }
  let s := ((s.launches.filter (·.view == some t.id)).map (·.lid)).foldl (fun s l => s.discardLaunch l) s
  let s := s.modStream t.id fun t => (Stream.tidy { t with
    warps := [], pend := []
    frames := t.frames.map fun x => { x with dead := true, prims := [], lid := 0 }
    strips := t.strips.map fun y => { y with dead := true, colour := [], cover := [], counts := [], keys := [], lids := [] }
    checks := [], on := []
    nextF := match t.cur with | some r => max t.nextF (r.firstFrom (now s + 1)) | none => t.nextF }).reserve
  t.pend.foldl (fun s p => s.failPacket p.q p.n 5 []) s

/-- DRAW_WATCHDOG. -/
def execDrawWatchdog (stream : Nat) (s : State) : Host.Outcome State Fault Refusal :=
  match s.stream stream with
  | none => .next s
  | some t => match t.late (now s) with
    | none => .next s
    | some (f, d) =>
      .next ((s.resetStream t).event ⟨0x0A, t.ctx, 0, 0, t.num, 0, [at_ (f % 2 ^ 32) 0 ||| at_ d 32, at_ 0x38 0], []⟩)

end Sys2Proof.Machine
end

