-- ==== Sys2Proof/Machine/Repair.lean ====
section
/-! DEFINITION. Power, engine repair, array errors and in-field test (R20, R24, R25, R478, R490 to R492, R515 to R521). -/

namespace Sys2Proof.Machine

/-! ## Power (R24) -/

/-- The package limit of 2,800 W in milliwatts: what the compute dies together, the stacks and the I/O die have of it. -/
def powerBudgets : Nat × Nat × Nat := (2240000, 320000, 240000)

/-- A compute die's share of the budget of the eight (log entry 31). -/
def dieShare : Nat := powerBudgets.1 / 8

/-- POWER_SAMPLE, once per 10 µs for each compute die: one above its share is throttled one measure further, matrix engines first,
then vector pipes; within its share it is not throttled. Throttling lengthens time only. -/
def execPowerSample (die milliwatts : Nat) (s : State) : Host.Outcome State Fault Refusal :=
  let f (n : Nat) : Nat := if dieShare < milliwatts then min 2 (n + 1) else 0
  let soon := match s.cores.sampled[die]? with
    | some (some t) => decide (now s < t + 10000)
    | some none => false
    | none => true
  .next (if soon then s else { s with cores := { s.cores with
    throttle := s.cores.throttle.modify die f, sampled := s.cores.sampled.set die (some (now s)) } })

/-! ## Engines (R492) -/

/-- Engines of a kind on a die or stack: 1,024 bank engines of a stack (R135), 12 ray engines (R16) and the copy engines of 144 cores
(R17) of a compute die. -/
def engineUnits (kind : Nat) : Nat := if kind = 0 then 1024 else if kind = 1 then 12 else if kind = 2 then 144 else 0

/-- ENGINE_STALL: the engine is numbered as event 0x09 names it: kind, die or stack, unit. A bank engine stays failed until the next
start, and the next bank's serves its rows; a copy or ray engine is reset. Work goes on as before. -/
def execEngineStall (engine : Nat) (s : State) : Host.Outcome State Fault Refusal :=
  let kind := engine % 8
  let die := engine / 2 ^ 8 % 2 ^ 8
  let unit := engine / 2 ^ 16 % 2 ^ 16
  let known := s.cores.banks.contains (die, unit)
  if engineUnits kind ≤ unit ∨ 8 ≤ die ∨ (kind = 0 ∧ known) then .next s
  else
    let s := if kind = 0 then { s with cores := { s.cores with banks := s.cores.banks ++ [(die, unit)] } } else s
    .next (s.event ⟨0x09, 0, 0, 0, 0, 0, [at_ kind 0 ||| at_ die 8 ||| at_ unit 16], []⟩)

/-! ## Uncorrectable errors (Table 19.4, R478) -/

/-- Poison n aligned words from an address. -/
def State.poisonWords (s : State) (pa n : Nat) : State :=
  s.setMem { s.mem with psn := (List.range n).foldl (fun l k => psnSet l (pa + 4 * k)) s.mem.psn }

/-- A stored sector is poisoned, or the whole of a compressed line. -/
def State.poisonSector (s : State) (pa : Nat) : State :=
  if s.mem.tagOf pa = 0 then s.poisonWords (pa / 32 * 32) 8 else s.poisonWords (pa / 128 * 128) 32

/-- A launch fails for an uncorrectable error (R480, R516). -/
def State.lidError (s : State) (lid src : Nat) : State :=
  match s.launch lid with
  | none => s
  | some l =>
    let (a, s) := s.drawWord
    let (x, s) := s.drawWord
    s.failLaunch lid 1 [faultDesc 0x28 src l.ctx 0 0 0 a x]

/-- An error in a sheaf's control state, compare buffer, pair log or store buffer is consumed by a pair or a clean restartable sheaf;
else the launch fails. -/
def State.sheafError (s : State) (sid : Nat) : State :=
  match s.sheaf sid with
  | none => s
  | some h => if s.consumes sid then s.consume sid else s.lidError h.lid 0

/-- A byte of an uncompressed line changes, and the check value of its chunk stays that of the bytes before. -/
def Mem.changed (m : Mem) (pa : Nat) (b : Byte) : Mem :=
  if m.tagOf pa != 0 then m
  else
    let k := (m.keyOf pa).getD 0
    let old := crc32c ((List.range 64).map fun i => m.stored ((m.keyOf (pa / 64 * 64 + i)).getD 0) (pa / 64 * 64 + i))
    let m1 := m.store k pa b
    let new := crc32c ((List.range 64).map fun i => m1.stored ((m1.keyOf (pa / 64 * 64 + i)).getD 0) (pa / 64 * 64 + i))
    let was := ((m.badck.find? (·.1 == pa / 64)).map (·.2)).getD old
    { m1 with badck := if was = new then m1.badck.filter (·.1 != pa / 64) else upsert (·.1 == pa / 64) (pa / 64, was) m1.badck }

/-- Lanes whose read set or write set holds a line (R470). -/
def Tx.holding (t : Tx) (line : Nat) : Mask :=
  maskOf fun i => t.reads.any (fun r => r.1 == i && r.2.1 / 128 == line) || t.writes.any fun x => x.lane == i && x.addr / 128 == line

/-- A word of an RTRACE that its ray engine holds is lost (R478, R492): a payload word takes tag 15; one of the ray itself makes the words of the
records so. -/
def HkEntry.rayError (e : HkEntry) (k : Nat) : HkEntry :=
  match e.instr with
  | .rtrace _ _ gen .. =>
    if k < rayRegs gen then { e with psn := [true] }
    else { e with scal := if 4 + (k - rayRegs gen) < e.scal.length then e.scal.set (4 + (k - rayRegs gen)) 15 else e.scal }
  | _ => e

/-- The check values of a display tile, by view, column and row, no longer match, in the first strip that has still to hand it over (R495). -/
def Stream.tileError (t : Stream) (d : Nat × Nat × Nat) : Stream :=
  let due (y : StripSt) : Bool := !y.dead && !y.corrected && (y.vs.dispTiles y.s).contains d.2 && !y.tiles.any fun x => (x.view, x.col, x.row) == d
  match t.strips.find? due with
  | some z => { t with strips := updIf (fun y => y.key == z.key && y.s == z.s) (fun y => { y with bad := d :: y.bad }) t.strips }
  | none => t

/-- What an error in an array does, by the array's number: 0 a vector register (address vw × 256 + register); 1 an accumulator (vw
× 16 + tile); 2 a warp's control state (vw); 3 a scratchpad word (sid × 2^25 + byte); 4 a line of L1 or of an instruction cache; 5 an
L2 sector, 6 a stack sector, 7 a metadata tag (physical address); 8 a work queue (lid × 256 + queue); 9 a graph counter (context ×
4096 + instance); 10 a glume entry (its place among the entries); 11 chaff records, deferred arrivals, race tables, the
range-task store or a winnower bin (lid); 12 a compare buffer or pair log, 13 a store buffer (sid); 14 a word that an
engine holds (physical address); 15 a line in a warp's transaction sets, or a value recorded
of it (vw × 2^49 + line of its virtual address; R470); 16 a piece of a saved
image (sid; R424); 17 a byte that changes on its way to or in memory with no array noticing (physical address; R138), 18 the same of a
word in a vector register, as of a faulty lane (vw × 2^13 + register × 32 + lane; R505), 19 of a saved image (sid; R424); 20 a word that a
ray engine holds for a transfer (vw × 2^21 + sequence number × 32 + data slot; R492); 21 a display tile on its way to the serialiser
(stream × 2^40 + view × 2^32 + row × 2^16 + column; R495). The manual numbers no array: log entry 16. -/
def State.arrayError (s : State) (arr addr : Nat) : State :=
  match arr with
  | 0 => s.modWarp (addr / 256) fun w => { w with v := w.v.modify (addr % 256) fun r => { r with tag := 15 } }
  | 1 => s.modWarp (addr / 16) fun w => { w with acc := w.acc.modify (addr % 16) fun a => { a with tag := 15 } }
  | 2 => match s.warp addr with | some w => s.sheafError w.ident.sid | none => s
  | 3 => s.modSheaf (addr / 2 ^ 25) fun h => { h with psn := psnSet h.psn (addr % 2 ^ 25) }
  | 5 | 6 => s.poisonSector addr
  | 7 => s.poisonWords (addr / 128 * 128) 32
  | 8 => match s.launch (addr / 256) with
    | some l =>
      s.queueLost l (addr % 256)
    | none => s
  | 9 => s.counterError (addr / 4096) (addr % 4096)
  | 10 => match s.mem.keys[addr]? with | some k => s.poisonKey k 2 | none => s
  | 11 => s.lidError addr 2
  | 12 | 13 => s.sheafError addr
  | 14 => s.poisonWords (addr / 4 * 4) 1
  | 15 => s.modWarp (addr / 2 ^ 49) fun w => w.abortNow (w.tx.holding (addr % 2 ^ 49)) 0x08
  | 16 => s.modSheaf addr fun h => { h with img := if h.pieces.isEmpty then h.img else some 0x28 }
  | 17 =>
    let (x, s) := s.drawWord
    s.setMem (s.mem.changed addr (x.setWidth 8))
  | 18 =>
    let (x, s) := s.drawWord
    s.modWarp (addr / 2 ^ 13) fun w => { w with v := w.v.modify (addr / 32 % 256) fun r =>
      { r with x := Lanes.of fun i => if i = addr % 32 then x.setWidth 32 else Lanes.get r.x i } }
  | 19 => s.modSheaf addr fun h => { h with img := if h.pieces.isEmpty then h.img else h.img.or (some 0x29) }
  | 20 => s.modWarp (addr / 2 ^ 21) (·.modEntry (BitVec.ofNat 16 (addr / 32)) fun e => e.rayError (addr % 32))
  | 21 => s.modStream (addr / 2 ^ 40) (·.tileError (addr / 2 ^ 32 % 64, addr % 2 ^ 16, addr / 2 ^ 16 % 2 ^ 16))
  | _ => s

/-- UNCORRECTABLE_ERROR. -/
def execUncorrectableError (arr addr : Nat) (s : State) : Host.Outcome State Fault Refusal := .next (s.arrayError arr addr)

/-- PATROL_SCRUB: corrected sectors are written back; a corrected error has no architectural effect (R515). -/
def execPatrolScrub (s : State) : Host.Outcome State Fault Refusal := .next s

/-! ## In-field test (R517 to R521) -/

/-- Cores that a test packet's body names, ascending (Table 19.7). -/
def testCores (x : Word64) : List Nat :=
  let cl := fld x 5 0
  let all := if cl = 63 then List.range 48 else [cl]
  all.flatMap fun c => ((List.range 24).filter fun k => x.getLsbD (8 + k)).map fun k => 24 * c + k

/-- The body of a test packet keeps to Table 19.7. -/
def testBodyOk (b : List Word64) : Bool :=
  let x := b.getD 2 0
  let cl := fld x 5 0
  let op := fld x 7 6
  let pkg := (b.getD 0 0).toNat
  (decide (cl < 48) || cl == 63) && decide (op < 2)
    && (op == 1 || (decide (pkg % 64 = 0) && decide ((b.getD 1 0).toNat ≤ 2 ^ 26)))

/-- The header of a package of a length keeps to Table 19.6, for the running firmware. -/
def packageOk (w : List Word64) (len version : Nat) : Bool :=
  let x (k : Nat) : Word64 := w.getD k 0
  let nvec := fld (x 1) 63 32
  let vlen := fld (x 2) 63 32
  fld (x 0) 31 0 == 0x4B544644 && fld (x 0) 47 32 == 1 && decide (fld (x 0) 49 48 < 3) && fld (x 0) 63 50 == 0
    && decide (1 ≤ nvec ∧ nvec ≤ 2 ^ 20) && vlen % 64 == 0 && ((w.drop 3).take 5).all (· == 0)
    && len == 128 + nvec * vlen && decide (fld (x 2) 31 0 ≤ version)

/-- The signature at a package's end verifies (R519). -/
def packageSigned (l : List Byte) : Bool :=
  let n := l.length - 64
  Config.ecdsaVerify Config.firmwareKey (Config.sha256 (l.take n)) (BitVec.ofNat 512 (ofBytes (l.drop n)))

/-- A core's result record (Table 19.8). -/
def State.testRecord (s : State) (core : Nat) (test pass skip : Bool) (id : Word32) : List Word64 :=
  [at_ (b2n test) 0 ||| at_ (b2n pass) 1 ||| at_ (b2n (s.cores.out.contains core)) 2 ||| at_ (b2n skip) 3 ||| at_ id.toNat 32,
   ((s.cores.maps.find? (·.1 == core)).map (·.2)).getD 0]

/-- The result area of a packet that names `k` cores passes the checks of R122; else the packet is rejected with reason 15 (R485). -/
def State.resultOk (s : State) (ctx result k : Nat) : Bool :=
  (List.range (4 * k)).all fun j => match (s.translate ⟨ctx, none, none⟩ (result + 4 * j) 4 Need.write).1 with
    | .ok _ => true
    | .error _ => false

/-- Write record number k of a test packet's result area. The area has passed its checks when the packet started; a record whose access fails
later is not written, and the packet goes on (R486 has no failure for it; log entry 114, DESIGN CHOICE). -/
def State.testWrite (s : State) (ctx result k : Nat) (w : List Word64) : State :=
  match s.storeBytes ctx (result + 16 * k) (quads (w.flatMap fun x => bytesOf 8 x.toNat)) with
  | (.ok s, _) => s
  | (.error _, s) => s

/-- Records of cores that are only reported. -/
def State.testReports (s : State) (q n ctx result : Nat) : List Nat → Nat → State
  | [], _ => s.completePacket q n 0
  | c :: r, k => (s.testWrite ctx result k (s.testRecord c false false false 0)).testReports q n ctx result r (k + 1)

/-- A core that holds strip stores of a stream, or is out of service, is skipped (R521). -/
def State.testSkips (s : State) (core : Nat) : Bool := s.strips core || s.cores.out.contains core

/-- Go to the next core to test: cores to skip get their records; placement on the next one stops; with none left the packet
completes. -/
def State.testNext (s : State) (q n ctx op : Nat) (id : Word32) (result : Nat) : List Nat → Nat → State
  | [], _ => s.completePacket q n 0
  | c :: r, k =>
    if s.testSkips c then (s.testWrite ctx result k (s.testRecord c false false true id)).testNext q n ctx op id result r (k + 1)
    else State.setKind { s with cores := { s.cores with test := c :: s.cores.test } } q n (.test op (c :: r) id result k)

/-- TEST_PACKAGE_APPLY: a package whose header, signature and firmware version pass is applied core by core. -/
def execTestPackageApply (q : Nat) (s : State) : Host.Outcome State Fault Refusal :=
  .next (s.startHead q (fun t b => t == 0x08 && fld (b.getD 2 0) 7 6 != 1) fun s n ctx b =>
    let len := (b.getD 1 0).toNat
    if !testBodyOk b then s.reject q n 14
    else match s.readDws ctx (b.getD 0 0).toNat ((len + 7) / 8) with
    | (.error _, s) => s.reject q n 15
    | (.ok w, s) =>
      let l := (w.flatMap fun x => bytesOf 8 x.toNat).take len
      if !packageOk w len s.io.start.version || !packageSigned l then s.reject q n 14
      else if !s.resultOk ctx (b.getD 3 0).toNat (testCores (b.getD 2 0)).length then s.reject q n 15
      else s.testNext q n ctx 0 ((w.getD 1 0).setWidth 32) (b.getD 3 0).toNat (testCores (b.getD 2 0)) 0)

/-- TEST_PACKAGE_REPORT: a record for each named core, without a test. -/
def execTestPackageReport (q : Nat) (s : State) : Host.Outcome State Fault Refusal :=
  .next (s.startHead q (fun t b => t == 0x08 && fld (b.getD 2 0) 7 6 == 1) fun s n ctx b =>
    if !testBodyOk b then s.reject q n 14
    else if !s.resultOk ctx (b.getD 3 0).toNat (testCores (b.getD 2 0)).length then s.reject q n 15
    else s.testReports q n ctx (b.getD 3 0).toNat (testCores (b.getD 2 0)) 0)

/-- The running test packet that is at a core: queue, packet, context, and its kind's fields. -/
def State.testAt (s : State) (core : Nat) : Option (Nat × Nat × Nat × Nat × List Nat × Word32 × Nat × Nat) :=
  s.cmd.queues.findSome? fun x => x.running.findSome? fun r => match r.kind with
    | .test op (c :: l) id result k => if c = core then some (x.q, r.n, x.ctx, op, l, id, result, k) else none
    | _ => none

/-- What a test finds is a free choice: that nothing fails, or the failing lanes of each pipe and whether another unit fails. -/
def State.testFinds (s : State) : Bool × BitVec 132 × Bool × State :=
  let (pass, s) := s.drawBool
  let (unit, s) := s.drawBool
  let (a, s) := s.drawWord
  let (b, s) := s.drawWord
  let (c, s) := s.drawWord
  (pass, (a ++ b ++ c).setWidth 132, unit, s)

/-- A core's repair state after its test: unchanged when it passes; else repaired, or out of service, by what failed (R517, R518). -/
def State.testCore (s : State) (core : Nat) : Bool × State :=
  let (pass, F, unit, s) := s.testFinds
  let old := ((s.cores.maps.find? (·.1 == core)).map (·.2)).getD 0
  let (new, dead) := laneRepair old F
  let maps := (s.cores.maps.filter (·.1 != core)) ++ [(core, new)]
  (pass, { s with cores := { s.cores with
    test := s.cores.test.filter (· != core)
    maps := if pass then s.cores.maps else maps.filter (·.2 != 0)
    out := if pass || !(dead || unit || F = 0) then s.cores.out else s.cores.out ++ [core] } })

/-- TEST_CORE: a vacated core, whose pieces of images move to the save reserve, is scanned and returns to placement; while the reserve has no
room for them it waits. -/
def execTestCore (core : Nat) (s : State) : Host.Outcome State Fault Refusal :=
  match s.testAt core with
  | none => .next s
  | some (q, n, ctx, op, l, id, result, k) =>
    if !(s.on core).isEmpty || !s.piecesMove 0 core 1 then .next s
    else
      let (pass, s) := (s.movePieces 0 core 1).testCore core
      .next ((s.testWrite ctx result k (s.testRecord core true pass false id)).testNext q n ctx op id result l (k + 1))

end Sys2Proof.Machine
end

