-- ==== Sys2Proof/Machine/Retire.lean ====
section
/-! DEFINITION. The end of sheaves and launches (R39, R67, R321, R323, R353, R392), SHEAF_RETIRE. -/

namespace Sys2Proof.Machine

/-- A warp has finished, and nothing of it is outstanding. -/
def Warp.over (w : Warp) : Bool := w.slot == .finished && w.husk.isEmpty && w.pipe.isEmpty

/-- A multicast fill on its way to a member of the sheaf (R315). -/
def State.fillDue (s : State) (h : Sheaf) : Bool :=
  match s.launch h.lid with
  | none => false
  | some l => s.warps.any fun w => w.ident.lid == h.lid && w.husk.any fun e => match e.instr with
      | .ckick .. =>
        let c := Copy.of e.scal
        c.mc && e.pend != 0 && e.chunks.any fun x => x.1 / l.r.wgs == h.idx && (x.2.1 != c.len || x.2.2 != c.len)
      | _ => false

/-- One copy of a sheaf is over (R39). -/
def State.copyOver (s : State) (h : Sheaf) : Bool :=
  h.state == .resident && !h.forming && h.stores.isEmpty && (s.warpsOf h.sid).all Warp.over && !(h.kind == .member && s.fillDue h)

/-- A sheaf may retire; a pair with both copies, when the trailing one has issued as much and neither has more to compare (R500). -/
def State.sheafOver (s : State) (h : Sheaf) : Bool :=
  s.copyOver h && match h.twin.bind s.sheaf with
    | none => true
    | some t => s.copyOver t && h.pair.fwd.isEmpty && !h.pair.bad
        && (s.twins h).all fun x => x.1.issued == x.2.issued

/-- Release the resources of one copy. -/
def State.release1 (s : State) (h : Sheaf) : State :=
  let s := s.dropWarps h.sid
  let s := s.setMem (s.mem.dropPins h.sid)
  if h.kind == .member then
    s.modSheaf h.sid fun h => { h with state := .retired, why := .none, scr := [], psn := [], bars := [], stores := [] }
  else { s with sheaves := s.sheaves.filter (·.sid != h.sid) }

/-- The stream of a template's sheaf learns of its end: a reconstruction warp's colour returns to its tile. -/
def Stream.warpDone (t : Stream) (h : Sheaf) : Stream :=
  match t.warps.find? (·.sid == h.sid) with
  | none => t
  | some x =>
    let strips := if x.kind == .recon then updIf (fun y => y.key == x.key && y.s == x.strip) (·.rebuilt x h.scr) t.strips else t.strips
    { t with warps := t.warps.filter (·.sid != h.sid), strips := strips }

/-- A launch of which nothing is left retires (R67). -/
def State.launchDone (s : State) (lid : Nat) : State :=
  match s.launch lid with
  | none => s
  | some l =>
    if l.state == .admitted && !s.streams.any (·.open lid) && l.tasks.isEmpty && l.pool.isEmpty && !s.cmd.bins.any (fun b => b.lid == lid && !b.tillers.isEmpty)
        && (s.sheaves.filter (·.lid == lid)).all (·.state == .retired) then s.retireLaunch lid
    else s

/-- Retire a sheaf and what hangs on it. -/
def State.retireSheaf (s : State) (sid : Nat) : State :=
  match s.sheaf sid with
  | none => s
  | some h =>
    if h.trail || !s.sheafOver h then s
    else
      let s := { s with streams := s.streams.map (Stream.warpDone · h) }
      let s := s.release1 h
      let s := match h.twin.bind s.sheaf with
        | some t => s.release1 t
        | none => s
      (s.pieceDone h.lid sid).launchDone h.lid

/-- SHEAF_RETIRE. -/
def execSheafRetire (sid : Nat) (s : State) : Host.Outcome State Fault Refusal := .next (s.retireSheaf sid)

end Sys2Proof.Machine
end

