-- ==== Sys2Proof/Machine/Scalar.lean ====
section
/-! DEFINITION. Scalar integer instructions, 0x10 to 0x1F (R223 to R225). -/

namespace Sys2Proof.Machine

/-- SADD (Table 7.3). -/
def execSadd (g : Guard) (d a : R8) (b : SB) (s : State) : Host.Outcome State Fault Refusal :=
  s.sop (.sadd g d a b) g d fun w => w.sc a + w.sb b

/-- SSUB (Table 7.3). -/
def execSsub (g : Guard) (d a : R8) (b : SB) (s : State) : Host.Outcome State Fault Refusal :=
  s.sop (.ssub g d a b) g d fun w => w.sc a - w.sb b

/-- SMUL (Table 7.3). -/
def execSmul (g : Guard) (d a : R8) (b : SB) (s : State) : Host.Outcome State Fault Refusal :=
  s.sop (.smul g d a b) g d fun w => w.sc a * w.sb b

/-- SMULH: bits [127:64] of the product, signed or unsigned (Table 7.3). -/
def execSmulh (g : Guard) (u : Bool) (d a b : R8) (s : State) : Host.Outcome State Fault Refusal :=
  s.sop (.smulh g u d a b) g d fun w =>
    if u then BitVec.ofNat 64 ((w.sc a).toNat * (w.sc b).toNat / 2 ^ 64)
    else BitVec.ofInt 64 ((w.sc a).toInt * (w.sc b).toInt / 2 ^ 64)

/-- SAND (Table 7.3). -/
def execSand (g : Guard) (d a : R8) (b : SB) (s : State) : Host.Outcome State Fault Refusal :=
  s.sop (.sand g d a b) g d fun w => w.sc a &&& w.sb b

/-- SOR (Table 7.3). -/
def execSor (g : Guard) (d a : R8) (b : SB) (s : State) : Host.Outcome State Fault Refusal :=
  s.sop (.sor g d a b) g d fun w => w.sc a ||| w.sb b

/-- SXOR (Table 7.3). -/
def execSxor (g : Guard) (d a : R8) (b : SB) (s : State) : Host.Outcome State Fault Refusal :=
  s.sop (.sxor g d a b) g d fun w => w.sc a ^^^ w.sb b

/-- SSHL (Table 7.3). -/
def execSshl (g : Guard) (d a : R8) (b : SB) (s : State) : Host.Outcome State Fault Refusal :=
  s.sop (.sshl g d a b) g d fun w => w.sc a <<< w.shamt b

/-- SSHR: logical (Table 7.3). -/
def execSshr (g : Guard) (d a : R8) (b : SB) (s : State) : Host.Outcome State Fault Refusal :=
  s.sop (.sshr g d a b) g d fun w => w.sc a >>> w.shamt b

/-- SSRA: arithmetic (Table 7.3). -/
def execSsra (g : Guard) (d a : R8) (b : SB) (s : State) : Host.Outcome State Fault Refusal :=
  s.sop (.ssra g d a b) g d fun w => (w.sc a).sshiftRight (w.shamt b)

/-- SMOV (Table 7.3). -/
def execSmov (g : Guard) (d a : R8) (s : State) : Host.Outcome State Fault Refusal :=
  s.sop (.smov g d a) g d fun w => w.sc a

/-- SMOVI: the sign-extended immediate (R224). -/
def execSmovi (g : Guard) (d : R8) (imm : BitVec 24) (s : State) : Host.Outcome State Fault Refusal :=
  s.sop (.smovi g d imm) g d fun _ => imm.signExtend 64

/-- SMOVI.mid: bits [47:24], the others kept (R224). -/
def execSmoviMid (g : Guard) (d : R8) (imm : BitVec 24) (s : State) : Host.Outcome State Fault Refusal :=
  s.sop (.smoviMid g d imm) g d fun w => (w.sc d &&& 0xFFFF000000FFFFFF) ||| at_ imm.toNat 24

/-- SMOVI.hi: bits [63:48], the others kept (R224). -/
def execSmoviHi (g : Guard) (d : R8) (imm : BitVec 16) (s : State) : Host.Outcome State Fault Refusal :=
  s.sop (.smoviHi g d imm) g d fun w => (w.sc d &&& 0x0000FFFFFFFFFFFF) ||| at_ imm.toNat 48

/-- The conditions of SCMP (R225). -/
def scmpHolds (cc : SCond) (a b : Word64) : Bool :=
  match cc with
  | .eq => a == b
  | .ne => a != b
  | .lt => a.slt b
  | .le => a.sle b
  | .gt => b.slt a
  | .ge => b.sle a
  | .ltu => a.ult b
  | .leu => a.ule b
  | .gtu => b.ult a
  | .geu => b.ule a

/-- SCMP: the predicate is written in full (R225). -/
def execScmp (g : Guard) (cc : SCond) (d a b : R8) (s : State) : Host.Outcome State Fault Refusal :=
  s.issue (.scmp g cc d a b) g [] fun s w _ =>
    .go s (w.pset d.toNat (BitVec.allOnes 32) (if scmpHolds cc (w.sc a) (w.sc b) then BitVec.allOnes 32 else 0)) false

/-- SSEL: sa when sc is not 0, else sb (Table 7.3). -/
def execSsel (g : Guard) (d a b c : R8) (s : State) : Host.Outcome State Fault Refusal :=
  s.sop (.ssel g d a b c) g d fun w => if w.sc c != 0 then w.sc a else w.sc b

/-- Leading zeros of a word. -/
def clzOf {n : Nat} (x : BitVec n) : Nat := if x = 0 then n else n - 1 - Nat.log2 x.toNat

/-- Set bits of a word. -/
def popOf {n : Nat} (x : BitVec n) : Nat := ((List.range n).filter x.getLsbD).length

/-- SCLZ (Table 7.3). -/
def execSclz (g : Guard) (d a : R8) (s : State) : Host.Outcome State Fault Refusal :=
  s.sop (.sclz g d a) g d fun w => BitVec.ofNat 64 (clzOf (w.sc a))

/-- SPOPC (Table 7.3). -/
def execSpopc (g : Guard) (d a : R8) (s : State) : Host.Outcome State Fault Refusal :=
  s.sop (.spopc g d a) g d fun w => BitVec.ofNat 64 (popOf (w.sc a))

end Sys2Proof.Machine
end

