-- ==== Sys2Proof/Machine/Sched.lean ====
section
/-! DEFINITION. The issue schedulers of a core (R54 to R57, R217). -/

namespace Sys2Proof.Machine

/-- Warps that a warp's scheduler serves (R54). -/
def State.sameScheduler (s : State) (a b : Warp) : Bool := s.coreOf a == s.coreOf b && a.wslot % 4 == b.wslot % 4 && s.mayRun b

/-- The scheduler of a warp takes it next (R57): no warp of the scheduler is in its turn, and no ready one has been ready longer. -/
def State.pickable (s : State) (w : Warp) : Bool :=
  w.slot == .ready && s.mayRun w &&
    (s.warps.filter (s.sameScheduler w)).all fun x => x.slot != .turn && (x.slot != .ready || decide (w.readyAt ≤ x.readyAt))

/-- SCHEDULER_PICK. -/
def execSchedulerPick (vw : Nat) (s : State) : Host.Outcome State Fault Refusal :=
  match s.warp vw with
  | none => .next s
  | some w =>
    if s.pickable w then .next { s.setWarp { w with slot := .turn, turnWords := 0, held := none } with focus := some vw } else .next s

/-- TURN_LIMIT: at a clause header, after 4,096 words of one turn (R55). -/
def execTurnLimit (vw : Nat) (s : State) : Host.Outcome State Fault Refusal :=
  match s.warp vw with
  | none => .next s
  | some w => if w.slot == .turn && !w.clause.inside && decide (4096 ≤ w.turnWords) then .next (s.putBack w.endTurn) else .next s

/-- A word of the warp has waited inside its clause for more than 256 cycles (R55, R56). -/
def State.waitedOut (s : State) (w : Warp) : Bool :=
  w.clause.inside && w.held.any fun t => decide (t + 256 < s.clockAt (s.coreOf w))

/-- CLAUSE_WAIT_TIMEOUT: a word that has waited too long inside its clause lets go of the scheduler (R56). -/
def execClauseWaitTimeout (vw : Nat) (s : State) : Host.Outcome State Fault Refusal :=
  match s.warp vw with
  | none => .next s
  | some w => if w.slot == .turn && s.waitedOut w then
      .next (s.putBack { w.endTurn with waits := { w.waits with full := w.huskFull } }) else .next s

/-- SLEEP_WAKE: the sleep time has elapsed (R217). -/
def execSleepWake (vw : Nat) (s : State) : Host.Outcome State Fault Refusal :=
  match s.warp vw with
  | none => .next s
  | some w =>
    if w.waits.wake != 0 && w.waits.wake.toNat ≤ s.io.time.timebase.toNat then
      .next (s.setWarp { w with waits := { w.waits with wake := 0 } })
    else .next s

end Sys2Proof.Machine
end

