-- ==== Sys2Proof/Machine/Dispatch.lean ====
section
/-! DEFINITION. The meaning of every instruction and event: one arm per constructor. -/

namespace Sys2Proof.Machine

def exec (i : Instr) (s : State) : Host.Outcome State Fault Refusal :=
  match i with
  | .nop g => Sys2Proof.Machine.execNop g s
  | .bra g disp => Sys2Proof.Machine.execBra g disp s
  | .brx g a => Sys2Proof.Machine.execBrx g a s
  | .call g d disp => Sys2Proof.Machine.execCall g d disp s
  | .ret g a => Sys2Proof.Machine.execRet g a s
  | .exit g => Sys2Proof.Machine.execExit g s
  | .wait g m => Sys2Proof.Machine.execWait g m s
  | .yield g => Sys2Proof.Machine.execYield g s
  | .sleep g a => Sys2Proof.Machine.execSleep g a s
  | .brk g code => Sys2Proof.Machine.execBrk g code s
  | .ipref g l1 a b => Sys2Proof.Machine.execIpref g l1 a b s
  | .ipin g l1 a b => Sys2Proof.Machine.execIpin g l1 a b s
  | .iunpin g l1 a b => Sys2Proof.Machine.execIunpin g l1 a b s
  | .sadd g d a b => Sys2Proof.Machine.execSadd g d a b s
  | .ssub g d a b => Sys2Proof.Machine.execSsub g d a b s
  | .smul g d a b => Sys2Proof.Machine.execSmul g d a b s
  | .smulh g u d a b => Sys2Proof.Machine.execSmulh g u d a b s
  | .sand g d a b => Sys2Proof.Machine.execSand g d a b s
  | .sor g d a b => Sys2Proof.Machine.execSor g d a b s
  | .sxor g d a b => Sys2Proof.Machine.execSxor g d a b s
  | .sshl g d a b => Sys2Proof.Machine.execSshl g d a b s
  | .sshr g d a b => Sys2Proof.Machine.execSshr g d a b s
  | .ssra g d a b => Sys2Proof.Machine.execSsra g d a b s
  | .smov g d a => Sys2Proof.Machine.execSmov g d a s
  | .smovi g d imm => Sys2Proof.Machine.execSmovi g d imm s
  | .smoviMid g d imm => Sys2Proof.Machine.execSmoviMid g d imm s
  | .smoviHi g d imm => Sys2Proof.Machine.execSmoviHi g d imm s
  | .scmp g cc d a b => Sys2Proof.Machine.execScmp g cc d a b s
  | .ssel g d a b c => Sys2Proof.Machine.execSsel g d a b c s
  | .sclz g d a => Sys2Proof.Machine.execSclz g d a s
  | .spopc g d a => Sys2Proof.Machine.execSpopc g d a s
  | .vadd g t pk d a b => Sys2Proof.Machine.execVadd g t pk d a b s
  | .vsub g t pk d a b => Sys2Proof.Machine.execVsub g t pk d a b s
  | .vaddc g t d a b ci co => Sys2Proof.Machine.execVaddc g t d a b ci co s
  | .vsubb g t d a b ci co => Sys2Proof.Machine.execVsubb g t d a b ci co s
  | .vadds g t pk d a b => Sys2Proof.Machine.execVadds g t pk d a b s
  | .vsubs g t pk d a b => Sys2Proof.Machine.execVsubs g t pk d a b s
  | .vmul g t pk d a b => Sys2Proof.Machine.execVmul g t pk d a b s
  | .vmulh g t d a b => Sys2Proof.Machine.execVmulh g t d a b s
  | .vmad g t d a b c => Sys2Proof.Machine.execVmad g t d a b c s
  | .vmin g t pk d a b => Sys2Proof.Machine.execVmin g t pk d a b s
  | .vmax g t pk d a b => Sys2Proof.Machine.execVmax g t pk d a b s
  | .vabs g pk d a => Sys2Proof.Machine.execVabs g pk d a s
  | .vneg g pk d a => Sys2Proof.Machine.execVneg g pk d a s
  | .vand g d a b => Sys2Proof.Machine.execVand g d a b s
  | .vor g d a b => Sys2Proof.Machine.execVor g d a b s
  | .vxor g d a b => Sys2Proof.Machine.execVxor g d a b s
  | .vnot g d a => Sys2Proof.Machine.execVnot g d a s
  | .vshl g d a b => Sys2Proof.Machine.execVshl g d a b s
  | .vshr g d a b => Sys2Proof.Machine.execVshr g d a b s
  | .vsra g d a b => Sys2Proof.Machine.execVsra g d a b s
  | .vrot g d a b => Sys2Proof.Machine.execVrot g d a b s
  | .vfunl g d a b c => Sys2Proof.Machine.execVfunl g d a b c s
  | .vcmp g cc t d a b => Sys2Proof.Machine.execVcmp g cc t d a b s
  | .vsel g d a b c => Sys2Proof.Machine.execVsel g d a b c s
  | .vmov g wide d a => Sys2Proof.Machine.execVmov g wide d a s
  | .vmovi g t d imm => Sys2Proof.Machine.execVmovi g t d imm s
  | .vmoviHi g t d imm => Sys2Proof.Machine.execVmoviHi g t d imm s
  | .vmoviLo g t d imm => Sys2Proof.Machine.execVmoviLo g t d imm s
  | .vdot4 g d a b c => Sys2Proof.Machine.execVdot4 g d a b c s
  | .vclz g d a => Sys2Proof.Machine.execVclz g d a s
  | .vpopc g d a => Sys2Proof.Machine.execVpopc g d a s
  | .vbrev g d a => Sys2Proof.Machine.execVbrev g d a s
  | .vbfe g sgn d a b => Sys2Proof.Machine.execVbfe g sgn d a b s
  | .vbfi g d a b c => Sys2Proof.Machine.execVbfi g d a b c s
  | .vbitil g w3 d a b c => Sys2Proof.Machine.execVbitil g w3 d a b c s
  | .vbitdl g w3 d a k => Sys2Proof.Machine.execVbitdl g w3 d a k s
  | .vfadd g t d a b => Sys2Proof.Machine.execVfadd g t d a b s
  | .vfsub g t d a b => Sys2Proof.Machine.execVfsub g t d a b s
  | .vfmul g t d a b => Sys2Proof.Machine.execVfmul g t d a b s
  | .vfma g t d a b c => Sys2Proof.Machine.execVfma g t d a b c s
  | .vfmin g t d a b => Sys2Proof.Machine.execVfmin g t d a b s
  | .vfmax g t d a b => Sys2Proof.Machine.execVfmax g t d a b s
  | .vfcmp g cc dbl d a b => Sys2Proof.Machine.execVfcmp g cc dbl d a b s
  | .vfclass g dbl d a => Sys2Proof.Machine.execVfclass g dbl d a s
  | .vfrnd g dbl m x d a => Sys2Proof.Machine.execVfrnd g dbl m x d a s
  | .vfscale g dbl d a b => Sys2Proof.Machine.execVfscale g dbl d a b s
  | .vffrac g dbl d a => Sys2Proof.Machine.execVffrac g dbl d a s
  | .vfdivs g la dbl d a b => Sys2Proof.Machine.execVfdivs g la dbl d a b s
  | .vfsqrts g la dbl d a => Sys2Proof.Machine.execVfsqrts g la dbl d a s
  | .vfrcp g la d a => Sys2Proof.Machine.execVfrcp g la d a s
  | .vfrsq g la d a => Sys2Proof.Machine.execVfrsq g la d a s
  | .vfexp2 g la d a => Sys2Proof.Machine.execVfexp2 g la d a s
  | .vflog2 g la d a => Sys2Proof.Machine.execVflog2 g la d a s
  | .vfsinp g la d a => Sys2Proof.Machine.execVfsinp g la d a s
  | .vfcosp g la d a => Sys2Proof.Machine.execVfcosp g la d a s
  | .vsmupd g la d a b => Sys2Proof.Machine.execVsmupd g la d a b s
  | .vsmfin g la d a => Sys2Proof.Machine.execVsmfin g la d a s
  | .vcvt g cv m d a => Sys2Proof.Machine.execVcvt g cv m d a s
  | .vpack g f m d a => Sys2Proof.Machine.execVpack g f m d a s
  | .vunpack g f d a => Sys2Proof.Machine.execVunpack g f d a s
  | .vbxq g f blk d e a => Sys2Proof.Machine.execVbxq g f blk d e a s
  | .vbxd g f blk d a e => Sys2Proof.Machine.execVbxd g f blk d a e s
  | .vplane g f d a => Sys2Proof.Machine.execVplane g f d a s
  | .vunplane g f d a => Sys2Proof.Machine.execVunplane g f d a s
  | .vtag g d a tag => Sys2Proof.Machine.execVtag g d a tag s
  | .vballot g d a bit q => Sys2Proof.Machine.execVballot g d a bit q s
  | .vvote g md d pm ps q => Sys2Proof.Machine.execVvote g md d pm ps q s
  | .vshfl g md d a b q => Sys2Proof.Machine.execVshfl g md d a b q s
  | .vshflp g d a b pc => Sys2Proof.Machine.execVshflp g d a b pc s
  | .vbcast g d src => Sys2Proof.Machine.execVbcast g d src s
  | .vreduce g op d a pm q => Sys2Proof.Machine.execVreduce g op d a pm q s
  | .vscan g op ex d a pm q => Sys2Proof.Machine.execVscan g op ex d a pm q s
  | .vmatch g d a pm q => Sys2Proof.Machine.execVmatch g d a pm q s
  | .pand g d a b => Sys2Proof.Machine.execPand g d a b s
  | .por g d a b => Sys2Proof.Machine.execPor g d a b s
  | .pxor g d a b => Sys2Proof.Machine.execPxor g d a b s
  | .pnot g d a => Sys2Proof.Machine.execPnot g d a s
  | .pmov g d a => Sys2Proof.Machine.execPmov g d a s
  | .pmovTov g d a => Sys2Proof.Machine.execPmovTov g d a s
  | .pmovFrv g d a => Sys2Proof.Machine.execPmovFrv g d a s
  | .pmovTos g d a => Sys2Proof.Machine.execPmovTos g d a s
  | .pset g d a => Sys2Proof.Machine.execPset g d a s
  | .psetRng g d lo hi => Sys2Proof.Machine.execPsetRng g d lo hi s
  | .psetAnd g d m k => Sys2Proof.Machine.execPsetAnd g d m k s
  | .pcount g d a => Sys2Proof.Machine.execPcount g d a s
  | .pfirst g d a => Sys2Proof.Machine.execPfirst g d a s
  | .pairedWord hi lo => Sys2Proof.Machine.execPairedWord hi lo s
  | .ld g la w o sc m d => Sys2Proof.Machine.execLd g la w o sc m d s
  | .st g w o sc m d => Sys2Proof.Machine.execSt g w o sc m d s
  | .lds g la w o sc m d => Sys2Proof.Machine.execLds g la w o sc m d s
  | .sts g w o sc m d => Sys2Proof.Machine.execSts g w o sc m d s
  | .ldc g la wide acq sc a off d => Sys2Proof.Machine.execLdc g la wide acq sc a off d s
  | .ldp g la f v m d => Sys2Proof.Machine.execLdp g la f v m d s
  | .ldt g la tag m d => Sys2Proof.Machine.execLdt g la tag m d s
  | .pref g l2 m => Sys2Proof.Machine.execPref g l2 m s
  | .cwb g m => Sys2Proof.Machine.execCwb g m s
  | .cinv g m => Sys2Proof.Machine.execCinv g m s
  | .atom g la op wide o sc m d b => Sys2Proof.Machine.execAtom g la op wide o sc m d b s
  | .acas g la wide o sc m d b => Sys2Proof.Machine.execAcas g la wide o sc m d b s
  | .red g op wide o sc m b => Sys2Proof.Machine.execRed g op wide o sc m b s
  | .vbmin g o sc m b => Sys2Proof.Machine.execVbmin g o sc m b s
  | .fence g o sc => Sys2Proof.Machine.execFence g o sc s
  | .bfence g => Sys2Proof.Machine.execBfence g s
  | .tbegin g d => Sys2Proof.Machine.execTbegin g d s
  | .tend g => Sys2Proof.Machine.execTend g s
  | .tabort g code => Sys2Proof.Machine.execTabort g code s
  | .ttest g d => Sys2Proof.Machine.execTtest g d s
  | .osenter g cl a b => Sys2Proof.Machine.execOsenter g cl a b s
  | .osleave g cl a => Sys2Proof.Machine.execOsleave g cl a s
  | .osreset g cl a b => Sys2Proof.Machine.execOsreset g cl a b s
  | .osquery g la cl d a => Sys2Proof.Machine.execOsquery g la cl d a s
  | .bar g b => Sys2Proof.Machine.execBar g b s
  | .phase g grp op a => Sys2Proof.Machine.execPhase g grp op a s
  | .grpq g la q d grp => Sys2Proof.Machine.execGrpq g la q d grp s
  | .mbinit g a off d => Sys2Proof.Machine.execMbinit g a off d s
  | .mbexp g a off d => Sys2Proof.Machine.execMbexp g a off d s
  | .mbarr g sc a off => Sys2Proof.Machine.execMbarr g sc a off s
  | .mbwait g sc d a off => Sys2Proof.Machine.execMbwait g sc d a off s
  | .mbwaitCur g sc d a off => Sys2Proof.Machine.execMbwaitCur g sc d a off s
  | .mbtest g sc d a off => Sys2Proof.Machine.execMbtest g sc d a off s
  | .mbtestSnap g d a off => Sys2Proof.Machine.execMbtestSnap g d a off s
  | .mcfgTy g ta tb => Sys2Proof.Machine.execMcfgTy g ta tb s
  | .mcfgA g a b => Sys2Proof.Machine.execMcfgA g a b s
  | .mcfgB g a b => Sys2Proof.Machine.execMcfgB g a b s
  | .mcfgAx g a b => Sys2Proof.Machine.execMcfgAx g a b s
  | .mcfgBx g a b => Sys2Proof.Machine.execMcfgBx g a b s
  | .mcfgK g a => Sys2Proof.Machine.execMcfgK g a s
  | .mloop g acc n noinc => Sys2Proof.Machine.execMloop g acc n noinc s
  | .mzero g t acc => Sys2Proof.Machine.execMzero g t acc s
  | .mmova g la f d acc r => Sys2Proof.Machine.execMmova g la f d acc r s
  | .mmovv g f acc a r => Sys2Proof.Machine.execMmovv g f acc a r s
  | .msta g t a b acc => Sys2Proof.Machine.execMsta g t a b acc s
  | .mcoop g acc a ti tj id noinc => Sys2Proof.Machine.execMcoop g acc a ti tj id noinc s
  | .mfree g acc => Sys2Proof.Machine.execMfree g acc s
  | .ckick g dc a => Sys2Proof.Machine.execCkick g dc a s
  | .enq g a b => Sys2Proof.Machine.execEnq g a b s
  | .deq g la d a => Sys2Proof.Machine.execDeq g la d a s
  | .qtry g la d a q => Sys2Proof.Machine.execQtry g la d a q s
  | .tspawn g dc a b => Sys2Proof.Machine.execTspawn g dc a b s
  | .cont g a b n r => Sys2Proof.Machine.execCont g a b n r s
  | .bgemv g dc acc bf a b => Sys2Proof.Machine.execBgemv g dc acc bf a b s
  | .bstat g la q d => Sys2Proof.Machine.execBstat g la q d s
  | .rtrace g dc gen p a b c => Sys2Proof.Machine.execRtrace g dc gen p a b c s
  | .rtquery g la gen d a b => Sys2Proof.Machine.execRtquery g la gen d a b s
  | .msvtx g n a b c => Sys2Proof.Machine.execMsvtx g n a b c s
  | .msprim g a b c => Sys2Proof.Machine.execMsprim g a b c s
  | .msend g a b => Sys2Proof.Machine.execMsend g a b s
  | .fsout g t n a => Sys2Proof.Machine.execFsout g t n a s
  | .gzread g la d a => Sys2Proof.Machine.execGzread g la d a s
  | .sread g la vec d sp => Sys2Proof.Machine.execSread g la vec d sp s
  | .swrite g vec a sp => Sys2Proof.Machine.execSwrite g vec a sp s
  | .trap g code => Sys2Proof.Machine.execTrap g code s
  | .eret g => Sys2Proof.Machine.execEret g s
  | .halt g code => Sys2Proof.Machine.execHalt g code s
  | .ckpt g => Sys2Proof.Machine.execCkpt g s
  | .schedulerPick vw => Sys2Proof.Machine.execSchedulerPick vw s
  | .turnLimit vw => Sys2Proof.Machine.execTurnLimit vw s
  | .clauseWaitTimeout vw => Sys2Proof.Machine.execClauseWaitTimeout vw s
  | .sleepWake vw => Sys2Proof.Machine.execSleepWake vw s
  | .loadLaneComplete vw seq lanes => Sys2Proof.Machine.execLoadLaneComplete vw seq lanes s
  | .storeAck vw seq lanes => Sys2Proof.Machine.execStoreAck vw seq lanes s
  | .atomicBatchPerform vw seq lane => Sys2Proof.Machine.execAtomicBatchPerform vw seq lane s
  | .faultBatchClose die => Sys2Proof.Machine.execFaultBatchClose die s
  | .mloopStep vw seq => Sys2Proof.Machine.execMloopStep vw seq s
  | .copyChunkLand vw seq member bytes => Sys2Proof.Machine.execCopyChunkLand vw seq member bytes s
  | .bgemvRowLand vw seq => Sys2Proof.Machine.execBgemvRowLand vw seq s
  | .rayTillerWrite vw seq lane => Sys2Proof.Machine.execRayTillerWrite vw seq lane s
  | .binTimeout die bin => Sys2Proof.Machine.execBinTimeout die bin s
  | .taskPieceRequest task core => Sys2Proof.Machine.execTaskPieceRequest task core s
  | .phaseComplete lid grp => Sys2Proof.Machine.execPhaseComplete lid grp s
  | .tendCommit vw seq => Sys2Proof.Machine.execTendCommit vw seq s
  | .checkpoint lid => Sys2Proof.Machine.execCheckpoint lid s
  | .rollback lid => Sys2Proof.Machine.execRollback lid s
  | .sheafPlace sid core => Sys2Proof.Machine.execSheafPlace sid core s
  | .launchAdmit lid => Sys2Proof.Machine.execLaunchAdmit lid s
  | .freeze sid => Sys2Proof.Machine.execFreeze sid s
  | .lateReply vw seq lanes => Sys2Proof.Machine.execLateReply vw seq lanes s
  | .sheafSave sid => Sys2Proof.Machine.execSheafSave sid s
  | .sheafResume sid core => Sys2Proof.Machine.execSheafResume sid core s
  | .sheafRetire sid => Sys2Proof.Machine.execSheafRetire sid s
  | .refill lid => Sys2Proof.Machine.execRefill lid s
  | .powerSample die milliwatts => Sys2Proof.Machine.execPowerSample die milliwatts s
  | .balanceStep => Sys2Proof.Machine.execBalanceStep s
  | .deadlockDetect ctx => Sys2Proof.Machine.execDeadlockDetect ctx s
  | .commandImmediate q imm => Sys2Proof.Machine.execCommandImmediate q imm s
  | .hostRdmaWrite q addr data => Sys2Proof.Machine.execHostRdmaWrite q addr data s
  | .hostRdmaRead q addr len => Sys2Proof.Machine.execHostRdmaRead q addr len s
  | .cmdEventDispatch core => Sys2Proof.Machine.execCmdEventDispatch core s
  | .launchPacket q => Sys2Proof.Machine.execLaunchPacket q s
  | .graphArm q => Sys2Proof.Machine.execGraphArm q s
  | .signalPacket q => Sys2Proof.Machine.execSignalPacket q s
  | .waitPacket q => Sys2Proof.Machine.execWaitPacket q s
  | .copyPacket q => Sys2Proof.Machine.execCopyPacket q s
  | .viewStreamConfigure q => Sys2Proof.Machine.execViewStreamConfigure q s
  | .keyLoad q => Sys2Proof.Machine.execKeyLoad q s
  | .keyClear q => Sys2Proof.Machine.execKeyClear q s
  | .keyBind q => Sys2Proof.Machine.execKeyBind q s
  | .keyAttest q => Sys2Proof.Machine.execKeyAttest q s
  | .testPackageApply q => Sys2Proof.Machine.execTestPackageApply q s
  | .testPackageReport q => Sys2Proof.Machine.execTestPackageReport q s
  | .testCore core => Sys2Proof.Machine.execTestCore core s
  | .mapq q => Sys2Proof.Machine.execMapq q s
  | .unmapq q => Sys2Proof.Machine.execUnmapq q s
  | .ctxset q => Sys2Proof.Machine.execCtxset q s
  | .ctxdel q => Sys2Proof.Machine.execCtxdel q s
  | .tlbinv q => Sys2Proof.Machine.execTlbinv q s
  | .resume q => Sys2Proof.Machine.execResume q s
  | .cancel q => Sys2Proof.Machine.execCancel q s
  | .balance q => Sys2Proof.Machine.execBalance q s
  | .graphNodeComplete ctx graph node => Sys2Proof.Machine.execGraphNodeComplete ctx graph node s
  | .graphCounterError ctx graph => Sys2Proof.Machine.execGraphCounterError ctx graph s
  | .cmdCoreHang core => Sys2Proof.Machine.execCmdCoreHang core s
  | .cmdCoreRebootDone core => Sys2Proof.Machine.execCmdCoreRebootDone core s
  | .fallbackTurn => Sys2Proof.Machine.execFallbackTurn s
  | .engineStall engine => Sys2Proof.Machine.execEngineStall engine s
  | .uncorrectableError arr addr => Sys2Proof.Machine.execUncorrectableError arr addr s
  | .patrolScrub => Sys2Proof.Machine.execPatrolScrub s
  | .frameStart stream => Sys2Proof.Machine.execFrameStart stream s
  | .geometryStart stream => Sys2Proof.Machine.execGeometryStart stream s
  | .stripLatch stream strip => Sys2Proof.Machine.execStripLatch stream strip s
  | .stripRasterStart stream strip => Sys2Proof.Machine.execStripRasterStart stream strip s
  | .stripKeyReset stream strip => Sys2Proof.Machine.execStripKeyReset stream strip s
  | .lensCorrectionStart stream strip => Sys2Proof.Machine.execLensCorrectionStart stream strip s
  | .checkInstant stream strip => Sys2Proof.Machine.execCheckInstant stream strip s
  | .tileDepart stream strip view tile => Sys2Proof.Machine.execTileDepart stream strip view tile s
  | .drawWatchdog stream => Sys2Proof.Machine.execDrawWatchdog stream s
  | .gazePacket port data => Sys2Proof.Machine.execGazePacket port data s
  | .ceMarkReceived q => Sys2Proof.Machine.execCeMarkReceived q s
  | .cnpReceived q => Sys2Proof.Machine.execCnpReceived q s
  | .rateRecovery q => Sys2Proof.Machine.execRateRecovery q s
  | .linkDown port => Sys2Proof.Machine.execLinkDown port s
  | .linkUp port => Sys2Proof.Machine.execLinkUp port s
  | .linkDownTimeout port => Sys2Proof.Machine.execLinkDownTimeout port s
  | .portDropReport port => Sys2Proof.Machine.execPortDropReport port s
  | .peerLost peer => Sys2Proof.Machine.execPeerLost peer s
  | .sysMessageReceive peer data => Sys2Proof.Machine.execSysMessageReceive peer data s
  | .sysPhaseArrival peer data => Sys2Proof.Machine.execSysPhaseArrival peer data s
  | .sysPhaseCompletion peer data => Sys2Proof.Machine.execSysPhaseCompletion peer data s
  | .ptpSync offset => Sys2Proof.Machine.execPtpSync offset s
  | .ptpLockLoss => Sys2Proof.Machine.execPtpLockLoss s
  | .announce => Sys2Proof.Machine.execAnnounce s
  | .config port data => Sys2Proof.Machine.execConfig port data s
  | .fwchunk port data => Sys2Proof.Machine.execFwchunk port data s
  | .fwcommit port data => Sys2Proof.Machine.execFwcommit port data s
  | .resetWarm port data => Sys2Proof.Machine.execResetWarm port data s
  | .resetCold port data => Sys2Proof.Machine.execResetCold port data s
  | .powerGood => Sys2Proof.Machine.execPowerGood s
  | .pipelineResultWrite vw seq => Sys2Proof.Machine.execPipelineResultWrite vw seq s
  | .ckptWaitTimeout vw => Sys2Proof.Machine.execCkptWaitTimeout vw s
  | .powerLoss => Sys2Proof.Machine.execPowerLoss s
  | .icmpv6Echo port data => Sys2Proof.Machine.execIcmpv6Echo port data s
  | .neighbourSolicitation port data => Sys2Proof.Machine.execNeighbourSolicitation port data s
  | .droppedFrame port => Sys2Proof.Machine.execDroppedFrame port s
  | .pfcPause port prio pause => Sys2Proof.Machine.execPfcPause port prio pause s

end Sys2Proof.Machine
end

