-- ==== Sys2Proof/Machine/Image.lean ====
section
/-! DEFINITION. A machine with one warp about to issue one word: what `State.withFetchWord` sets (log entry 12). -/

namespace Sys2Proof.Machine

/-- Class of a clause that admits the word (Table 6.2). -/
def classFor (w : Word64) : Nat := ((List.range 5).find? fun c => classAdmits c w).getD 4

/-- A one-word clause for the word: paired when the word is refused as an unpaired one. -/
def headerFor (w : Word64) : Header :=
  match decode false w, decode true w with
  | .error _, .ok _ => ⟨0, 0, 1, 0, 0, 0⟩
  | _, _ => ⟨classFor w, 0, 0, 0, 0, 0⟩

/-- The word of a header (Table 6.1). -/
def headerWord (h : Header) : Word64 :=
  at_ h.low.toNat 0 ||| at_ h.hint.toNat 32 ||| at_ h.wait.toNat 35 ||| at_ h.pair.toNat 41 ||| at_ h.count 57 ||| at_ h.cls 61

/-- A role with every register (Table 2.4). -/
def fullRole (pc : Nat) : Role := ⟨pc, 31, 128, 16, 65536, 1⟩

/-- A record of one sheaf of one workgroup of one warp. -/
def oneWarp (pc : Nat) : LRec :=
  { paired := false, restart := false, atOnce := false, graphics := false, shape := 1, wgs := 1, prio := 0, nsheaf := 1,
    slack := 0, retry := 0, spill := 0, quota := 0, roles := [fullRole pc] }

/-- A context with a root table and nothing else. -/
def Ctx.new (id root : Nat) : Ctx := ⟨id, root, 15, 0, 0, false⟩

/-- Physical addresses of the root table, of the level-1 table and of the page of the placed word, and its virtual
address. -/
def imgRoot : Nat := 0x10000000
def imgTable : Nat := 0x10100000
def imgPage : Nat := 0x40000000
def imgCode : Nat := 0x1000

/-- Store eight bytes of a table or of code in device memory. -/
def Mem.put64 (m : Mem) (pa : Nat) (w : Word64) : Mem := { m with dram := m.dram.putN pa (bytesOf 8 w.toNat) }

/-- The machine with one more context, launch, sheaf and warp, whose next step fetches the word `w` from an executable
page and issues it. -/
def State.place (s : State) (w : Word64) : State :=
  let h := headerFor w
  let lid := s.nextId
  let id : Ident := { ctx := 1, lid := lid, sid := lid + 1, member := 0, idWarp := 0, role := 0, kind := .member, idSheaf := 0,
                      idWg := 0, core := 0 }
  let wp := Warp.start (lid + 2) id (fullRole imgCode) [] s.now 0
  let wp := { wp with vpc := of64 fun _ => BitVec.ofNat 64 (imgCode + 8), clause := ⟨true, imgCode, 0, h, false⟩, slot := .turn }
  let sh := { Sheaf.new (lid + 1) lid 0 .member with state := .resident, clean := false }
  let la := { Launch.new lid 1 0 0 lid (oneWarp imgCode) [] [] with state := .admitted }
  let m := { s.mem with skeys := s.mem.skeys, slots := upsert (fun k => k.slot == 1) ⟨1, 1, 0⟩ s.mem.slots, tlb := [], il := [] }
  let m := m.put64 imgRoot (at_ (imgTable / 4096) 12 ||| 1)
  let m := m.put64 imgTable (at_ 1 52 ||| at_ (imgPage / 4096) 12 ||| 0x37)
  let m := (m.put64 (imgPage + imgCode) (headerWord h)).put64 (imgPage + imgCode + 8) w
  { s with
    warps := s.warps ++ [wp], sheaves := s.sheaves ++ [sh], launches := s.launches ++ [la], mem := m
    cmd := { s.cmd with ctxs := upsert (fun c => c.id == 1) (Ctx.new 1 imgRoot) s.cmd.ctxs }
    agenda := [], focus := some (lid + 2), nextId := lid + 3 }

end Sys2Proof.Machine
end

