-- ==== Sys2Proof/Machine/Settle.lean ====
section
/-! DEFINITION. What follows of itself after a step: entries performed at their places, completions, warps that become ready, and
what the command side owes. -/

namespace Sys2Proof.Machine

/-! ## Sheaf pairs (R502 to R504, R508, R509) -/

/-- Words that the lanes of a transactional load read at their homes, which the read set holds (R169): the j-th of each lane. -/
def Warp.txRead (w : Warp) (e : HkEntry) (j : Nat) : Lanes := Lanes.of fun i =>
  match (effAddr e.instr (lane64 e.addr i)).bind fun a => (spanWords a (accBytes e.instr))[j]? with
  | some x => ((w.tx.reads.reverse.find? fun r => r.1 == i && r.2.1 == x).map (·.2.2)).getD 0
  | none => 0

/-- What a completed entry of a leading copy forwards and logs: for a transactional load also the words read at the homes. A
PHASE's value and a TEND's outcomes are taken from the warp. -/
def Warp.pairLog (w : Warp) (e : HkEntry) (L : Mask) : PairLog :=
  let base : PairLog :=
    { member := w.ident.member, idWarp := w.ident.idWarp, seq := e.seq, sig := w.sigOf e L
      left := e.undone &&& L, prog := e.prog, chunks := e.chunks
      data := e.data.take (vdests e.instr).length ++ (if e.txl != 0 && isLoad e.instr then (List.range 4).map (w.txRead e) else [])
      psn := e.psn, scal := e.scal, mask := match e.instr with | .qtry .. => e.planes | _ => L &&& e.planes }
  match e.instr with
  | .phase _ g _ _ => { base with scal := [((w.vals.find? (·.1 == g.toNat)).map (·.2)).getD 0] }
  | .tend _ =>
    { base with data := [Lanes.of fun i =>
        if has w.tx.doomed i then (if h : i < 32 then w.tx.cause[i].setWidth 32 else 0) else 0] }
  | _ => base

/-- Two records are of one request. -/
def PairLog.same (x y : PairLog) : Bool := y.member == x.member && y.idWarp == x.idWarp && y.seq == x.seq

/-- Keep a record: with `log` in the pair log, else only once the trailing copy accepts it (R508); a record that a re-execution meets is
brought up to date, a new one goes to the trailing copy. -/
def PairSt.keep (p : PairSt) (x : PairLog) (log forward : Bool) : PairSt :=
  let same := x.same
  { p with log := if log then upsert same x p.log else p.log
           again := updIf same (fun _ => x) p.again
           fwd := if !forward || p.again.any same then p.fwd else p.fwd ++ [x] }

/-- The leading copy keeps the record of an entry; a trailing one that completes leaves none of its number. -/
def State.pairKeep (s : State) (w : Warp) (e : HkEntry) (forward : Bool) : State :=
  match s.twinOf w with
  | some (false, _) =>
    let L := e.asked &&& ~~~(s.ownLanes w e)
    if L = 0 then s
    else
      let x := w.pairLog e L
      let x := if forward then x else { x with scal := [] }
      s.modSheaf w.ident.sid fun h => { h with pair := h.pair.keep x (compared e.instr) forward }
  | some (true, l) => s.modSheaf l.ident.sid fun h => { h with pair := { h.pair with fwd := h.pair.fwd.filter fun x =>
      !(x.member == w.ident.member && x.idWarp == w.ident.idWarp && x.seq == e.seq) } }
  | none => s

/-- What a leading warp's entry has had performed of a compared request is in the pair log as it is performed (R508). -/
def State.pairProgress (s : State) : State :=
  (s.sheaves.filter fun h => h.twin.isSome && !h.trail && h.state == .resident && !h.pair.bad).foldl (fun s h =>
    (s.warps.filter (·.ident.sid == h.sid)).foldl (fun s w => w.husk.foldl (fun s e =>
      let L := e.asked &&& ~~~(s.ownLanes w e)
      let way : Bool := match s.pairWay w e with | .lead | .own => true | _ => false
      let moved : Bool := if carried e.instr then e.prog != 0 || e.chunks.any (fun c => c.2.1 != 0 || c.2.2 != 0) || e.undone != e.planes
        else e.undone &&& L != L
      if !compared e.instr || L = 0 || (e.perf != 0 && !carried e.instr) || !way || !moved then s
      else s.modSheaf h.sid fun h => { h with pair := h.pair.keep (w.pairLog e L) true false }) s) s) s

/-- Fill an entry from a record, in the lanes outside the sheaf's own slices. -/
def HkEntry.fill (e : HkEntry) (x : PairLog) (L : Mask) : HkEntry :=
  let n := (vdests e.instr).length
  { e with
    data := (e.data.take n).zipIdx.map (fun (d, j) => Lanes.merge L (x.data.getD j d) d) ++ e.data.drop n
    psn := e.psn.zipIdx.map fun (p, j) => p || x.psn.getD j false
    scal := if (sdest e.instr).isSome then x.scal else e.scal
    planes := match e.instr with | .qtry .. => x.mask | _ => e.planes
    pend := match e.instr with | .qtry .. => 0 | _ => e.pend &&& ~~~L }

/-- The lanes `T` of a transactional access that a copy takes from a record enter its read set or write set (R169). -/
def Warp.txTake (w : Warp) (e : HkEntry) (x : PairLog) (T : Mask) : Warp :=
  let n := (vdests e.instr).length
  let each {α : Type} (f : Nat → Nat → List α) : List α :=
    (lanesOf T).flatMap fun i => match effAddr e.instr (lane64 e.addr i) with | some a => f i a | none => []
  if isLoad e.instr then
    { w with tx := { w.tx with reads := w.tx.reads ++ each fun i a => (spanWords a (accBytes e.instr)).zipIdx.map fun (y, j) =>
        (i, y, Lanes.get (x.data.getD (n + j) (Lanes.all 0)) i) } }
  else { w with tx := { w.tx with writes := w.tx.writes ++ each e.txBytes } }

/-- How far an engine has carried an entry that a re-execution meets again: what landed in the pair's own slices went with them (R509). -/
def State.redo (s : State) (w : Warp) (e : HkEntry) (x : PairLog) : HkEntry :=
  match e.instr with
  | .ckick .. =>
    let c := Copy.of e.scal
    let y := { e with rep := true, chunks := x.chunks.map fun (m, n, k) =>
      let (d, o) := s.legAt w c m
      (m, if s.ownAddr w d then 0 else n, if s.ownAddr w o then 0 else k) }
    { y with prog := y.watermark c.len, pend := if y.copyDone c then 0 else y.pend }
  | .bgemv .. =>
    if s.ownAddr w (e.scal.getD 2 0).toNat then { e with rep := true }
    else { e with rep := true, chunks := x.chunks, prog := x.prog, scal := x.scal, pend := x.left }
  | _ => { e with rep := true, pend := e.pend &&& x.left }

/-- A leading copy that executes again meets the record of a request that it has to carry on: what was performed is not performed again. -/
def State.pairRedo (s : State) (w : Warp) (e : HkEntry) (x : PairLog) : Option State :=
  let L := e.asked &&& ~~~(s.ownLanes w e)
  let y := if carried e.instr then s.redo w e x else { e.fill x (L &&& ~~~x.left) with rep := true }
  match s.twinOf w with
  | some (false, _) =>
    if !compared e.instr || y.pend = 0 || (!carried e.instr && x.left = 0) then none
    else some ((s.setWarp (w.setEntry y)).modSheaf w.ident.sid fun h =>
      { h with pair := { h.pair with again := h.pair.again.filter fun z => !x.same z } })
  | _ => none

/-- A copy takes a record; none while it must wait for it to be complete. A forwarded value is in the pair log once the trailing copy has
accepted it (R508). -/
def State.pairTake (s : State) (w : Warp) (e : HkEntry) (x : PairLog) : Option State :=
  let L := e.asked &&& ~~~(s.ownLanes w e)
  let s1 := match s.leadOf w.ident.sid with
    | some l => s.modSheaf l.sid fun h => { h with pair := { h.pair with
        fwd := h.pair.fwd.filter (· != x)
        log := if l.sid == w.ident.sid || compared e.instr then h.pair.log else upsert x.same x h.pair.log } }
    | none => s
  match s.pairRedo w e x with
  | some s => some s
  | none =>
  match e.instr with
  | .phase _ g _ _ =>
    let lead := match s.twinOf w with | some (false, _) => true | _ => false
    let waits := match s.groupOf w g.toNat with | some y => y.arrived.contains w.vw | none => false
    if e.perf != 0 then none
    else if x.scal.isEmpty && lead && waits then
      some ((s.boundary w.vw e.closes).modWarp w.vw (·.modEntry e.seq fun y => { y with perf := y.pend, closes := none }))
    else if x.scal.isEmpty && !lead then none
    else
      let v := x.scal.headD (((w.vals.find? (·.1 == g.toNat)).map (·.2)).getD 0)
      some ((s1.performed w.vw e true).modWarp w.vw fun w => { w with vals := upsert (·.1 == g.toNat) (g.toNat, v) w.vals })
  | .tend _ =>
    let y := x.data.headD (Lanes.all 0)
    let ok := e.pend &&& w.tx.inTx &&& maskOf fun i => Lanes.get y i == 0
    some ((s1.modWarp w.vw (·.tendOutcome e y)).performed w.vw e (ok != 0))
  | .bgemv .. =>
    some (s1.modWarp w.vw fun w => (w.flags ((x.scal.getD 5 0).setWidth 6)).modEntry e.seq fun y => { y with pend := 0 })
  | _ =>
    if e.pend &&& L = 0 then none
    else
      -- lanes whose access aborted them abort here too (R280)
      let gone := e.txl &&& L &&& ~~~x.mask
      some (s1.modWarp w.vw fun w => ((w.modEntry e.seq (·.fill x L)).txTake e x (e.txl &&& L &&& x.mask)).abortNow gone 0x08)

/-! ## Completion (R258) -/

/-- `MPROG` once an MLOOP or MCOOP has completed: it describes the oldest one still stopped, if any (R126). -/
def Warp.mprogNext (w : Warp) (e : HkEntry) : Word64 :=
  if e.scal[1]? != some w.spr.mprog then w.spr.mprog
  else match w.husk.find? fun x => x.seq != e.seq && (accOf x.instr).isSome && x.scal.length == 2 with
    | some x => x.scal.getD 1 0
    | none => w.spr.mprog &&& ~~~1

/-- An entry completes: an access that is a boundary ends its region, results are written, a counted transfer counts down, and the
region of an engine transfer closes (R164). -/
def State.complete (s : State) (w : Warp) (e : HkEntry) : State :=
  let bound : Bool := match e.instr with | .mbtest .. => e.scal.headD 0 != 0 | _ => true
  let s := s.pairKeep w e true
  let s := if bound then (s.sysBound w e).boundary w.vw e.closes else s.noBoundary w.vw e.closes
  let s := s.sysTell w e.seq true 0 (s.awayOf (.xfer w.vw e.seq) 0)
  let s := s.setMem { s.mem with race := s.mem.race.filter fun r => r.party != .xfer w.vw e.seq }
  s.modWarp w.vw fun w =>
    let w := (w.finish e).countDown (dcOf e.instr)
    -- what a counted transfer wrote is visible once its counter is seen at zero (R163)
    let w := if dcOf e.instr = 0 then w else { w with opened := w.opened.map fun o => (o.1, s.now) }
    if (accOf e.instr).isSome then { w with spr := { w.spr with mprog := w.mprogNext e } } else w

/-- Nothing of an entry is left to do. -/
def HkEntry.finished (e : HkEntry) : Bool :=
  e.pend == 0 || ((accOf e.instr).isSome && decide (e.steps ≤ e.prog))

/-! ## Entries -/

/-- Operations that reach their places as soon as they may. -/
def State.placeRun (s : State) (w : Warp) (e : HkEntry) : Option State :=
  match e.instr with
  | .osquery _ _ cl _ _ => some (s.eachLane w.vw e.seq e.undone Need.read (State.queryLane cl))
  | .gzread .. => some (s.gzRun w e)
  | .bgemv .. => if e.perf = 0 && s.xReady w e then some (s.xRead w e) else none
  | .ckick .. => if (Copy.of e.scal).len = 0 || e.chunks.isEmpty then some (s.copyLand w e 0 0) else none
  | .tend .. => none
  | .phase .. => (s.syncRun w e).map fun s => s.pairKeep w e false
  | _ => match s.syncRun w e with
    | some s => some s
    | none => s.portRun w e

/-- What happens next to an entry, if anything. -/
def State.entryAct (s : State) (w : Warp) (e : HkEntry) : Option State :=
  if e.state != .outstanding || e.queued then none
  else if e.finished then some (s.complete w e)
  else match s.pairWay w e with
  | .bad => match s.leadOf w.ident.sid with
    | some l => if l.pair.bad then none else some (s.mismatch w.ident.sid)
    | none => none
  | .take x => s.pairTake w e x
  | .wait => none
  | .own | .lead => (s.repeated w e).or (if s.mayPerform w e e.undone then s.placeRun w e else none)

/-! ## Warps -/

/-- What kept a warp from its next clause is over (R55, R366): nothing of a replay is left (R415), and the husk has room. -/
def State.canBegin (s : State) (w : Warp) : Bool :=
  !w.counting w.waits.mask && w.waits.wake == 0 && w.waits.ckpt.isNone && w.waits.page.isNone
    && !w.wins.any (fun x => !x.done && w.waits.first.contains x.id)
    && !(if w.clause.inside then s.holds w else s.pairWait w) && !w.husk.any (·.queued)
    && !(w.waits.full && w.huskFull) && s.headerReady w

/-- A finished warp's last region ends, as at a release (R143, R512). -/
def State.closeWarp (s : State) (w : Warp) : State :=
  match s.drain w.ident.sid w.ident.member with
  | (some x, s) => s.heldFault w.ident.sid x
  | (none, s) =>
    let s := w.opened.foldl (fun s o => s.sysTell w w.nseq false o.1 (s.awayOf (.warp w.vw) o.1)) s
    let s := s.setMem { s.mem with race := s.mem.race.filter fun r => r.party != .warp w.vw }
    s.modWarp w.vw fun w => { w with opened := [] }

/-- What happens next to a warp, and to what a frozen or saved one has sent. -/
def State.warpAct (s : State) (w : Warp) : Option State :=
  if !s.mayRun w then s.lateAct w State.placeRun
  else match (s.reissue w).or (w.husk.findSome? (s.entryAct w)) with
  | some s => some s
  | none =>
    if w.slot == .parked && !w.husk.any (·.parked) then some (s.setWarp { w with slot := .waiting })
    else if w.slot == .waiting && s.canBegin w then some (s.setWarp { w with slot := .ready, readyAt := s.now, waits := { w.waits with full := false } })
    else if w.slot == .finished && w.husk.isEmpty && !w.opened.isEmpty then some (s.closeWarp w)
    else none

/-- A barrier in which every warp of its workgroup has arrived completes (R290). -/
def State.barAct (s : State) : Option State :=
  s.sheaves.findSome? fun h =>
    if h.state != .resident then none
    else (h.bars.find? (s.barFull h.sid)).map (s.barDone h.sid)

/-- The next thing that happens of itself. -/
def State.act (s : State) : Option State :=
  match s.warps.findSome? s.warpAct with
  | some s => some s
  | none => s.barAct

/-- Let at most `n` things happen. -/
def State.actAll : Nat → State → State
  | 0, s => s
  | n + 1, s => match s.act with
    | some s => State.actAll n s
    | none => s

/-! ## The machine around the warps -/

/-- The watermark of a warp of a leading copy at its checkpoint: what has been performed since is kept (R506). -/
def State.keptFrom (s : State) (w : Warp) : Option (BitVec 16) :=
  match s.sheaf w.ident.sid with
  | none => none
  | some h =>
    if h.twin.isNone || h.trail then none
    else some (match h.pair.img with
      | some i => ((i.1.warps.find? (·.vw == w.vw)).map Warp.watermark).getD 0
      | none => 0)

/-- A place lies in the slices of a warp's own sheaf: its operations there are not compared (Table 19.1). -/
def State.ownPlace (s : State) (w : Warp) : Place → Bool
  | .loc (.scr sid ..) => sid == w.ident.sid || (s.leadOf w.ident.sid).any fun l => l.sid == sid
  | _ => false

/-- Chaff records below their warp's acknowledged watermark retire; those of a saved warp stay (R407), those of a paired warp until a checkpoint
has been taken (R506) where they are compared, and those of a peer's warp until its next request. -/
def State.chaffRetire (s : State) : State :=
  let old (c : Chaff) : Bool := match s.warp c.vw with
    | none => decide (c.vw < 2 ^ 48)
    | some w => s.mayRun w && below c.seq w.watermark && match s.keptFrom w with
      | some m => below c.seq m || s.ownPlace w c.place
      | none => true
  if s.mem.chaff.isEmpty then s else s.setMem { s.mem with chaff := s.mem.chaff.filter fun c => !old c }

/-- A DEQ of a sheaf that is not resident does not keep its place in its queue. -/
def State.leaveQueues (s : State) : State :=
  let here (vw : Nat) : Bool := (s.warp vw).elim false s.mayRun
  if s.launches.all fun l => l.queues.all fun q => q.parked.all fun p => here p.1 then s
  else { s with launches := s.launches.map fun l =>
    { l with queues := l.queues.map fun q => { q with parked := q.parked.filter fun p => here p.1 } } }

/-- Spills that no instruction causes, and their breaches. -/
def State.spills (s : State) : State :=
  let (s, bad) := s.spillBounded
  bad.foldl (fun s (lid, k, i) => s.breach lid k i) s

/-- Stores that have issued in a restartable launch and have still to enter their buffers are kept in issue order (R512). -/
def State.noteStores (s : State) : State :=
  { s with sheaves := s.sheaves.map fun h =>
      if !((s.launch h.lid).any fun l => l.r.restart && !l.r.paired) then h
      else
        let l := (s.warpsOf h.sid).flatMap fun w => (w.husk.filter fun e => storing e.instr && e.undone != 0).map fun e => (w.vw, e.seq)
        { h with order := h.order.filter l.contains ++ l.filter (!h.order.contains ·) } }

/-- What follows of itself after a step. -/
def State.settle (s : State) : State :=
  let s := s.noteStores
  let s := (s.actAll 65536).earlyWords.pairProgress
  let s := s.chaffRetire.leaveQueues.spills.formBins.freezeTogether.pairLimits
  let s := s.launches.foldl (fun s l => s.launchDone l.lid) s
  let s : State := { s with streams := s.streams.map Stream.tidy }
  s.sysPhases.recheckWaits.fullBatches.unmapsDone.ctxdelDone.rejectUnknown.freeCores.postQueues.watchDead.watchCores.flushEvents

end Sys2Proof.Machine
end

