-- ==== Sys2Proof/Machine/Step.lean ====
section
/-! DEFINITION. One step of the machine, and the placing of one word where the next step fetches it. -/

namespace Sys2Proof.Machine

/-- An outcome whose next state is counted and settled. -/
def settled : Host.Outcome State Fault Refusal → Host.Outcome State Fault Refusal
  | .next s => .next { s.settle with now := s.now + 1 }
  | .fault f => .fault f
  | .refused r => .refused r

/-- Issue what comes next for a warp. -/
def stepWarp (s : State) (vw : Nat) : Host.Outcome State Fault Refusal :=
  match s.nextOf vw with
  | .instr i s => settled (exec i s)
  | .done s => settled (.next s)

/-- One step: what the agenda holds next, or, when it is empty, the next header or word of the warp in focus. -/
def step (s : State) : Host.Outcome State Fault Refusal :=
  match s.agenda with
  | [] => match s.focus with
    | some vw => stepWarp s vw
    | none => settled (.next s)
  | .word vw :: r => stepWarp { s with agenda := r, focus := some vw } vw
  | .event i :: r => settled (if s.answers i then exec i { s with agenda := r } else .next { s with agenda := r })
  | .elapse n :: r => settled (.next (State.elapse { s with agenda := r } n))

/-- The machine with the word `w`, whose bits from `nbits` up are zero, placed where `step` fetches it next. -/
def State.withFetchWord (s : State) (nbits w : Nat) : State := s.place (BitVec.ofNat 64 (w % 2 ^ nbits))

end Sys2Proof.Machine
end

