-- ==== Sys2Proof/Safety.lean ====
section
/-! DEFINITION. What counts as a good state and the terms in which claims are stated: when a word issues with effect, what a
word may change (its frame), and the memory invariant. -/

namespace Sys2Proof.Machine

/-! ## Memory in canonical form -/

/-- Memory in its canonical form: device memory lists its bytes at strictly rising addresses, and none that reads as an
unlisted one does. -/
def Memory.wf (m : Mem) : Bool := m.dram.wf

/-- Device memory stands in its canonical form. -/
def State.dramOk (s : State) : Prop := Memory.wf s.mem = true

/-- Every scratchpad stands in its canonical form, those in the checkpoints of sheaf pairs too. -/
def State.scratchOk (s : State) : Prop :=
  ∀ h ∈ s.sheaves, h.scr.wf = true ∧ ∀ p, h.pair.img = some p → p.1.scr.wf = true ∧ p.2.scr.wf = true

/-! ## A word that issues with effect -/

/-- P of a word: the executing lanes whose guard holds (R209). -/
def Warp.performing (w : Warp) (g : Guard) : Mask := w.exec &&& w.guarded g

/-- The well-formed word `i` of warp `w` issues and performs: the warp is in its turn inside a clause of a resident sheaf,
nothing makes the word wait (R195, R451, R504, R507, R523), the other copy of a pair has not trapped, asked for something else or finished here (R505), the checks
of R201 pass with `src` as the sources read under tags, P is not empty (R209), and a compared operation finds room in the compare
buffer of its pair (R503). -/
abbrev Ready (s : State) (w : Warp) (i : Instr) (g : Guard) (src : List Src) : Prop :=
  i.wf = true ∧ s.issuer = some w ∧ s.holds w = false ∧ s.pairPass w i (w.performing g) = false ∧ w.check i src (w.performing g) = none
    ∧ w.suspWait i = false ∧ w.performing g ≠ 0 ∧ (buffered i && s.bufferFull w) = false

/-- Where the executing lanes go after a word that transfers nothing (R31, R183). -/
def Warp.nextAddr (w : Warp) : Nat :=
  if w.clause.slot = w.clause.hdr.count then w.clause.next else w.issueAddr + 8

/-! ## Frames -/

/-- What a word may change in its warp: vector, scalar and predicate registers by number, and whole groups. -/
structure Touch where
  v : List Nat := []
  s : List Nat := []
  p : List Nat := []
  flags : Bool := false
  acc : Bool := false
  dc : Bool := false
  cfg : Bool := false
  spr : Bool := false
  tx : Bool := false
  husk : Bool := false
  pc : Bool := false

/-- Warp `t` is warp `w` but for what `k` names. Doomed lanes take their resume addresses, and their status bits clear, at
the end of a clause (R280), so the predicate bits and `vpc` of doomed lanes are not held fixed. -/
structure Warp.Only (w t : Warp) (k : Touch) : Prop where
  v : ∀ n, n ∉ k.v → t.vget n = w.vget n
  s : ∀ n, n ∉ k.s → t.sget n = w.sget n
  p : ∀ n l, n ∉ k.p → has w.tx.doomed l = false → has (t.pget n) l = has (w.pget n) l
  acc : k.acc = true ∨ t.acc = w.acc
  dc : k.dc = true ∨ t.dc = w.dc
  cfg : k.cfg = true ∨ t.cfg = w.cfg
  spr : k.spr = true ∨ t.spr = { w.spr with fflags := t.spr.fflags }
  flags : k.spr = true ∨ k.flags = true ∨ t.spr.fflags = w.spr.fflags
  tx : k.tx = true ∨ (t.tx.inTx = w.tx.inTx ∧ t.tx.reads = w.tx.reads ∧ t.tx.writes = w.tx.writes)
  husk : k.husk = true ∨ (t.husk = w.husk ∧ t.nseq = w.nseq)
  idle : ∀ l, has w.exec l = false → has w.tx.doomed l = false → t.pcOf l = w.pcOf l
  next : k.pc = true ∨ ∀ l, has w.exec l = true → has w.tx.doomed l = false → t.pcOf l = BitVec.ofNat 64 w.nextAddr
  ident : t.ident = w.ident

/-- Every byte of device memory and of every scratchpad reads as before; poison, caches and every other part of the memory
are as before too. -/
structure State.SameMem (s t : State) : Prop where
  bytes : ∀ a, t.mem.dram.get a = s.mem.dram.get a
  scratch : t.sheaves = s.sheaves
  rest : t.mem = s.mem

/-- State `t` differs from `s` in the warp `vw`, the focus and the identifier counters alone. -/
structure State.OnlyWarp (s t : State) (vw : Nat) : Prop where
  mem : s.SameMem t
  others : ∀ v, v ≠ vw → t.warp v = s.warp v
  launches : t.launches = s.launches
  cmd : t.cmd = s.cmd
  cores : t.cores = s.cores
  streams : t.streams = s.streams
  io : t.io = s.io

/-- `exec i s` answers a next state that changes, beyond what `k` names in warp `w`, nothing, and in which that warp has `φ`. -/
def Leaves (s : State) (w : Warp) (i : Instr) (k : Touch) (φ : Warp → Prop) : Prop :=
  ∃ t w', exec i s = .next t ∧ t.warp w.vw = some w' ∧ w.Only w' k ∧ s.OnlyWarp t w.vw ∧ φ w'

/-- Register `d` of `t` holds, in the lanes of `P`, words with `φ`, and its tag is `tag`; its other lanes are as in `w`. -/
def Warp.LanesAre (w t : Warp) (d : Nat) (P : Mask) (tag : Tag) (φ : Nat → Word32 → Prop) : Prop :=
  t.tag d = tag ∧ ∀ l, l < 32 →
    if has P l then φ l (Lanes.get (t.lanes d) l) else Lanes.get (t.lanes d) l = Lanes.get (w.lanes d) l

/-- A word that writes the vector register `d` and nothing else: in each performing lane l a word with `φ l`. -/
def VecResult (s : State) (w : Warp) (i : Instr) (g : Guard) (src : List Src) (d : R8) (tag : Tag)
    (φ : Nat → Word32 → Prop) : Prop :=
  Ready s w i g src → Leaves s w i { v := [d.toNat] } fun t => w.LanesAre t d.toNat (w.performing g) tag φ

/-- The flags of R78 after a word: those that stood, and those that a performing lane raised (R79). -/
def Warp.FlagsAre (w t : Warp) (P : Mask) (fl : Nat → FlagSet) : Prop :=
  ∀ k, k < 64 → t.spr.fflags.getLsbD k =
    (w.spr.fflags.getLsbD k || (List.range 32).any fun l => has P l && (fl l).getLsbD k)

/-- A word that writes the vector register `d` and raises flags, and nothing else. -/
def VecFlagResult (s : State) (w : Warp) (i : Instr) (g : Guard) (src : List Src) (d : R8) (tag : Tag)
    (φ : Nat → Word32 → Prop) (fl : Nat → FlagSet) : Prop :=
  Ready s w i g src → Leaves s w i { v := [d.toNat], flags := true } fun t =>
    w.LanesAre t d.toNat (w.performing g) tag φ ∧ w.FlagsAre t (w.performing g) fl

/-- A word that writes the pair that starts at register `d` and raises flags, and nothing else (R68). -/
def PairResult (s : State) (w : Warp) (i : Instr) (g : Guard) (src : List Src) (d : R8) (tag : Tag)
    (val : Nat → Word64 × FlagSet) : Prop :=
  Ready s w i g src → Leaves s w i { v := [d.toNat, d.toNat + 1], flags := true } fun t =>
    w.LanesAre t d.toNat (w.performing g) tag (fun l x => x = (val l).1.extractLsb' 0 32) ∧
    w.LanesAre t (d.toNat + 1) (w.performing g) tag (fun l x => x = (val l).1.extractLsb' 32 32) ∧
    w.FlagsAre t (w.performing g) fun l => (val l).2

/-- A word that writes the scalar register `d` and nothing else. -/
def ScalarResult (s : State) (w : Warp) (i : Instr) (g : Guard) (d : R8) (φ : Word64 → Prop) : Prop :=
  Ready s w i g [] → Leaves s w i { s := [d.toNat] } fun t => φ (t.sget d.toNat)

/-- A word that writes the predicate register `d`, raises the flags `fl`, and nothing else; p0 stays all ones (R189). -/
def PredFlagResult (s : State) (w : Warp) (i : Instr) (g : Guard) (src : List Src) (d : Nat) (val : Nat → Bool)
    (fl : Nat → FlagSet) : Prop :=
  Ready s w i g src → Leaves s w i { p := [d], flags := true } fun t =>
    (∀ l, l < 32 → has w.tx.doomed l = false → has (t.pget d) l = (decide (d = 0) || val l)) ∧
    w.FlagsAre t (w.performing g) fl

/-- A word that writes the predicate register `d` and nothing else. -/
def PredResult (s : State) (w : Warp) (i : Instr) (g : Guard) (src : List Src) (d : Nat) (val : Nat → Bool) : Prop :=
  PredFlagResult s w i g src d val fun _ => 0

/-- The bits that a per-lane comparison writes: those of the performing lanes (R210). -/
def Warp.predLanes (w : Warp) (g : Guard) (d : Nat) (val : Nat → Bool) (l : Nat) : Bool :=
  if has (w.performing g) l then val l else has (w.pget d) l

/-- A word of the core's pipelines (R213): it raises its flags at issue and leaves its results pending under an identifier
`id`; the PIPELINE_RESULT_WRITE of that operation then gives the warp `φ` and changes, beyond that, the registers `v` alone. -/
def PipeResult (s : State) (w : Warp) (i : Instr) (g : Guard) (src : List Src) (v : List Nat) (fl : Nat → FlagSet)
    (φ : Warp → Prop) : Prop :=
  Ready s w i g src → (∀ x ∈ w.pipe, x.id < s.nextId) →
    ∃ t w1, exec i s = .next t ∧ t.warp w.vw = some w1 ∧ w.Only w1 { flags := true } ∧ s.OnlyWarp t w.vw ∧
      w.FlagsAre w1 (w.performing g) fl ∧
      ∃ u w2, exec (.pipelineResultWrite w.vw s.nextId) t = .next u ∧ u.warp w.vw = some w2 ∧ φ w2 ∧
        (∀ n, n ∉ v → w2.vget n = w1.vget n) ∧ w2 = { w1 with v := w2.v, pipe := w2.pipe, wins := w2.wins } ∧ s.OnlyWarp u w.vw

/-- A word that takes the husk entry `e` and changes nothing else but its lookahead window (R400, R401). -/
def Takes (s : State) (w : Warp) (i : Instr) (k : Touch) (φ : HkEntry → Prop) : Prop :=
  Leaves s w i { k with husk := true } fun t =>
    t.nseq = w.nseq + 1 ∧ ∃ e, t.husk = w.husk ++ [e] ∧ e.instr = i ∧ e.seq = w.nseq ∧ φ e

/-- A word that writes vector registers, those numbered `V`, as the write-backs `ws` say, and raises flags. -/
def VecWrites (s : State) (w : Warp) (i : Instr) (g : Guard) (src : List Src) (V : List Nat) (ws : List WB)
    (fl : Nat → FlagSet) : Prop :=
  Ready s w i g src → Leaves s w i { v := V, flags := true } fun t =>
    (∀ n, t.vget n = (w.write ws).vget n) ∧ w.FlagsAre t (w.performing g) fl

/-- Two predicates written in full by a lane-crossing word, the second after the first (R247); p0 stays all ones. -/
def Warp.TwoPreds (w t : Warp) (d q : Nat) (x y : Nat → Bool) : Prop :=
  ∀ l, l < 32 → has w.tx.doomed l = false → has (t.pget q) l = (decide (q = 0) || y l) ∧
    (d ≠ q → has (t.pget d) l = (decide (d = 0) || x l))

/-- Flags that half of a paired word raises in a lane (R191). -/
def halfFlags (w : Warp) (h : Compact) (l : Nat) : FlagSet :=
  match h with
  | .nop => 0
  | .op o t _ a b => (compactLane w o t a b l).2

/-- An entry as it is taken: its class, the lanes that issued it and those that have something to perform, the lane addresses and
the registers captured (Table 12.1). -/
structure HkEntry.Fresh (e : HkEntry) (c : HkClass) (P A : Mask) (addr : Nat → Word64) (data : List Lanes) : Prop where
  cls : e.cls = c
  state : e.state = .outstanding
  planes : e.planes = P
  pend : e.pend = A
  perf : e.perf = 0
  addr : ∀ l, has P l = true → lane64 e.addr l = addr l
  data : e.data = data

/-- Room in the husk, and no performing lane in transaction. -/
abbrev Plain (w : Warp) (g : Guard) : Prop := w.huskFull = false ∧ w.tx.inTx &&& w.performing g = 0

/-- A word that takes an entry and parks its warp on it (R366). -/
def Parks (s : State) (w : Warp) (i : Instr) (φ : HkEntry → Prop) : Prop :=
  Leaves s w i { husk := true } fun t => t.slot = .parked ∧ t.nseq = w.nseq + 1 ∧
    ∃ e, t.husk = w.husk ++ [e] ∧ e.instr = i ∧ e.seq = w.nseq ∧ e.parked = true ∧ φ e

/-- The entry of the lowest performing lane alone: a warp-level operation. -/
def Warp.lowLane (w : Warp) (g : Guard) : Mask := maskOf (· == lowest (w.performing g))

/-- Warp `t` is warp `w` after it took a trap (R448 to R451): every pipeline result is written; the lanes of `lanes` stand at the
handler, out of their transactions; the trap registers hold the cause word, the address and the lanes. -/
structure Warp.Trapped (w t : Warp) (lanes : Mask) (cause : Word64) (addr : Nat) : Prop where
  pc : ∀ l, l < 32 → has lanes l = true → t.pcOf l = w.spr.tvec &&& 0x00FFFFFFFFFFFFF8
  others : ∀ l, has lanes l = false → t.pcOf l = w.pcOf l
  tcause : t.spr.tcause = cause
  taddr : t.spr.taddr = BitVec.ofNat 64 addr
  tlanes : t.spr.tlanes = lanes
  tvec : t.spr.tvec = w.spr.tvec
  v : ∀ n, t.vget n = w.drainPipe.vget n
  s : ∀ n, t.sget n = w.drainPipe.sget n
  p : ∀ n, t.pget n = w.drainPipe.pget n
  acc : t.acc = w.acc
  pipe : t.pipe = []
  tx : t.tx.inTx = w.tx.inTx &&& ~~~(lanes &&& w.tx.inTx)
  clause : t.clause.inside = false

/-- What a word that acts through the caches, or on a stream, leaves: its warp is as before but for its husk, and no byte of device
memory or of a scratchpad changes. -/
def Quiet (s : State) (w : Warp) (i : Instr) (k : Touch) (φ : State → Warp → Prop) : Prop :=
  ∃ t w', exec i s = .next t ∧ t.warp w.vw = some w' ∧ w.Only w' { k with husk := true } ∧
    (∀ a, t.mem.dram.get a = s.mem.dram.get a) ∧ t.sheaves = s.sheaves ∧ (∀ v, v ≠ w.vw → t.warp v = s.warp v) ∧ φ t w'

/-- Value of a special register for lane l of a warp about to issue an SREAD (Table 6.10). -/
def State.specialValue (s : State) (w : Warp) (sp : Special) (l : Nat) : Word64 :=
  match sp with
  | .idLane => BitVec.ofNat 64 l
  | .vpc => BitVec.ofNat 64 (w.clause.addr + 8 * (w.clause.slot + 1))
  | .idWarp => BitVec.ofNat 64 w.ident.idWarp
  | .idWg => w.ident.idWg
  | .idSheaf => w.ident.idSheaf.setWidth 64
  | .idCore => BitVec.ofNat 64 w.ident.core
  | .idCluster => BitVec.ofNat 64 (w.ident.core / 24)
  | .idDie => BitVec.ofNat 64 (w.ident.core / 144)
  | .idDevice => s.io.start.device.setWidth 64
  | .role => BitVec.ofNat 64 w.ident.role
  | .timebase => s.io.time.timebase
  | .clock => s.cores.clock.getD (s.coreOf w / 24) 0
  | .lanemap => ((s.cores.maps.find? (·.1 == s.coreOf w)).map (·.2)).getD 0
  | .fmode => w.spr.fmode
  | .fflags => w.spr.fflags
  | .tcause => w.spr.tcause
  | .taddr => w.spr.taddr
  | .tlanes => w.spr.tlanes.setWidth 64
  | .tvec => w.spr.tvec
  | .mprog => w.spr.mprog
  | .rangeLo => w.spr.rangeLo
  | .rangeHi => w.spr.rangeHi
  | .gazeAz => w.spr.gazeAz.setWidth 64
  | .gazeEl => w.spr.gazeEl.setWidth 64
  | .gazeTime => w.spr.gazeTime
  | .gazeSeq => w.spr.gazeSeq.setWidth 64

/-- What a stream keeps of the work of a template's warp. -/
def State.work (s : State) (w : Warp) : Option VWarp := (s.ownStream w).bind fun t => t.warps.find? (·.sid == w.ident.sid)

/-! ## Events of the machine -/

/-- `exec i s` answers a next state, in which `φ` holds. -/
def Goes (s : State) (i : Instr) (φ : State → Prop) : Prop := ∃ t, exec i s = .next t ∧ φ t

/-- The eight words `w` of the head packet of queue `x` start a packet of type `typ`: a core has the queue, nothing keeps the packet
back (R342), its type belongs to the queue, and no reserved bit of it is set (R340, R341, R485). -/
structure Starts (s : State) (x : Queue) (typ : Nat) (w : List Word64) : Prop where
  queue : s.queue x.q = some x
  lock : x.lock.isSome = true
  may : s.mayStart x = true
  fresh : ∀ r ∈ x.running, r.n ≠ x.h
  words : s.packet x x.h = w
  kind : fld (w.getD 0 0) 7 0 = typ
  right : mgmt typ = (x.q == 0)
  bits : fld (w.getD 0 0) 31 10 = 0
  body : ∃ m, bodyBits typ = some m ∧ ∀ p ∈ ((w.drop 1).take 5).zip m, p.1 &&& ~~~p.2 = 0
  signal : mgmt typ = false → (w.getD 6 0).toNat % 8 = 0 ∧ (w.getD 6 0).toNat < 2 ^ 56

/-- A packet as it runs (R341). -/
def runningOf (x : Queue) (w : List Word64) (k : RunKind) : Running :=
  ⟨x.h, fld (w.getD 0 0) 7 0, (w.getD 0 0).extractLsb' 32 32, (w.getD 0 0).getLsbD 8, (w.getD 6 0).toNat, w.getD 7 0, k⟩

/-- The machine once the head packet of a queue has started (R341). -/
def State.started (s : State) (x : Queue) (w : List Word64) : State :=
  s.modQueue x.q fun y => { y with h := next20 y.h, running := y.running ++ [runningOf x w (.launch 0)] }

/-- The packet has completed with a status: it runs no longer, and its record, the next of its queue, has left (R343, R344, Table
10.4). -/
def Completes (t : State) (x : Queue) (w : List Word64) (status : Nat) : Prop :=
  ∃ y, t.queue x.q = some y ∧ y.h = (x.h + 1) % 2 ^ 20 ∧ y.running = x.running ∧ y.recNo = x.recNo + 1 ∧
    .record x.q (x.cring + BitVec.ofNat 64 (16 * (x.recNo % 2 ^ x.logS))) x.rkey
      [at_ ((w.getD 0 0).extractLsb' 32 32).toNat 0 ||| at_ status 32 ||| at_ x.q 36, at_ x.h 0 ||| at_ ((x.h + 1) % 2 ^ 20) 20]
      (if (w.getD 0 0).getLsbD 8 then some (BitVec.ofNat 32 (x.q + x.recNo % 2 ^ 20 * 2 ^ 12)) else none) ∈ t.io.out

/-- The packet runs on, waiting for `k`. -/
def RunsOn (t : State) (x : Queue) (w : List Word64) (k : RunKind) : Prop :=
  ∃ y, t.queue x.q = some y ∧ y.h = (x.h + 1) % 2 ^ 20 ∧ y.running = x.running ++ [runningOf x w k]

/-- An event has been made: it has been sent, or it is held until it can be (R483). -/
def Reports (s t : State) (e : Ev) : Prop :=
  if s.evLink then ∃ n lost, .event (Ev.words { e with time := s.io.time.timebase } n lost) ∈ t.io.out
  else { e with time := s.io.time.timebase } ∈ t.cmd.unsent

/-- Room for one more event. -/
abbrev State.evRoom (s : State) : Prop := s.cmd.unsent.length < 4096

/-- The machine but for its ports' output and its held events is as before. -/
structure State.OnlyReports (s t : State) : Prop where
  warps : t.warps = s.warps
  sheaves : t.sheaves = s.sheaves
  launches : t.launches = s.launches
  mem : t.mem = s.mem
  streams : t.streams = s.streams
  cores : t.cores = s.cores

/-- An entry of a warp stands in the state after an event as `φ` says, and the warp's registers are as before. -/
def EntryIs (w : Warp) (t : State) (seq : BitVec 16) (φ : HkEntry → Prop) : Prop :=
  ∃ w' e', t.warp w.vw = some w' ∧ w'.entry seq = some e' ∧ φ e' ∧
    (∀ n, w'.vget n = w.vget n) ∧ (∀ n, w'.sget n = w.sget n) ∧ (∀ n, w'.pget n = w.pget n) ∧ w'.vpc = w.vpc

end Sys2Proof.Machine
end

