-- ==== Sys2Proof/Certificates/Slice0/Obligations.lean ====
section
/-! DEFINITION. The statements about the DF7440 model, for the provers. Each names the rules of spec/ that it formalises. -/

open Sys2Proof Sys2Proof.Machine

/-! ## Register instructions -/

/-- R223, R224, Table 7.3: the scalar integer instructions complete, write the scalar register named, and change nothing else.
Table 7.3, R224: SCLZ counts the zeros above the highest set bit, SPOPC the set bits; SMOVI.mid and SMOVI.hi replace bits
[47:24] and [63:48] alone. -/
def Obligations.ScalarInstructions : Prop :=
  (∀ (s : State) (w : Warp) (g : Guard) (d a c : R8) (b : SB) (imm24 : BitVec 24),
     let R (i : Instr) (x : Word64) := ScalarResult s w i g d fun y => y = x
     let A := w.sget a.toNat
     let B := match b with
       | .reg r => w.sget r.toNat
       | .imm v => v.signExtend 64
     let C := w.sget c.toNat
     R (.sadd g d a b) (A + B) ∧ R (.ssub g d a b) (A - B) ∧ R (.smul g d a b) (A * B) ∧
     R (.smulh g false d a c) ((A.signExtend 128 * C.signExtend 128).extractLsb' 64 64) ∧
     R (.smulh g true d a c) ((A.setWidth 128 * C.setWidth 128).extractLsb' 64 64) ∧
     R (.sand g d a b) (A &&& B) ∧ R (.sor g d a b) (A ||| B) ∧ R (.sxor g d a b) (A ^^^ B) ∧
     R (.sshl g d a b) (A <<< (B.toNat % 64)) ∧ R (.sshr g d a b) (A >>> (B.toNat % 64)) ∧
     R (.ssra g d a b) (A.sshiftRight (B.toNat % 64)) ∧
     R (.smov g d a) A ∧ R (.smovi g d imm24) (imm24.signExtend 64) ∧
     (∀ r, R (.ssel g d a c r) (if w.sget r.toNat = 0 then C else A))) ∧
  (∀ (s : State) (w : Warp) (g : Guard) (d a : R8) (imm24 : BitVec 24) (imm16 : BitVec 16),
     let A := w.sget a.toNat
     let D := w.sget d.toNat
     ScalarResult s w (.sclz g d a) g d (fun y => y.toNat ≤ 64 ∧ (∀ k, k < 64 → 64 ≤ k + y.toNat → A.getLsbD k = false) ∧
       (y.toNat < 64 → A.getLsbD (63 - y.toNat) = true)) ∧
     ScalarResult s w (.spopc g d a) g d (fun y => y.toNat = ((List.range 64).filter fun k => A.getLsbD k).length) ∧
     ScalarResult s w (.smoviMid g d imm24) g d (fun y => ∀ k, k < 64 →
       y.getLsbD k = if 24 ≤ k ∧ k < 48 then imm24.getLsbD (k - 24) else D.getLsbD k) ∧
     ScalarResult s w (.smoviHi g d imm16) g d (fun y => ∀ k, k < 64 →
       y.getLsbD k = if 48 ≤ k then imm16.getLsbD (k - 48) else D.getLsbD k))

/-- R225, R229, R235, R255, Table 7.7, Table 7.12: comparisons and predicate instructions complete, write the predicate register
named (p0 stays all ones) and change nothing else; comparisons per lane write the bits of the performing lanes alone. Table
7.12: PMOV.tos, PCOUNT and PFIRST write a scalar register: the bits of the predicate, how many are set, and the lowest set
bit's number, 32 for none. PMOV.tov writes the predicate's bits to every performing lane. -/
def Obligations.PredicateInstructions : Prop :=
  (∀ (s : State) (w : Warp) (g : Guard) (d a b : R8) (x y : BitVec 5),
     let R (i : Instr) (f : Nat → Bool) := PredResult s w i g [] d.toNat f
     let A := w.sget a.toNat
     let B := w.sget b.toNat
     let PA := has (w.pget a.toNat)
     let PB := has (w.pget b.toNat)
     (∀ cc, R (.scmp g cc d a b) fun _ => match cc with
       | .eq => decide (A = B) | .ne => decide (A ≠ B)
       | .lt => decide (A.toInt < B.toInt) | .le => decide (A.toInt ≤ B.toInt)
       | .gt => decide (B.toInt < A.toInt) | .ge => decide (B.toInt ≤ A.toInt)
       | .ltu => decide (A.toNat < B.toNat) | .leu => decide (A.toNat ≤ B.toNat)
       | .gtu => decide (B.toNat < A.toNat) | .geu => decide (B.toNat ≤ A.toNat)) ∧
     R (.pand g d a b) (fun l => PA l && PB l) ∧ R (.por g d a b) (fun l => PA l || PB l) ∧
     R (.pxor g d a b) (fun l => PA l != PB l) ∧ R (.pnot g d a) (fun l => !PA l) ∧ R (.pmov g d a) PA ∧
     R (.pset g d a) (fun l => A.getLsbD l) ∧ R (.psetRng g d x y) (fun l => decide (x.toNat ≤ l ∧ l ≤ y.toNat)) ∧
     R (.psetAnd g d x y) (fun l => l &&& x.toNat == y.toNat) ∧
     PredResult s w (.pmovFrv g d a) g [⟨a, 1, tRaw⟩] d.toNat (w.predLanes g d.toNat fun l => w.ln a l != 0) ∧
     (∀ cc t, PredResult s w (.vcmp g cc t d a b) g [⟨a, 1, tInt⟩, ⟨b, 1, tInt⟩] d.toNat (w.predLanes g d.toNat fun l =>
       let X : Int := if t = .i32 then (w.ln a l).toInt else (w.ln a l).toNat
       let Y : Int := if t = .i32 then (w.ln b l).toInt else (w.ln b l).toNat
       match cc with
       | .eq => decide (X = Y) | .ne => decide (X ≠ Y) | .lt => decide (X < Y)
       | .le => decide (X ≤ Y) | .gt => decide (Y < X) | .ge => decide (Y ≤ X))) ∧
     (∀ cc dbl, PredFlagResult s w (.vfcmp g cc dbl d a b) g [⟨a, dblRegs dbl, dblTags dbl⟩, ⟨b, dblRegs dbl, dblTags dbl⟩]
       d.toNat (w.predLanes g d.toNat fun l => (fcmpHolds cc (w.fval dbl a l) (w.fval dbl b l)).1)
       fun l => (fcmpHolds cc (w.fval dbl a l) (w.fval dbl b l)).2)) ∧
  (∀ (s : State) (w : Warp) (g : Guard) (d a : R8),
     let p := w.pget a.toNat
     ScalarResult s w (.pmovTos g d a) g d (fun y => y.toNat = p.toNat) ∧
     ScalarResult s w (.pcount g d a) g d (fun y => y.toNat = ((List.range 32).filter fun l => p.getLsbD l).length) ∧
     ScalarResult s w (.pfirst g d a) g d (fun y => y.toNat ≤ 32 ∧ (∀ l, l < y.toNat → p.getLsbD l = false) ∧
       (y.toNat < 32 → p.getLsbD y.toNat = true)) ∧
     VecResult s w (.pmovTov g d a) g [] d 0 (fun _ x => x = p))

/-- R226, R227: the wrapping integer instructions act on each element of the form, modulo 2^w: element k of the result is that of
the exact integer result; the result's tag is the form's. -/
def Obligations.VectorIntegerWraps : Prop :=
  ∀ (s : State) (w : Warp) (g : Guard) (t : ITy) (pk : Pack) (d a b : R8),
    let wd := packWidth pk
    let R (i : Instr) (t : ITy) (src : List Src) (f : Int → Int → Int) :=
      VecResult s w i g src d (intTag t pk) fun l x => ∀ k, k < 32 / wd →
        elem false wd k x = f (elem (t == .i32) wd k (w.ln a l)) (elem (t == .i32) wd k (w.ln b l)) % 2 ^ wd
    let two : List Src := [⟨a, 1, intTags pk⟩, ⟨b, 1, intTags pk⟩]
    let one : List Src := [⟨a, 1, intTags pk⟩]
    R (.vadd g t pk d a b) t two (· + ·) ∧ R (.vsub g t pk d a b) t two (· - ·) ∧ R (.vmul g t pk d a b) t two (· * ·) ∧
    R (.vmin g t pk d a b) t two min ∧ R (.vmax g t pk d a b) t two max ∧
    R (.vabs g pk d a) .i32 one (fun x _ => (x.natAbs : Int)) ∧ R (.vneg g pk d a) .i32 one (fun x _ => -x)

/-- R227, R70, R231: the saturating instructions clamp each exact element to its range, and SAT rises when a performing lane's
element was clamped; VDOT4 clamps c plus the four products of signed bytes. -/
def Obligations.VectorIntegerSaturates : Prop :=
  ∀ (s : State) (w : Warp) (g : Guard) (t : ITy) (pk : Pack) (d a b c : R8),
    let wd := packWidth pk
    let lo : Int := if t = .i32 then -2 ^ (wd - 1) else 0
    let hi : Int := if t = .i32 then 2 ^ (wd - 1) - 1 else 2 ^ wd - 1
    let E (r : R8) (k l : Nat) := elem (t == .i32) wd k (w.ln r l)
    let R (i : Instr) (f : Int → Int → Int) :=
      VecFlagResult s w i g [⟨a, 1, intTags pk⟩, ⟨b, 1, intTags pk⟩] d (intTag t pk)
        (fun l x => ∀ k, k < 32 / wd → elem (t == .i32) wd k x = max lo (min hi (f (E a k l) (E b k l))))
        fun l => if (List.range (32 / wd)).all fun k => decide (lo ≤ f (E a k l) (E b k l) ∧ f (E a k l) (E b k l) ≤ hi)
          then 0 else 32
    let dot (l : Nat) : Int := (w.ln c l).toInt + elem true 8 0 (w.ln a l) * elem true 8 0 (w.ln b l)
      + elem true 8 1 (w.ln a l) * elem true 8 1 (w.ln b l) + elem true 8 2 (w.ln a l) * elem true 8 2 (w.ln b l)
      + elem true 8 3 (w.ln a l) * elem true 8 3 (w.ln b l)
    R (.vadds g t pk d a b) (· + ·) ∧ R (.vsubs g t pk d a b) (· - ·) ∧
    VecFlagResult s w (.vdot4 g d a b c) g [⟨a, 1, [0, 12]⟩, ⟨b, 1, [0, 12]⟩, ⟨c, 1, tInt⟩] d 1
      (fun l x => x.toInt = max (-2 ^ 31) (min (2 ^ 31 - 1) (dot l)))
      fun l => if -2 ^ 31 ≤ dot l ∧ dot l ≤ 2 ^ 31 - 1 then 0 else 32

/-- R227: bitwise instructions, shifts by the whole second source, rotates, funnel shifts, high products and multiply-adds. R227,
R232, R233: counts, bit reversal, bit fields and bit interleaving, bit by bit. -/
def Obligations.VectorBits : Prop :=
  (∀ (s : State) (w : Warp) (g : Guard) (d a b c : R8),
     let one : List Src := [⟨a, 1, tRaw⟩]
     let two : List Src := [⟨a, 1, tRaw⟩, ⟨b, 1, tRaw⟩]
     let three : List Src := [⟨a, 1, tRaw⟩, ⟨b, 1, tRaw⟩, ⟨c, 1, tRaw⟩]
     let A := w.ln a
     let B := w.ln b
     let C := w.ln c
     let R (i : Instr) (src : List Src) (f : Nat → Word32) := VecResult s w i g src d 0 fun l x => x = f l
     R (.vand g d a b) two (fun l => A l &&& B l) ∧ R (.vor g d a b) two (fun l => A l ||| B l) ∧
     R (.vxor g d a b) two (fun l => A l ^^^ B l) ∧ R (.vnot g d a) one (fun l => ~~~(A l)) ∧
     R (.vshl g d a b) two (fun l => A l <<< (B l).toNat) ∧ R (.vshr g d a b) two (fun l => A l >>> (B l).toNat) ∧
     R (.vsra g d a b) two (fun l => (A l).sshiftRight (B l).toNat) ∧
     R (.vrot g d a b) two (fun l => (A l <<< ((B l).toNat % 32)) ||| (A l >>> (32 - (B l).toNat % 32))) ∧
     R (.vfunl g d a b c) three (fun l => ((A l ++ B l) <<< ((C l).toNat % 32)).extractLsb' 32 32) ∧
     (∀ t, VecResult s w (.vmulh g t d a b) g [⟨a, 1, tInt⟩, ⟨b, 1, tInt⟩] d (if t = .i32 then 1 else 2) fun l x => x =
       if t = .i32 then ((A l).signExtend 64 * (B l).signExtend 64).extractLsb' 32 32
       else ((A l).setWidth 64 * (B l).setWidth 64).extractLsb' 32 32) ∧
     (∀ t, VecResult s w (.vmad g t d a b c) g [⟨a, 1, tInt⟩, ⟨b, 1, tInt⟩, ⟨c, 1, tInt⟩] d (if t = .i32 then 1 else 2)
       fun l x => x = A l * B l + C l)) ∧
  (∀ (s : State) (w : Warp) (g : Guard) (d a b c : R8) (k : BitVec 2),
     let one : List Src := [⟨a, 1, tRaw⟩]
     let two : List Src := [⟨a, 1, tRaw⟩, ⟨b, 1, tRaw⟩]
     let three : List Src := [⟨a, 1, tRaw⟩, ⟨b, 1, tRaw⟩, ⟨c, 1, tRaw⟩]
     let A (l i : Nat) := (w.ln a l).getLsbD i
     let B (l i : Nat) := (w.ln b l).getLsbD i
     let C (l i : Nat) := (w.ln c l).getLsbD i
     let off (l : Nat) := (w.ln b l).toNat % 32
     let len (l : Nat) := min ((w.ln b l).toNat / 256 % 64) 32
     let R (i : Instr) (src : List Src) (φ : Nat → Word32 → Prop) := VecResult s w i g src d 0 φ
     let bits (f : Nat → Nat → Bool) (l : Nat) (x : Word32) : Prop := ∀ i, i < 32 → x.getLsbD i = f l i
     R (.vclz g d a) one (fun l x => x.toNat ≤ 32 ∧ (∀ i, i < 32 → 32 ≤ i + x.toNat → A l i = false) ∧
       (x.toNat < 32 → A l (31 - x.toNat) = true)) ∧
     R (.vpopc g d a) one (fun l x => x.toNat = ((List.range 32).filter (A l)).length) ∧
     R (.vbrev g d a) one (bits fun l i => A l (31 - i)) ∧
     R (.vbfe g false d a b) two (bits fun l i => decide (i < len l) && A l (off l + i)) ∧
     R (.vbfe g true d a b) two (bits fun l i =>
       decide (len l ≠ 0) && if i < len l then A l (off l + i) else A l (off l + len l - 1)) ∧
     R (.vbfi g d a b c) three (bits fun l i =>
       if off l ≤ i ∧ i < off l + len l then A l (i - off l) else C l i) ∧
     R (.vbitil g false d a b c) two (bits fun l i => if i % 2 = 0 then A l (i / 2) else B l (i / 2)) ∧
     R (.vbitil g true d a b c) three (bits fun l i => decide (i < 30) &&
       if i % 3 = 0 then A l (i / 3) else if i % 3 = 1 then B l (i / 3) else C l (i / 3)) ∧
     R (.vbitdl g false d a k) one (bits fun l i => decide (i < 16) && A l (2 * i + k.toNat)) ∧
     R (.vbitdl g true d a k) one (bits fun l i => decide (i < 10) && A l (3 * i + k.toNat)))

/-- R228: VADDC and VSUBB add, or subtract, three terms; the carry out of each performing lane goes to its bit of the carry
predicate, the other bits of which are kept. -/
def Obligations.CarryChains : Prop :=
  ∀ (s : State) (w : Warp) (g : Guard) (t : ITy) (d a b ci : R8) (co : BitVec 4),
    let P := w.performing g
    let c (l : Nat) : Nat := if has (w.pget ci.toNat) l then 1 else 0
    let R (i : Instr) (f : Nat → Word32) (out : Nat → Bool) :=
      Ready s w i g [⟨a, 1, tInt⟩, ⟨b, 1, tInt⟩] → Leaves s w i { v := [d.toNat], p := [co.toNat] } fun u =>
        w.LanesAre u d.toNat P (if t = .i32 then 1 else 2) (fun l x => x = f l) ∧
        ∀ l, l < 32 → has w.tx.doomed l = false →
          has (u.pget co.toNat) l = (decide (co = 0) || w.predLanes g co.toNat out l)
    R (.vaddc g t d a b ci co) (fun l => w.ln a l + w.ln b l + BitVec.ofNat 32 (c l))
      (fun l => decide (2 ^ 32 ≤ (w.ln a l).toNat + (w.ln b l).toNat + c l)) ∧
    R (.vsubb g t d a b ci co) (fun l => w.ln a l - w.ln b l - BitVec.ofNat 32 (c l))
      (fun l => decide ((w.ln a l).toNat < (w.ln b l).toNat + c l))

/-- R74, R227, R229, R230, R246, R252: moves carry the bits of their sources, and the tags that their entries give; VBCAST gives
every performing lane one word, lane L's unless L executes and is guarded off. The model's own choice there: log entry 91. -/
def Obligations.VectorMoves : Prop :=
  ∀ (s : State) (w : Warp) (g : Guard) (d a b c : R8) (t : MovTy) (n : BitVec 24) (h : BitVec 16) (tag : Tag) (m : BitVec 5),
    let any (r : R8) (k : Nat) : Src := ⟨r, k, tAny⟩
    let ta := w.tag a.toNat
    let tb := w.tag b.toNat
    let mt : Tag := match t with
      | .i32 => 1 | .u32 => 2 | .b32 => 0 | .f32 => 3
    VecResult s w (.vsel g d a b c) g [any a 1, any b 1] d (if ta = 15 ∨ tb = 15 then 15 else if ta = tb then ta else 0)
      (fun l x => x = if has (w.pget c.toNat) l then w.ln a l else w.ln b l) ∧
    VecResult s w (.vmov g false d a) g [any a 1] d ta (fun l x => x = w.ln a l) ∧
    (Ready s w (.vmov g true d a) g [any a 2] → Leaves s w (.vmov g true d a) { v := [d.toNat, d.toNat + 1] } fun u =>
      w.LanesAre u d.toNat (w.performing g) ta (fun l x => x = Lanes.get (w.lanes a.toNat) l) ∧
      w.LanesAre u (d.toNat + 1) (w.performing g) (w.tag (a.toNat + 1))
        (fun l x => x = Lanes.get (w.lanes (a.toNat + 1)) l)) ∧
    VecResult s w (.vmovi g t d n) g [] d mt (fun _ x => x = if t = .i32 then n.signExtend 32 else n.setWidth 32) ∧
    VecResult s w (.vmoviHi g t d h) g [] d mt (fun _ x => x = h ++ 0#16) ∧
    VecResult s w (.vmoviLo g t d h) g [⟨d, 1, movTags t⟩] d mt (fun l x => x = (w.ln d l).extractLsb' 16 16 ++ h) ∧
    VecResult s w (.vtag g d a tag) g [any a 1] d (if ta = 15 then 15 else tag) (fun l x => x = w.ln a l) ∧
    (has (w.exec &&& ~~~(w.performing g)) m.toNat = false →
      VecResult s w (.vbcast g d (.lane a m)) g [any a 1] d ta (fun _ x => x = w.ln a m.toNat)) ∧
    (Ready s w (.vbcast g d (.lane a m)) g [any a 1] → Leaves s w (.vbcast g d (.lane a m)) { v := [d.toNat] } fun u =>
      ∃ y, w.LanesAre u d.toNat (w.performing g) ta fun _ x => x = y) ∧
    VecResult s w (.vbcast g d (.scal a)) g [] d 0 (fun _ x => x = (w.sget a.toNat).extractLsb' 0 32)

/-- R234 to R237, R77 to R82, Table 7.6: the floating-point instructions that write at issue compute each element of a performing
lane exactly and round it once, under `FMODE.RM` or the mode of the word; every flag that a performing lane raises stands
afterwards. -/
def Obligations.FloatResults : Prop :=
  ∀ (s : State) (w : Warp) (g : Guard) (d a b c : R8) (t : FTy) (dbl x : Bool) (m : Rnd),
    let R (i : Instr) (t : FTy) (l : List R8) (op : FOp) :=
      let src := l.map fun r => (⟨r, t.regs, fTags t⟩ : Src)
      if t = .f64 then PairResult s w i g src d 4 fun j => dLane w.rm op (l.map fun r => w.ln64 r j)
      else VecFlagResult s w i g src d (fTag t) (fun j y => y = (fLane t w.rm op (l.map fun r => w.ln r j)).1)
        fun j => (fLane t w.rm op (l.map fun r => w.ln r j)).2
    let sc (n : Word32) : FOp := fun f rm l => f.fin rm ((arg l 0).scale n.toInt)
    R (.vfadd g t d a b) t [a, b] addOp ∧ R (.vfsub g t d a b) t [a, b] subOp ∧ R (.vfmul g t d a b) t [a, b] mulOp ∧
    R (.vfma g t d a b c) t [a, b, c] fmaOp ∧ R (.vfmin g t d a b) t [a, b] minOp ∧ R (.vfmax g t d a b) t [a, b] maxOp ∧
    R (.vfrnd g dbl m x d a) (dblTy dbl) [a] (rndOp m x) ∧ R (.vffrac g dbl d a) (dblTy dbl) [a] fracOp ∧
    (VecResult s w (.vfclass g dbl d a) g [⟨a, dblRegs dbl, dblTags dbl⟩] d 2
      fun l y => y = (w.fval dbl a l).classOf (if dbl then F64 else F32)) ∧
    (VecFlagResult s w (.vfscale g false d a b) g [⟨a, 1, tF32⟩, ⟨b, 1, tInt⟩] d 3
      (fun l y => y = (fLane .f32 w.rm (sc (w.ln b l)) [w.ln a l]).1) fun l => (fLane .f32 w.rm (sc (w.ln b l)) [w.ln a l]).2) ∧
    (PairResult s w (.vfscale g true d a b) g [⟨a, 2, tF64⟩, ⟨b, 1, tInt⟩] d 4
      fun l => dLane w.rm (sc (w.ln b l)) [w.ln64 a l])

/-- R71, R77: rounding the value of a bit pattern that is no NaN into its own format gives that pattern and raises no flag, in
every rounding mode. R81, R82: an arithmetic operation with a NaN operand gives the canonical NaN of its format, with NV
exactly when an operand is signalling; minimum and maximum of a number and a NaN give the number. R80: the fused multiply-add
is the exact product plus the addend, rounded once, and 0 × ∞ is invalid even with a NaN addend. The square root of a number
below 0 is invalid; that of a positive value of the format, rounded toward zero, is the largest value of the format whose
square does not exceed it, with NX exactly when it is smaller than the root. -/
def Obligations.RoundingAndNans : Prop :=
  (∀ f ∈ [F64, F32, F16, BF16, E4M3, E5M2], ∀ (rm : RM) (x : Nat), x < 2 ^ f.width → (f.value x).isNan = false →
     f.put rm (f.value x) = (x, 0)) ∧
  (∀ (f : FFmt) (rm : RM) (a b : FV), f ∈ [F64, F32, F16, BF16] →
     let nv : FlagSet := if a.isSig || b.isSig then 16 else 0
     (a.isNan = true ∨ b.isNan = true →
       addOp f rm [a, b] = (f.nan, nv) ∧ subOp f rm [a, b] = (f.nan, nv) ∧ mulOp f rm [a, b] = (f.nan, nv) ∧
         divOp f rm [a, b] = (f.nan, nv)) ∧
     (a.isNan = true → b.isNan = false → ∀ x, x < 2 ^ f.width → b = f.value x →
       minOp f rm [a, b] = (x, nv) ∧ maxOp f rm [b, a] = (x, nv))) ∧
  (∀ (f : FFmt) (rm : RM) (a b c : FV), f ∈ [F64, F32, F16, BF16] →
     let times0 (a b : FV) : Prop := ∃ n z e, a = .inf n ∧ b = .fin z 0 e
     ((times0 a b ∨ times0 b a) → fmaOp f rm [a, b, c] = (f.nan, 16)) ∧
     (¬times0 a b → ¬times0 b a → (a.isNan = true ∨ b.isNan = true ∨ c.isNan = true) →
       fmaOp f rm [a, b, c] = (f.nan, if a.isSig || b.isSig || c.isSig then 16 else 0)) ∧
     (∀ n1 m1 e1 n2 m2 e2 n3 m3 e3, a = .fin n1 m1 e1 → b = .fin n2 m2 e2 → c = .fin n3 m3 e3 →
       let E := min (e1 + e2) e3
       let signed (n : Bool) (m : Nat) : Int := if n then -(m : Int) else m
       let S : Int := signed (n1 != n2) (m1 * m2) * 2 ^ (e1 + e2 - E).toNat + signed n3 m3 * 2 ^ (e3 - E).toNat
       (S ≠ 0 → fmaOp f rm [a, b, c] = f.put rm (.fin (decide (S < 0)) S.natAbs E)) ∧
       (S = 0 → m3 ≠ 0 → fmaOp f rm [a, b, c] = f.put rm (.fin (rm == .dn) 0 0)) ∧
       (S = 0 → m3 = 0 → fmaOp f rm [a, b, c] = f.put rm (.fin (if (n1 != n2) = n3 then n3 else rm == .dn) 0 0)))) ∧
  (∀ (f : FFmt) (rm : RM) (m : Nat) (e : Int) (neg sig : Bool), f ∈ [F64, F32, F16, BF16] →
     sqrtOp f rm [.nan sig] = (f.nan, if sig then 16 else 0) ∧
     sqrtOp f rm [.inf neg] = (if neg then (f.nan, 16) else f.put rm (.inf false)) ∧
     sqrtOp f rm [.fin neg 0 e] = f.put rm (.fin neg 0 0) ∧ (0 < m → sqrtOp f rm [.fin true m e] = (f.nan, 16)) ∧
     (∀ x, x < 2 ^ f.width → f.value x = .fin false m e → 0 < m → ∃ n q,
       f.value (sqrtOp f .tz [f.value x]).1 = .fin false n q ∧
       let k := min e (2 * q)
       let at_ (y : Nat) : Nat := y ^ 2 * 2 ^ (2 * q - k).toNat
       let v := m * 2 ^ (e - k).toNat
       at_ n ≤ v ∧ v < at_ (n + 1) ∧ (sqrtOp f .tz [f.value x]).2 = if at_ n = v then 0 else 1))

/-- R213, R238 to R240, R100, R101: the long-latency floating-point instructions issue with a lookahead window, raise their flags,
and write the results that they had at issue when the pipeline completes. The model's own choices here: log entries 46, 47. -/
def Obligations.FloatPipelines : Prop :=
  ∀ (s : State) (w : Warp) (g : Guard) (la : BitVec 4) (d a b : R8),
    let P := w.performing g
    let x (l : Nat) := F32.value (w.ln a l).toNat
    let f32 (i : Instr) (src : List R8) (val : Nat → Nat × FlagSet) :=
      PipeResult s w i g (src.map fun r => ⟨r, 1, tF32⟩) [d.toNat] (fun l => (val l).2)
        fun u => w.LanesAre u d.toNat P 3 fun l y => y = BitVec.ofNat 32 (val l).1
    let f64 (i : Instr) (src : List R8) (op : FOp) :=
      let val (l : Nat) := dLane w.rm op (src.map fun r => w.ln64 r l)
      PipeResult s w i g (src.map fun r => ⟨r, 2, tF64⟩) [d.toNat, d.toNat + 1] (fun l => (val l).2) fun u =>
        w.LanesAre u d.toNat P 4 (fun l y => y = (val l).1.extractLsb' 0 32) ∧
        w.LanesAre u (d.toNat + 1) P 4 fun l y => y = (val l).1.extractLsb' 32 32
    f32 (.vfdivs g la false d a b) [a, b] (fun l => divOp F32 w.rm [x l, F32.value (w.ln b l).toNat]) ∧
    f64 (.vfdivs g la true d a b) [a, b] divOp ∧
    f32 (.vfsqrts g la false d a) [a] (fun l => sqrtOp F32 w.rm [x l]) ∧ f64 (.vfsqrts g la true d a) [a] sqrtOp ∧
    f32 (.vfrcp g la d a) [a] (fun l => rcpOf w.rm (x l)) ∧ f32 (.vfrsq g la d a) [a] (fun l => rsqOf w.rm (x l)) ∧
    f32 (.vfexp2 g la d a) [a] (fun l => exp2Of w.rm (x l)) ∧ f32 (.vflog2 g la d a) [a] (fun l => log2Of w.rm (x l)) ∧
    f32 (.vfsinp g la d a) [a] (fun l => sinPiOf w.rm (x l)) ∧ f32 (.vfcosp g la d a) [a] (fun l => cosPiOf w.rm (x l)) ∧
    (let r (l : Nat) := smUpdate (Lanes.get (w.lanes d.toNat) l).toNat (Lanes.get (w.lanes (d.toNat + 1)) l).toNat
        ((List.range 4).map fun k => (Lanes.get (w.lanes (a.toNat + k)) l).toNat) (w.ln b l).toNat
     PipeResult s w (.vsmupd g la d a b) g [⟨d, 2, tF32⟩, ⟨a, 4, tF32⟩, ⟨b, 1, tF32⟩] [d.toNat, d.toNat + 1]
      (fun l => (r l).2.2) fun u =>
        w.LanesAre u d.toNat P 3 (fun l y => y = BitVec.ofNat 32 (r l).1) ∧
        w.LanesAre u (d.toNat + 1) P 3 fun l y => y = BitVec.ofNat 32 (r l).2.1) ∧
    (let r (l : Nat) := rcpOf .ne (F32.value (Lanes.get (w.lanes (a.toNat + 1)) l).toNat)
     PipeResult s w (.vsmfin g la d a) g [⟨a, 2, tF32⟩] [d.toNat, d.toNat + 1] (fun l => (r l).2) fun u =>
        w.LanesAre u d.toNat P 3 (fun l y => y = w.ln a l) ∧
        w.LanesAre u (d.toNat + 1) P 3 fun l y => y = BitVec.ofNat 32 (r l).1)

/-- R241, R242, Table 7.8: VCVT converts each lane with one rounding; VPACK narrows the registers of its group to the elements of
one register, VUNPACK widens them. R86 to R89, R243 to R245, Table 3.11: VBXQ writes the codes of one block over all 32 lanes
and the two exponent bytes; VBXD gives each lane its element's value; VPLANE puts bit j of element i of source register r at
the place of the plane arrangement, and VUNPLANE takes it back from there. The model's own choices here: log entry 94. -/
def Obligations.FormatConversions : Prop :=
  (∀ (s : State) (w : Warp) (g : Guard) (cv : Cvt) (f : PackFmt) (m : Rnd) (d a : R8),
     let P := w.performing g
     let src : List Src := [⟨a, dblRegs cv.dblS, cvtSrcTags cv⟩]
     let x (l : Nat) := cvtLane cv (rndMode w.rm m) (if cv.dblS then (w.ln64 a l).toNat else (w.ln a l).toNat)
     let e (k l : Nat) := packElem f (rndMode w.rm m) (Lanes.get (w.lanes (a.toNat + k)) l)
     (if cv.dblD then PairResult s w (.vcvt g cv m d a) g src d (cvtTag cv) fun l => (BitVec.ofNat 64 (x l).1, (x l).2)
      else VecFlagResult s w (.vcvt g cv m d a) g src d (cvtTag cv) (fun l y => y = BitVec.ofNat 32 (x l).1) fun l => (x l).2) ∧
     VecFlagResult s w (.vpack g f m d a) g [⟨a, f.n, wideTags f⟩] d (packTag f)
       (fun l y => ∀ k, k < f.n → y.toNat / 2 ^ (packW f * k) % 2 ^ packW f = (e k l).1)
       (fun l => (List.range f.n).foldl (fun b k => b ||| (e k l).2) 0) ∧
     VecWrites s w (.vunpack g f d a) g [⟨a, 1, [0, (packTag f).toNat]⟩] ((List.range f.n).map (d.toNat + ·))
       ((List.range f.n).map fun k => .v (d.toNat + k) P (Lanes.of fun l => (unpackElem f k (w.ln a l)).1) (wideTag f))
       fun l => (List.range f.n).foldl (fun b k => b ||| (unpackElem f k (w.ln a l)).2) 0) ∧
  (∀ (s : State) (w : Warp) (g : Guard) (f : BxFmt) (pf : PlFmt) (blk : BitVec 3) (d e a : R8),
     let all := BitVec.allOnes 32
     let qz := bxQuant f ((List.range 32).map fun l => F32.value (w.ln a l).toNat)
     let img := bxLanes f blk.toNat qz.1
     let el (l : Nat) : FV := bxValue f (bxGet f (w.lanes a.toNat) blk.toNat l) ((w.ln e blk.toNat).toNat % 256)
       ((w.ln e blk.toNat).toNat / 256 % 256)
     let place (r i j : Nat) := planeAt (pf == .x6) (r / 2) (r % 2) (plW pf - 1 - j) i
     (Ready s w (.vbxq g f blk d e a) g [⟨a, 1, tF32⟩] →
       Leaves s w (.vbxq g f blk d e a) { v := [d.toNat, e.toNat], flags := true } fun t =>
         (∀ n, t.vget n = (w.write [.v d.toNat (if f = .x6 then img.1 ||| 0xFF000000 else img.1) img.2 (bxTag f),
           .v e.toNat (1#32 <<< blk.toNat) (Lanes.all (BitVec.ofNat 32 (qz.2.1 + 256 * qz.2.2.1))) 0]).vget n) ∧
         w.FlagsAre t 1 fun _ => qz.2.2.2) ∧
     VecResult s w (.vbxd g f blk d a e) g [⟨a, 1, [0, (bxTag f).toNat]⟩, ⟨e, 1, tRaw⟩] d 3
       (fun l y => y = BitVec.ofNat 32 (F32.put .ne (el l)).1) ∧
     (Ready s w (.vplane g pf d a) g [⟨a, pf.q, tRaw⟩] → Leaves s w (.vplane g pf d a) { v := [d.toNat] } fun t =>
       t.tag d.toNat = plTag pf ∧ (∀ r i j, r < pf.q → i < 32 → j < plW pf →
         (Lanes.get (t.lanes d.toNat) (place r i j).1).getLsbD (place r i j).2 =
           (Lanes.get (w.lanes (a.toNat + r)) i).getLsbD j) ∧
       (pf = .x6 → ∀ l, 24 ≤ l → l < 32 → Lanes.get (t.lanes d.toNat) l = 0)) ∧
     (Ready s w (.vunplane g pf d a) g [⟨a, 1, [0, (plTag pf).toNat]⟩] →
       Leaves s w (.vunplane g pf d a) { v := (List.range pf.q).map (d.toNat + ·) } fun t => ∀ r, r < pf.q →
         w.LanesAre t (d.toNat + r) all (if pf = .i4 then 1 else 0) fun i y => ∀ j, j < 32 →
           y.getLsbD j = if j < plW pf then (Lanes.get (w.lanes a.toNat) (place r i j).1).getLsbD (place r i j).2
             else decide (pf = .i4) && (Lanes.get (w.lanes a.toNat) (place r i 3).1).getLsbD (place r i 3).2))

/-- R247 to R251, R254: lane-crossing instructions that move and compare bits: results over the performing lanes, and the second
predicate from the executing set E. The model's own choices here: log entry 94. -/
def Obligations.LaneCrossing : Prop :=
  ∀ (s : State) (w : Warp) (g : Guard) (d a b pm : R8) (bit : BitVec 5) (q pq : BitVec 4) (md : ShflMd) (vm : VoteMd),
    let P := w.performing g
    let E := w.exec
    let A := w.ln a
    let n (l : Nat) := (w.ln b l).toNat % 32
    let from_ (l : Nat) : Nat := match md with
      | .idx => n l
      | .xor => l ^^^ n l
      | .up => if l < n l then l else l - n l
      | .dn => if 31 < l + n l then l else l + n l
    let m (l : Nat) := has (w.pget pm.toNat) l
    let t (l : Nat) := m l && has P l && has (w.pget b.toNat) l
    let vote : Bool := match vm with
      | .all => decide (∀ l ∈ List.range 32, m l = true → t l = true)
      | .any => decide (∃ l ∈ List.range 32, t l = true)
      | .eq => decide (∀ l ∈ List.range 32, m l = true → t l = true) || decide (∀ l ∈ List.range 32, t l = false)
    let push (l : Nat) := (List.range 32).filter fun x => has P x && n x == l
    (Ready s w (.vballot g d a bit q) g [⟨a, 1, tRaw⟩] → Leaves s w (.vballot g d a bit q) { p := [d.toNat, q.toNat] } fun u =>
      w.TwoPreds u d.toNat q.toNat (fun l => has P l && (A l).getLsbD bit.toNat) (has E)) ∧
    (Ready s w (.vvote g vm d pm b q) g [] → Leaves s w (.vvote g vm d pm b q) { p := [d.toNat, q.toNat] } fun u =>
      w.TwoPreds u d.toNat q.toNat (fun _ => vote) fun l => m l && has E l) ∧
    (Ready s w (.vshfl g md d a b q) g [⟨a, 1, tAny⟩, ⟨b, 1, tRaw⟩] →
      Leaves s w (.vshfl g md d a b q) { v := [d.toNat], p := [q.toNat] } fun u =>
        w.LanesAre u d.toNat P (w.tag a.toNat) (fun l y => y = A (from_ l)) ∧
        w.TwoPreds u q.toNat q.toNat (fun _ => false) fun l => has P l && has E (from_ l)) ∧
    (Ready s w (.vshflp g d a b q) g [⟨a, 1, tAny⟩, ⟨b, 1, tRaw⟩] →
      Leaves s w (.vshflp g d a b q) { v := [d.toNat], p := [q.toNat] } fun u =>
        (∀ l, l < 32 → Lanes.get (u.lanes d.toNat) l =
          if (push l).isEmpty then Lanes.get (w.lanes d.toNat) l else A ((push l).getLastD 0)) ∧
        u.tag d.toNat = w.tag a.toNat ∧
        w.TwoPreds u q.toNat q.toNat (fun _ => false) fun l => decide (2 ≤ (push l).length)) ∧
    (Ready s w (.vmatch g d a pq q) g [⟨a, 1, tRaw⟩] →
      Leaves s w (.vmatch g d a pq q) { v := [d.toNat], p := [q.toNat] } fun u =>
        w.LanesAre u d.toNat P 0 (fun l y => ∀ j, j < 32 → y.getLsbD j =
          (has (w.pget pq.toNat) j && (has P j || !has E j) && A j == A l)) ∧
        w.TwoPreds u q.toNat q.toNat (fun _ => false) fun l => has (w.pget pq.toNat) l && has E l)

/-- R98, R99, R253, Table 7.11: VREDUCE gives every performing lane the tree over the 32 contributions, VSCAN each lane its
prefix, the lane's own contribution left out in the exclusive form; a lane outside the mask, or executing and guarded off,
contributes the identity. -/
def Obligations.Reductions : Prop :=
  ∀ (s : State) (w : Warp) (g : Guard) (op : RedOp) (ex : Bool) (d a : R8) (pm q : BitVec 4),
    let P := w.performing g
    let E := w.exec
    let m := has (w.pget pm.toNat)
    let x := (List.range 32).map fun l => if m l && (has P l || !has E l) then w.ln a l else redIdent op
    let tree := treeOf (redStep op w.rm) x
    let pre := scanOf (redStep op w.rm) x
    let R (i : Instr) (f : Nat → Word32) (fl : FlagSet) := Ready s w i g [⟨a, 1, redTags op⟩] →
      Leaves s w i { v := [d.toNat], p := [q.toNat], flags := true } fun u =>
        w.LanesAre u d.toNat P (redTag op) (fun l y => y = f l) ∧ w.FlagsAre u 1 (fun _ => fl) ∧
        w.TwoPreds u q.toNat q.toNat (fun _ => false) fun l => m l && has E l
    R (.vreduce g op d a pm q) (fun _ => tree.1) tree.2 ∧
    R (.vscan g op ex d a pm q)
      (fun l => if ex then (if l = 0 then redIdent op else pre.1.getD (l - 1) 0) else pre.1.getD l 0) pre.2

/-- R191 to R193: both halves of a paired word read their sources before either writes; each writes the result of its full form;
the result of a transcendental half is written when its pipeline completes, as with a lookahead of 0. The model's own choices
here: log entry 47. -/
def Obligations.PairedWords : Prop :=
  ∀ (s : State) (w : Warp) (hi lo : Compact),
    let i := Instr.pairedWord hi lo
    let P := w.performing ⟨0, false⟩
    let x := (compactWrite w P hi).1
    let y := (compactWrite w P lo).1
    let now := (if hi.classT then [] else x) ++ (if lo.classT then [] else y)
    let late := (if hi.classT then x else []) ++ (if lo.classT then y else [])
    Ready s w i ⟨0, false⟩ (compactSrc hi ++ compactSrc lo) → (∀ o ∈ w.pipe, o.id < s.nextId) →
      ∃ t w1, exec i s = .next t ∧ t.warp w.vw = some w1 ∧
        w.Only w1 { v := (hi.dst.toList ++ lo.dst.toList).map (·.toNat), flags := true } ∧ s.OnlyWarp t w.vw ∧
        (∀ n, w1.vget n = (w.write now).vget n) ∧ w.FlagsAre w1 P (fun l => halfFlags w hi l ||| halfFlags w lo l) ∧
        (late ≠ [] → ∃ u w2, exec (.pipelineResultWrite w.vw s.nextId) t = .next u ∧ u.warp w.vw = some w2 ∧
          ∀ n, w2.vget n = (w.write (now ++ late)).vget n)

/-! ## Control -/

/-- R30, R31, R214, R215: BRA, CALL, BRX and RET send the performing lanes to their targets and the other executing lanes past the
word; NOP sends all past it; CALL also writes the address of the next clause header to its link pair. R215, R444: BRX or RET
with a lane whose target is not a multiple of 8 below 2^56 is stopped at issue with cause 0x06, before any lane moves. The
model's own choices here: log entry 63. -/
def Obligations.ControlTransfers : Prop :=
  (∀ (s : State) (w : Warp) (g : Guard) (disp : BitVec 32) (d a : R8),
     let P := w.performing g
     let R (i : Instr) (src : List Src) (v : List Nat) (dest : Nat → Nat) (φ : Warp → Prop) := Ready s w i g src →
       Leaves s w i { v := v, pc := true } fun t => φ t ∧ (∀ l, l < 32 → has w.tx.doomed l = false →
         (has P l = true → (t.pcOf l).toNat = dest l) ∧
         (has P l = false → has w.exec l = true → t.pcOf l = BitVec.ofNat 64 w.nextAddr))
     let target (_ : Nat) : Nat := (((w.clause.addr : Int) + 8 * disp.toInt) % 2 ^ 56).toNat
     let ok := ∀ l, has P l = true → (w.ln64 a l).toNat % 8 = 0 ∧ (w.ln64 a l).toNat < 2 ^ 56
     (Ready s w (.nop g) g [] → Leaves s w (.nop g) {} fun _ => True) ∧
     R (.bra g disp) [] [] target (fun _ => True) ∧
     R (.call g d disp) [] [d.toNat, d.toNat + 1] target (fun t =>
       w.LanesAre t d.toNat P 0 (fun _ y => y = BitVec.ofNat 32 w.clause.next) ∧
       w.LanesAre t (d.toNat + 1) P 0 fun _ y => y = BitVec.ofNat 32 (w.clause.next / 2 ^ 32)) ∧
     (ok → R (.brx g a) [⟨a, 2, tRaw⟩] [] (fun l => (w.ln64 a l).toNat) (fun _ => True) ∧
       R (.ret g a) [⟨a, 2, tRaw⟩] [] (fun l => (w.ln64 a l).toNat) fun _ => True)) ∧
  (∀ (s : State) (w : Warp) (g : Guard) (a : R8) (l : Nat),
     has (w.performing g) l = true → ((w.ln64 a l).toNat % 8 ≠ 0 ∨ 2 ^ 56 ≤ (w.ln64 a l).toNat) →
     (Ready s w (.brx g a) g [⟨a, 2, tRaw⟩] →
       exec (.brx g a) s = .next (s.takeTrap w (w.here 0x06) (wordOf (.brx g a)))) ∧
     (Ready s w (.ret g a) g [⟨a, 2, tRaw⟩] →
       exec (.ret g a) s = .next (s.takeTrap w (w.here 0x06) (wordOf (.ret g a)))))

/-- R217: WAIT, YIELD and SLEEP end the warp's turn: WAIT until the counters named are zero, SLEEP until the time its register
gives has passed, at most 2^24 ns, and of no time it is a YIELD. R30, R216: EXIT ends the performing lanes: their `vpc`
becomes all ones; the other executing lanes go on past the word; registers and device memory stand; the warp has finished when
no lane is live. R222, R344, R359, R507: HALT, outside a sheaf pair, freezes the sheaf and reports its code, with a record of
status 4; CKPT does nothing outside a sheaf pair, and in one asks for a checkpoint and ends the turn. The model's own choices
here: log entry 72. -/
def Obligations.TurnAndSheafEnders : Prop :=
  (∀ (s : State) (w : Warp) (g : Guard) (m : BitVec 6) (a : R8),
     let R (i : Instr) (φ : Warp → Prop) := Ready s w i g [] → Leaves s w i {} fun t => t.slot ≠ .turn ∧ φ t
     R (.yield g) (fun t => t.waits = w.waits) ∧ R (.wait g m) (fun t => t.waits = { w.waits with mask := m }) ∧
     R (.sleep g a) (fun t => t.waits = if (w.sget a.toNat).toNat % 2 ^ 32 = 0 then w.waits else { w.waits with
       wake := s.io.time.timebase + BitVec.ofNat 64 (min ((w.sget a.toNat).toNat % 2 ^ 32) 16777216) })) ∧
  (∀ (s : State) (w : Warp) (g : Guard), Ready s w (.exit g) g [] →
     ∃ t w', exec (.exit g) s = .next t ∧ t.warp w.vw = some w' ∧
       (∀ l, l < 32 → has (w.performing g) l = true → w'.pcOf l = BitVec.allOnes 64) ∧
       (∀ l, l < 32 → has w.exec l = true → has (w.performing g) l = false → has w.tx.doomed l = false →
         w'.pcOf l = BitVec.ofNat 64 w.nextAddr) ∧
       (∀ l, l < 32 → has w.exec l = false → has w.tx.doomed l = false → w'.pcOf l = w.pcOf l) ∧
       (∀ n, w'.vget n = w.vget n) ∧ (∀ n, w'.sget n = w.sget n) ∧ w'.acc = w.acc ∧
       (w.tx.doomed = 0 → (w'.slot = .finished ↔ w'.live = 0)) ∧ (∀ v, v ≠ w.vw → t.warp v = s.warp v) ∧
       (∀ a, t.mem.dram.get a = s.mem.dram.get a)) ∧
  (∀ (s : State) (w : Warp) (g : Guard) (code : BitVec 16) (h : Sheaf), s.sheaf w.ident.sid = some h →
     (s.twinOf w = none → Ready s w (.halt g code) g [] → ∃ t h' w', exec (.halt g code) s = .next t ∧
       t.sheaf w.ident.sid = some h' ∧ h'.state = .frozen ∧ h'.why = .halt ∧ t.warp w.vw = some w' ∧ w'.slot ≠ .turn ∧
       t.focus = none ∧ t.mem = s.mem ∧ ∀ l, s.launch w.ident.lid = some l →
         (s.evRoom → Reports s t (s.evOf 0x10 l.lid [at_ code.toNat 0] [])) ∧
         ∀ x r, s.queue l.queue = some x → s.running l.queue l.packet = some r → x.lost = false →
           .record x.q (x.cring + BitVec.ofNat 64 (16 * (x.recNo % 2 ^ x.logS))) x.rkey
             [at_ r.tag.toNat 0 ||| at_ 4 32 ||| at_ x.q 36, at_ l.packet 0 ||| at_ x.h 20]
             (if r.cmpl then some (BitVec.ofNat 32 (x.q + x.recNo % 2 ^ 20 * 2 ^ 12)) else none) ∈ t.io.out) ∧
     (s.leadOf w.ident.sid = none → Ready s w (.ckpt g) g [] → Leaves s w (.ckpt g) {} fun _ => True) ∧
     (∀ l, s.leadOf w.ident.sid = some l → Ready s w (.ckpt g) g [] → ∃ t w' l', exec (.ckpt g) s = .next t ∧
       t.warp w.vw = some w' ∧ w.Only w' {} ∧ w'.slot ≠ .turn ∧ t.sheaf l.sid = some l' ∧ l'.pair.want = true ∧
       w'.waits.ckpt = some ((s.cores.clock.getD (s.coreOf w / 24) 0).toNat + 65536)))

/-! ## Memory and synchronisation -/

/-- R257, R261 to R266, R400, R401: a load takes a husk entry for its performing lanes, with the lane addresses of the word's form
and room for its words; nothing else changes. Of a `.x6` load, and of a plane load, only the lanes that access memory are
pending. R257, R262, R263, R457: a store takes a husk entry with its lane addresses and a copy of its data registers as they
stand at issue, each marked when it is poisoned; nothing else changes. R268 to R274, Table 12.1: an atomic takes an entry of
class D with its lane addresses, its data, and for ACAS its expected value, as they stand at issue; nothing else changes.
R169: a load or a store whose lanes are all in transaction takes an entry of transactional lanes, while their lines fit the
warp's read or write set; the lanes of an LDS or STS abort with cause 9. The model's own choices here: log entry 74. -/
def Obligations.MemoryInstructionsIssue : Prop :=
  (∀ (s : State) (w : Warp) (g : Guard) (la : BitVec 4) (lw : LdW) (o : Ord) (sc : Scope) (m : MAddr) (d a : R8) (tag : Tag)
     (f : PlFmt) (v : BitVec 2) (wide acq : Bool) (off : BitVec 16), Plain w g →
     let P := w.performing g
     let at_ (l : Nat) : Word64 := match m with
       | .so a off => w.sget a.toNat + off.signExtend 64
       | .vo a off => w.ln64 a l + off.signExtend 64
       | .sv a v => w.sget a.toNat + (w.ln v l).setWidth 64
     let R (i : Instr) (A : Mask) (n : Nat) := Ready s w i g (mSrc m) →
       Takes s w i {} fun e => e.Fresh .I P (P &&& A) at_ (List.replicate n (Lanes.all 0))
     let full : Mask := if lw = .full .x6 then 0x00FFFFFF else BitVec.allOnes 32
     R (.ld g la lw o sc m d) full lw.regs ∧ R (.lds g la lw o sc m d) full lw.regs ∧
     R (.ldt g la tag m d) (BitVec.allOnes 32) 1 ∧
     R (.ldp g la f v m d) (maskOf fun l => match f with
       | .x6 => decide (l < 24) && decide (l % 12 / 2 < v.toNat + 3)
       | _ => decide (l % 8 / 2 < v.toNat + 1)) 1 ∧
     (Ready s w (.ldc g la wide acq sc a off d) g [] → Takes s w (.ldc g la wide acq sc a off d) {} fun e =>
       e.Fresh .I (w.lowLane g) (w.lowLane g) (fun _ => w.sget a.toNat + off.signExtend 64)
         (List.replicate (if wide then 2 else 1) (Lanes.all 0)))) ∧
  (∀ (s : State) (w : Warp) (g : Guard) (lw : LdW) (o : Ord) (sc : Scope) (m : MAddr) (d : R8), Plain w g →
     s.storesPoison w d lw.regs = false →
     let P := w.performing g
     let at_ (l : Nat) : Word64 := match m with
       | .so a off => w.sget a.toNat + off.signExtend 64
       | .vo a off => w.ln64 a l + off.signExtend 64
       | .sv a v => w.sget a.toNat + (w.ln v l).setWidth 64
     let A := P &&& if lw = .full .x6 then 0x00FFFFFF else BitVec.allOnes 32
     let R (i : Instr) := Ready s w i g (mSrc m ++ [⟨d, lw.regs, 15 :: ldTags lw⟩]) → Takes s w i {} fun e =>
       e.Fresh .I P A at_ ((List.range lw.regs).map fun j => w.lanes (d.toNat + j)) ∧
       e.psn = (List.range lw.regs).map fun j => decide (w.tag (d.toNat + j) = 15)
     R (.st g lw o sc m d) ∧ R (.sts g lw o sc m d)) ∧
  (∀ (s : State) (w : Warp) (g : Guard) (la : BitVec 4) (op : AOp) (wide : Bool) (o : Ord) (sc : Scope) (m : AAddr) (d b : R8),
     Plain w g →
     let P := w.performing g
     let at_ (l : Nat) : Word64 := match m with
       | .s a => w.sget a.toNat
       | .v a => w.ln64 a l
       | .sv a v => w.sget a.toNat + (w.ln v l).setWidth 64
     let n := if wide then 2 else 1
     let regs (r : R8) (n : Nat) := (List.range n).map fun j => w.lanes (r.toNat + j)
     let R (i : Instr) (src : List Src) (data : List Lanes) := Ready s w i g (aSrc m ++ src) →
       Takes s w i {} fun e => e.Fresh .D P P at_ data
     R (.atom g la op wide o sc m d b) [⟨b, n, atomTags op wide⟩] (List.replicate n (Lanes.all 0) ++ regs b n) ∧
     R (.acas g la wide o sc m d b) [⟨b, n, tRaw⟩, ⟨d, n, tRaw⟩] (List.replicate n (Lanes.all 0) ++ (regs b n ++ regs d n)) ∧
     R (.red g op wide o sc m b) [⟨b, n, atomTags op wide⟩] (regs b n) ∧ R (.vbmin g o sc m b) [⟨b, 2, tRaw⟩] (regs b 2)) ∧
  (∀ (s : State) (w : Warp) (g : Guard) (la : BitVec 4) (lw : LdW) (o : Ord) (sc : Scope) (m : MAddr) (d : R8) (tag : Tag)
     (f : PlFmt) (v : BitVec 2), w.huskFull = false → w.performing g &&& ~~~w.tx.inTx = 0 →
     let P := w.performing g
     let at_ (l : Nat) : Word64 := match m with
       | .so a off => w.sget a.toNat + off.signExtend 64
       | .vo a off => w.ln64 a l + off.signExtend 64
       | .sv a v => w.sget a.toNat + (w.ln v l).setWidth 64
     let x6 : Mask := P &&& if lw = .full .x6 then 0x00FFFFFF else BitVec.allOnes 32
     -- the lanes `A` access ordinary addresses, and their lines fit the set that the warp's lanes share
     let fits (wr : Bool) (A : Mask) := (∀ l, l < 32 → has A l = true → regionOf (at_ l).toNat = some .ordinary) ∧
       (w.txSet wr w.tx.inTx ++ (lanesOf A).map fun l => (at_ l).toNat / 128).eraseDups.length ≤ if wr then 32 else 64
     let R (i : Instr) (A : Mask) (n : Nat) := fits false A → Ready s w i g (mSrc m) →
       Takes s w i {} fun e => e.Fresh .I P A at_ (List.replicate n (Lanes.all 0)) ∧ e.txl = A
     R (.ld g la lw .none sc m d) x6 lw.regs ∧ R (.ldt g la tag m d) P 1 ∧
     R (.ldp g la f v m d) (P &&& maskOf fun l => match f with
       | .x6 => decide (l < 24) && decide (l % 12 / 2 < v.toNat + 3)
       | _ => decide (l % 8 / 2 < v.toNat + 1)) 1 ∧
     (s.storesPoison w d lw.regs = false → fits true x6 → Ready s w (.st g lw .none sc m d) g (mSrc m ++ [⟨d, lw.regs, 15 :: ldTags lw⟩]) →
       Takes s w (.st g lw .none sc m d) {} fun e =>
         e.Fresh .I P x6 at_ ((List.range lw.regs).map fun j => w.lanes (d.toNat + j)) ∧ e.txl = x6) ∧
     (let U (i : Instr) (src : List Src) := Ready s w i g src →
        Leaves s w i { tx := true, husk := true, pc := true, p := List.range 16 } fun t => t.tx.inTx = w.tx.inTx &&& ~~~x6 ∧
          ∀ l (h : l < 32), has x6 l = true → t.tx.cause[l] = 9
      U (.lds g la lw o sc m d) (mSrc m) ∧
      (s.storesPoison w d lw.regs = false → U (.sts g lw o sc m d) (mSrc m ++ [⟨d, lw.regs, 15 :: ldTags lw⟩]))))

/-- R258, R261: LOAD_LANE_COMPLETE of one lane of an ordinary 32-bit load of a scratchpad word gives the lane the four bytes that
stand there, lowest first, and no longer waits for it; no byte of memory changes. R169: a lane in transaction gets the bytes
at the home of device memory, its own buffered bytes over them, and its words join the warp's read set. The model's own
choices here: log entry 68. -/
def Obligations.LoadLaneReturns : Prop :=
  (∀ (s : State) (w : Warp) (e : HkEntry) (l : Nat) (g : Guard) (la : BitVec 4) (sc : Scope) (m : MAddr) (d : R8) (pa : Nat)
    (pte : Word64), s.entryOf w.vw e.seq.toNat = some (w, e) → e.instr = .ld g la (.full .u32) .none sc m d → e.data.length = 1 →
    l < 32 → has e.txl l = true → s.mayRun w = true → s.mayPerform w e (maskOf (· == l)) = true →
    s.readsAhead w e (s.locsOf w e (maskOf (· == l))) = false →
    let a := (lane64 e.addr l).toNat
    let t := Target.dram pa pte
    let x := s.laid w t (s.homeRead w.ident.ctx t 4)
    s.translate w.who a 4 Need.read = (.ok t, s) → a % 4 = 0 → t.badChunk s.mem = false → x.2.any id = false →
    ∃ u w' e', exec (.loadLaneComplete w.vw e.seq.toNat (maskOf (· == l))) s = .next u ∧ u.warp w.vw = some w' ∧
      w'.entry e.seq = some e' ∧ has e'.pend l = false ∧
      Lanes.get (e'.data.getD 0 (Lanes.all 0)) l = BitVec.ofNat 32 (ofBytes (txOverlay w.tx.writes l a x.1)) ∧
      (∃ y, w'.tx.reads = w.tx.reads ++ [(l, a, y)]) ∧ w'.tx.writes = w.tx.writes ∧ u.mem.dram = s.mem.dram ∧
      (∀ n, w'.vget n = w.vget n)) ∧
  ∀ (s : State) (w : Warp) (e : HkEntry) (l : Nat) (g : Guard) (la : BitVec 4) (sc : Scope) (m : MAddr) (d : R8)
    (sid c o : Nat) (pte : Word64) (own h : Sheaf),
    s.entryOf w.vw e.seq.toNat = some (w, e) → e.instr = .ld g la (.full .u32) .none sc m d → e.data.length = 1 → l < 32 →
    has e.txl l = false → s.mayRun w = true → s.mayPerform w e (maskOf (· == l)) = true →
    s.readsAhead w e (s.locsOf w e (maskOf (· == l))) = false →
    s.translate w.who (lane64 e.addr l).toNat 4 Need.read = (.ok (.scr sid c o pte), s) → pteBit pte 6 = false →
    s.sheaf w.ident.sid = some own → own.stores = [] → s.sheaf sid = some h →
    ∃ t w' e', exec (.loadLaneComplete w.vw e.seq.toNat (maskOf (· == l))) s = .next t ∧ t.warp w.vw = some w' ∧
      w'.entry e.seq = some e' ∧ has e'.pend l = false ∧
      Lanes.get (e'.data.getD 0 (Lanes.all 0)) l = BitVec.ofNat 32 (ofBytes (h.scr.getN (c * 2 ^ 20 + o) 4)) ∧
      (∀ a, t.mem.dram.get a = s.mem.dram.get a) ∧ (∀ n, w'.vget n = w.vget n)

/-- R258, R262, R105, R169, R410: STORE_ACK, or LATE_REPLY when the sheaf has been frozen since, of one lane of an ordinary 32-bit
store to uncompressed device memory writes the lane's word, lowest byte first, at the physical address that its address
translates to; every other byte reads as before. The bytes of a lane in transaction are buffered, and no byte of memory
changes. The model's own choices here: log entry 68. -/
def Obligations.StoreLaneWrites : Prop :=
  (∀ (s : State) (w : Warp) (e : HkEntry) (l : Nat) (g : Guard) (sc : Scope) (m : MAddr) (d : R8) (pa : Nat) (pte : Word64),
    s.entryOf w.vw e.seq.toNat = some (w, e) → e.instr = .st g (.full .u32) .none sc m d → l < 32 → has e.txl l = true →
    s.mayRun w = true → s.mayPerform w e (maskOf (· == l)) = true → s.laneOrder w e (maskOf (· == l)) = true →
    s.translate w.who (lane64 e.addr l).toNat 4 Need.write = (.ok (.dram pa pte), s) →
    ∃ t w' e', exec (.storeAck w.vw e.seq.toNat (maskOf (· == l))) s = .next t ∧ t.warp w.vw = some w' ∧
      w'.entry e.seq = some e' ∧ has e'.pend l = false ∧ t.mem = s.mem ∧ w'.tx.reads = w.tx.reads ∧
      w'.tx.writes.map (fun x => (x.lane, x.addr, x.byte)) = w.tx.writes.map (fun x => (x.lane, x.addr, x.byte)) ++
        (List.range 4).map fun k => (l, (lane64 e.addr l).toNat + k,
          (Lanes.get (e.data.getD 0 (Lanes.all 0)) l).extractLsb' (8 * k) 8)) ∧
  ∀ (s : State) (w : Warp) (e : HkEntry) (l : Nat) (g : Guard) (sc : Scope) (m : MAddr) (d : R8) (pa : Nat) (pte : Word64) (late : Bool),
    s.entryOf w.vw e.seq.toNat = some (w, e) → e.instr = .st g (.full .u32) .none sc m d → l < 32 → has e.txl l = false →
    s.mayRun w = !late → s.mayPerform w e (maskOf (· == l)) = true → s.laneOrder w e (maskOf (· == l)) = true →
    s.translate w.who (lane64 e.addr l).toNat 4 Need.write = (.ok (.dram pa pte), s) → pteBit pte 6 = false →
    pteBit pte 7 = false → s.mem.bad pa = false → s.holdsBack w (lane64 e.addr l).toNat = false → s.dramOk →
    ∃ t w' e', exec ((if late then Instr.lateReply else .storeAck) w.vw e.seq.toNat (maskOf (· == l))) s = .next t ∧ t.warp w.vw = some w' ∧
      w'.entry e.seq = some e' ∧ has e'.pend l = false ∧
      (t.mem.read (s.via w.ident.ctx pte) pa 4).1 = bytesOf 4 (Lanes.get (e.data.getD 0 (Lanes.all 0)) l).toNat ∧
      (∀ a, a < pa ∨ pa + 4 ≤ a → (t.mem.read (s.via w.ident.ctx pte) a 1).1 = (s.mem.read (s.via w.ident.ctx pte) a 1).1) ∧
      t.sheaves = s.sheaves ∧ (∀ n, w'.vget n = w.vget n)

/-- R269, R271, Table 8.4: ATOMIC_BATCH_PERFORM of a 32-bit RED or ATOM on a scratchpad word, for a batch of one lane, leaves the
operation's result there, gives the lane of an ATOM the word that it found, and keeps a chaff record of it; no byte of device
memory changes. The model's own choices here: log entry 68. -/
def Obligations.AtomicBatch : Prop :=
  ∀ (s : State) (w : Warp) (e : HkEntry) (l : Nat) (g : Guard) (la : BitVec 4) (op : AOp) (ret : Bool) (sc : Scope) (m : AAddr)
    (d b : R8) (sid c o : Nat) (pte : Word64) (own h : Sheaf),
    s.entryOf w.vw e.seq.toNat = some (w, e) →
    e.instr = (if ret then .atom g la op false .none sc m d b else .red g op false .none sc m b) →
    e.data.length = (if ret then 2 else 1) → s.atomBatch w e l = [l] → l < 32 → s.mayRun w = true →
    s.mayPerform w e (maskOf (· == l)) = true →
    s.translate w.who (lane64 e.addr l).toNat 4 Need.atomic = (.ok (.scr sid c o pte), s) →
    s.sheaf w.ident.sid = some own → own.stores = [] → s.sheaf sid = some h → h.twin = none → o % 4 = 0 →
    psnGet h.psn (c * 2 ^ 20 + o) = false → h.scr.wf = true →
    let a := c * 2 ^ 20 + o
    let old : Word32 := BitVec.ofNat 32 (ofBytes (h.scr.getN a 4))
    let x := Lanes.get (e.data.getD (if ret then 1 else 0) (Lanes.all 0)) l
    ∃ t w' e' h', exec (.atomicBatchPerform w.vw e.seq.toNat l) s = .next t ∧ t.warp w.vw = some w' ∧ w'.entry e.seq = some e' ∧
      t.sheaf sid = some h' ∧ has e'.pend l = false ∧ ofBytes (h'.scr.getN a 4) = (atomNew op 32 old x).toNat ∧
      (∀ k, k < a ∨ a + 4 ≤ k → h'.scr.get k = h.scr.get k) ∧ (∀ k, t.mem.dram.get k = s.mem.dram.get k) ∧
      (ret = true → Lanes.get (e'.data.getD 0 (Lanes.all 0)) l = old) ∧
      (∃ r ∈ t.mem.chaff, r.vw = w.vw ∧ r.seq = e.seq ∧ r.kind = 1 ∧ r.lanes = maskOf (· == l) ∧ r.value = old.setWidth 64)

/-- R131, R132: device memory reads back what was written under the same key, and no other byte of an uncompressed page changes,
whatever keys its sectors stood under. -/
def Obligations.DeviceMemoryReadsBack : Prop :=
  ∀ (m : Mem) (k : BitVec 512) (pa : Nat) (b : List Byte) (p : Bool), Memory.wf m = true →
    ((m.write ⟨k, false⟩ pa b p).read ⟨k, false⟩ pa b.length).1 = b ∧
    ∀ a, a < pa ∨ pa + b.length ≤ a → (m.write ⟨k, false⟩ pa b p).stored k a = m.stored k a

/-- R127, R128, Table 4.5: the encoding chosen for a line of 128 bytes decodes to that line, from no more than the sectors that
its tag gives. -/
def Obligations.CompressionLossless : Prop :=
  ∀ l : List Byte, l.length = 128 →
    decodeLine (encodeLine l).1 (encodeLine l).2 = some l ∧ (encodeLine l).2.length = 32 * tagSectors (encodeLine l).1

/-- R276 to R283, R523: FENCE, BFENCE and TEND take entries; TBEGIN puts the performing lanes in transaction with the next header
as their resume address, and aborts those already in one with cause 0x0A; TABORT dooms those in transaction with cause 5 and
its code; TTEST reads the state of the lanes. R170, R281, R471, R523: TEND_COMMIT of one lane: when every word that the lane
read is current its buffered bytes are written and it leaves its transaction; else it aborts, nothing is written, and the
cause is kept; between clauses it stands at its resume address at once (R280). -/
def Obligations.FencesAndTransactions : Prop :=
  (∀ (s : State) (w : Warp) (g : Guard) (o : Ord) (sc : Scope) (d : R8) (code : Byte),
     let P := w.performing g
     (Plain w g → Ready s w (.fence g o sc) g [] → Takes s w (.fence g o sc) {} fun e => e.cls = .I ∧ e.pend = w.lowLane g) ∧
     (Plain w g → Ready s w (.bfence g) g [] → Takes s w (.bfence g) {} fun e => e.cls = .I ∧ e.pend = w.lowLane g) ∧
     (w.huskFull = false → P &&& w.tx.inTx ≠ 0 → Ready s w (.tend g) g [] →
       Takes s w (.tend g) {} fun e => e.cls = .D ∧ e.pend = P &&& w.tx.inTx) ∧
     (P &&& w.tx.inTx = 0 → Ready s w (.tbegin g d) g [] →
       Leaves s w (.tbegin g d) { p := [d.toNat], tx := true, husk := true } fun t =>
         t.tx.inTx = w.tx.inTx ||| P ∧ t.husk.length = w.husk.length ∧ ∀ l, has P l = true →
           lane64 t.tx.resume l = BitVec.ofNat 64 w.clause.next ∧ (d.toNat ≠ 0 → has w.tx.doomed l = false →
             has (t.pget d.toNat) l = true)) ∧
     (P &&& w.tx.inTx ≠ 0 → Ready s w (.tbegin g d) g [] →
       Leaves s w (.tbegin g d) { p := List.range 16, tx := true, husk := true, pc := true } fun t =>
         t.tx.inTx = (w.tx.inTx ||| P) &&& ~~~(P &&& w.tx.inTx) ∧ ∀ l (h : l < 32), has P l = true →
           t.tx.cause[l] = (if has w.tx.inTx l then 0x0A else 0) ∧
           (has w.tx.inTx l = false → lane64 t.tx.resume l = BitVec.ofNat 64 w.clause.next)) ∧
     (Ready s w (.tabort g code) g [] → Leaves s w (.tabort g code) { tx := true, husk := true, pc := true, p := List.range 16 }
       fun t => t.tx.inTx = w.tx.inTx &&& ~~~(P &&& w.tx.inTx) ∧ ∀ l (h : l < 32), has P l = true → has w.tx.inTx l = true →
         t.tx.cause[l] = 5 ∧ t.tx.code[l] = code) ∧
     VecResult s w (.ttest g d) g [] d 2 (fun l x => ∀ h : l < 32,
       x.extractLsb' 0 8 = w.tx.cause[l] ∧ x.extractLsb' 8 8 = w.tx.code[l] ∧ x.getLsbD 31 = has w.tx.inTx l)) ∧
  (∀ (s : State) (w : Warp) (e : HkEntry) (g : Guard) (l : Nat) (h : l < 32),
     s.entryOf w.vw e.seq.toNat = some (w, e) → e.instr = .tend g → (w.husk.head?).map (·.seq) = some e.seq → s.mayRun w = true →
     s.mayPerform w e e.undone = true → s.release w e = (none, s) → e.pend &&& w.tx.inTx = maskOf (· == l) →
     Goes s (.tendCommit w.vw e.seq.toNat) fun t => ∃ w' e', t.warp w.vw = some w' ∧ w'.entry e.seq = some e' ∧ e'.pend = 0 ∧
       has w'.tx.inTx l = false ∧ (∀ n, w'.vget n = w.vget n) ∧
       (s.validate w l = 0 → w'.tx.doomed = w.tx.doomed ∧ t.mem.dram = (s.commitLane w l).mem.dram) ∧
       (s.validate w l ≠ 0 → w'.tx.cause[l] = s.validate w l ∧ t.mem.dram = s.mem.dram ∧
         (w.clause.inside = true ∨ w.trapMode = true → has w'.tx.doomed l = true) ∧
         (w.clause.inside = false → w.trapMode = false → has w.live l = true →
           has w'.tx.doomed l = false ∧ w'.pcOf l = lane64 w.tx.resume l)))

/-- R172 to R175, R286 to R289: OSENTER parks its warp on an entry that names the keys and the sequence numbers of its lanes;
OSLEAVE, OSRESET and OSQUERY take entries with the keys of their lanes. R290 to R295, R366: BAR, PHASE and MBWAIT park their
warp on an entry; the other operations on MB objects, and GRPQ, take an entry and go on. A PHASE of a group that does not
contain the workgroup, and such a GRPQ, are stopped at issue with cause 0x02. -/
def Obligations.SectionsBarriersPhases : Prop :=
  (∀ (s : State) (w : Warp) (g : Guard) (la : BitVec 4) (cl : Bool) (d a b : R8), Plain w g →
     let P := w.performing g
     let key := w.ln64 a
     let one : List Src := [⟨a, 2, tRaw⟩]
     let two : List Src := [⟨a, 2, tRaw⟩, ⟨b, 1, tRaw⟩]
     (Ready s w (.osenter g cl a b) g two →
       Parks s w (.osenter g cl a b) fun e => e.Fresh .O P P key [w.lanes b.toNat]) ∧
     (Ready s w (.osleave g cl a) g one → Takes s w (.osleave g cl a) {} fun e => e.Fresh .O P P key []) ∧
     (Ready s w (.osreset g cl a b) g two →
       Takes s w (.osreset g cl a b) {} fun e => e.Fresh .D P P key [w.lanes b.toNat]) ∧
     (Ready s w (.osquery g la cl d a) g one →
       Takes s w (.osquery g la cl d a) {} fun e => e.Fresh .I P P key [Lanes.all 0, Lanes.all 0])) ∧
  (∀ (s : State) (w : Warp) (g : Guard) (la : BitVec 4) (b : BitVec 2) (grp : Byte) (op : POp) (q : GQ) (sc : Scope) (d a : R8)
     (off : BitVec 16), Plain w g →
     let L := w.lowLane g
     let at_ := w.sget a.toNat + off.signExtend 64
     let K (i : Instr) (c : HkClass) (sx : List Word64) (park : Bool) := Ready s w i g [] →
       let φ (e : HkEntry) := e.Fresh c L L (fun _ => at_) [] ∧ e.scal = sx
       if park then Parks s w i φ else Takes s w i {} φ
     let v := w.sget d.toNat
     (Ready s w (.bar g b) g [] → Parks s w (.bar g b) fun e => e.cls = .O ∧ e.pend = L) ∧
     (Ready s w (.phase g grp op a) g [] →
       if (s.groupOf w grp.toNat).isSome then Parks s w (.phase g grp op a) fun e => e.cls = .O ∧ e.scal = [w.sget a.toNat]
       else exec (.phase g grp op a) s = .next (s.takeTrap w (w.here 0x02) (wordOf (.phase g grp op a)))) ∧
     (Ready s w (.grpq g la q d grp) g [] →
       if (s.groupOf w grp.toNat).isSome then Takes s w (.grpq g la q d grp) {} fun e => e.cls = .I ∧ e.pend = L
       else exec (.grpq g la q d grp) s = .next (s.takeTrap w (w.here 0x02) (wordOf (.grpq g la q d grp)))) ∧
     K (.mbinit g a off d) .D [v] false ∧ K (.mbexp g a off d) .D [v] false ∧ K (.mbarr g sc a off) .O [] false ∧
     K (.mbwait g sc d a off) .I [v] true ∧ K (.mbwaitCur g sc d a off) .I [] true ∧
     K (.mbtest g sc d a off) .I [v] false ∧ K (.mbtestSnap g d a off) .I [] false)

/-- R159 to R162, R482, Table 5.5: an arrival counts down, an expectation and landed bytes change the byte count, and the object
flips to its next phase, with its arrivals renewed, exactly when both are 0; an arrival beyond the count, or a byte count out
of range, is discarded. -/
def Obligations.MbObjects : Prop :=
  ∀ (m : MbObj) (n : BitVec 16) (b : Word32) (k : Nat),
    let flip (x : MbObj) : MbObj := if x.arr.toNat = 0 ∧ x.bytes.toNat = 0 then ⟨m.phase + 1, m.init, m.init, 0⟩ else x
    m.run (.init n b) = some ⟨0, n, n, b⟩ ∧
    m.run .arr = (if m.arr.toNat = 0 then none else some (flip ⟨m.phase, m.arr - 1, m.init, m.bytes⟩)) ∧
    (∀ x, m.bytes.toInt + b.toInt = x.toInt → m.run (.exp b) = some (flip ⟨m.phase, m.arr, m.init, x⟩)) ∧
    (∀ x : Word32, m.bytes.toInt - k = x.toInt → m.run (.count k) = some (flip ⟨m.phase, m.arr, m.init, x⟩)) ∧
    (m.bytes.toInt - k < -2 ^ 31 → m.run (.count k) = none) ∧
    (m.bytes.toInt + b.toInt < -2 ^ 31 ∨ 2 ^ 31 ≤ m.bytes.toInt + b.toInt → m.run (.exp b) = none) ∧
    MbObj.of m.image = m

/-! ## Matrix and engines -/

/-- R300, R301, Table 9.2: each MCFG sets its fields of the matrix configuration and nothing else; an address with a bit above
[55:0] is refused with cause 0x13. R303, R309, Table 9.1: MLOOP and MCOOP take an entry with the configuration and the number
of steps as they stand at issue, bind their accumulator, and move `MC.KPOS` on by the depth of their steps, unless the word
says not to. R298, R306 to R308: MZERO clears and binds its accumulator, MFREE unbinds it; MMOVV writes rows from registers in
the performing lanes; MMOVA reads rows into registers, written when the pipeline completes; MSTA takes an entry with an
address for every row. Each issues only when no MLOOP or MCOOP on its accumulator is outstanding. The model's own choices
here: log entry 47. -/
def Obligations.MatrixInstructions : Prop :=
  (∀ (s : State) (w : Warp) (g : Guard) (ta tb : Ty) (a b : R8),
     let A := w.sget a.toNat
     let ptr := A.extractLsb' 0 56
     let str := (w.sget b.toNat).extractLsb' 0 32
     let R (i : Instr) (c : MatCfg) := Ready s w i g [] → Leaves s w i { cfg := true } fun t => t.cfg = c
     let M (i : Instr) (c : MatCfg) := if A.toNat < 2 ^ 56 then R i c
       else Ready s w i g [] → exec i s = .next (s.takeTrap w (w.here 0x13) (wordOf i))
     R (.mcfgTy g ta tb) { w.cfg with aty := ta.code, bty := tb.code } ∧
     M (.mcfgA g a b) { w.cfg with abase := ptr, astr := str } ∧ M (.mcfgB g a b) { w.cfg with bbase := ptr, bstr := str } ∧
     M (.mcfgAx g a b) { w.cfg with axb := ptr, axs := str } ∧ M (.mcfgBx g a b) { w.cfg with bxb := ptr, bxs := str } ∧
     R (.mcfgK g a) { w.cfg with kpos := A.extractLsb' 0 32 }) ∧
  (∀ (s : State) (w : Warp) (g : Guard) (acc : BitVec 4) (n : MCnt) (noinc : Bool) (a : R8) (ti : BitVec 2) (tj : BitVec 4)
     (id : BitVec 3),
     w.huskFull = false → (w.accGet acc.toNat).tag ≠ 15 → (w.accGet acc.toNat).tag = matTag w.cfg.ta → w.cfg.rowsOk = true →
     let R (i : Instr) (steps : Nat) := Ready s w i g [] → Leaves s w i { husk := true, acc := true, cfg := true } fun t =>
       (∃ e, t.husk = w.husk ++ [e] ∧ e.instr = i ∧ e.seq = w.nseq ∧ e.cfg = w.cfg ∧ e.pend = w.lowLane g ∧
         e.scal = [BitVec.ofNat 64 steps]) ∧
       (∀ k, t.accGet k = if k = acc.toNat then { w.accGet k with bound := true } else w.accGet k) ∧
       t.cfg = { w.cfg with kpos := w.cfg.kpos + if noinc then 0 else BitVec.ofNat 32 (steps * matK w.cfg.ta) }
     R (.mloop g acc n noinc) (match n with
       | .imm n => n.toNat
       | .reg r => (w.sget r.toNat).toNat % 65536) ∧
     R (.mcoop g acc a ti tj id noinc) ((w.sget a.toNat).toNat % 65536)) ∧
  (∀ (s : State) (w : Warp) (g : Guard) (la : BitVec 4) (acc : BitVec 4) (zt : MzTy) (f : MForm) (mt : MsTy) (d a b : R8) (r : BitVec 5),
     let x := w.accGet acc.toNat
     let P := w.performing g
     let n := if f = .oct then 8 else 1
     let only (i : Instr) (φ : Acc → Prop) := Ready s w i g [] → w.accBusy acc.toNat = false → Leaves s w i { acc := true }
       fun t => φ (t.accGet acc.toNat) ∧ ∀ k, k ≠ acc.toNat → t.accGet k = w.accGet k
     only (.mzero g zt acc) (fun y => y = ⟨true, mzTag zt, List.replicate 32 (Lanes.all 0)⟩) ∧
     only (.mfree g acc) (fun y => y = Acc.unbound) ∧
     (formBad f x.tag = false → w.tagFault [⟨a, f.regs, movvTags x.tag⟩] = none → only (.mmovv g f acc a r) fun y =>
       y.bound = true ∧ y.tag = x.tag ∧ ∀ i j, i < x.x.length → j < 32 → Lanes.get (y.row i) j =
         match f with
         | .f64 =>
           let l := 16 * (i - r.toNat) + j / 2
           if r.toNat ≤ i ∧ i < r.toNat + 2 ∧ has P l = true then Lanes.get (w.lanes (a.toNat + j % 2)) l else Lanes.get (x.row i) j
         | _ => if r.toNat ≤ i ∧ i < r.toNat + n ∧ has P j = true then Lanes.get (w.lanes (a.toNat + (i - r.toNat))) j
           else Lanes.get (x.row i) j) ∧
     (formBad f x.tag = false → w.accBusy acc.toNat = false →
       PipeResult s w (.mmova g la f d acc r) g [] ((List.range f.regs).map (d.toNat + ·)) (fun _ => 0) fun u =>
         ∀ k, k < f.regs → w.LanesAre u (d.toNat + k) P x.tag fun l y => y = match f with
           | .f64 => Lanes.get (x.row (r.toNat + l / 16)) (2 * (l % 16) + k)
           | _ => Lanes.get (x.row (r.toNat + k)) l) ∧
     (w.accBusy acc.toNat = false → w.huskFull = false → (x.tag = 15 ∨ x.tag = mstaTag mt) →
       let u := if mt = .f64 then 8 else 4
       let base := (w.sget a.toNat).toNat
       let str := (w.sget b.toNat).toNat % 2 ^ 32
       base % u = 0 → str % u = 0 → Ready s w (.msta g mt a b acc) g [] → Takes s w (.msta g mt a b acc) { flags := true } fun e =>
         e.cls = .I ∧ e.pend = BitVec.allOnes 32 ∧ e.prog = mstaBytes mt ∧
         ∀ l, l < 32 → lane64 e.addr l = BitVec.ofNat 64 (base + l * str)))

/-- R311, R313, R316 to R328, R333: engine, queue, task and ray instructions take an entry with their operands as they stand at
issue; a counted one adds one to its completion counter. The model's own choices here: log entry 106. -/
def Obligations.EnginesIssue : Prop :=
  ∀ (s : State) (w : Warp) (g : Guard) (la : BitVec 4) (dc : BitVec 3) (d a b c : R8) (q n : BitVec 4) (r : BitVec 2) (bq : BQ)
    (ac bf gen : Bool) (k : BitVec 3), Plain w g →
    let P := w.performing g
    let L := w.lowLane g
    let x (j : Nat) := w.sget (a.toNat + j)
    let four (r : R8) := (List.range 4).map fun j => w.sget (r.toNat + j)
    let regs (r : R8) (m : Nat) := (List.range m).map fun j => w.lanes (r.toNat + j)
    let counted (i : Instr) (src : List Src) (φ : HkEntry → Prop) := Ready s w i g src → Leaves s w i { husk := true, dc := true }
      fun t => (∃ e, t.husk = w.husk ++ [e] ∧ e.instr = i ∧ e.seq = w.nseq ∧ φ e) ∧
        ∀ j (h : j < 6), t.dc[j] = w.dc[j] + if j + 1 = dc.toNat then 1 else 0
    (Ready s w (.enq g a b) g [⟨b, 4, tRaw⟩] →
      Takes s w (.enq g a b) {} fun e => e.cls = .D ∧ e.pend = P ∧ e.data = regs b 4 ∧ e.scal = [x 0]) ∧
    (Ready s w (.deq g la d a) g [] → Takes s w (.deq g la d a) {} fun e => e.cls = .D ∧ e.pend = P ∧ e.scal = [x 0]) ∧
    (Ready s w (.qtry g la d a q) g [] → Takes s w (.qtry g la d a q) {} fun e => e.cls = .D ∧ e.pend = P ∧ e.scal = [x 0]) ∧
    (Ready s w (.bstat g la bq d) g [] → Takes s w (.bstat g la bq d) {} fun e => e.cls = .I ∧ e.pend = L) ∧
    (Ready s w (.rtquery g la gen d a b) g (raySrc gen a) → Takes s w (.rtquery g la gen d a b) {} fun e =>
      e.cls = .I ∧ e.pend = P ∧ e.data = List.replicate 8 (Lanes.all 0) ++ regs a (rayRegs gen) ∧
      e.scal = [w.sget b.toNat &&& 0x00FFFFFFFFFFFFFF]) ∧
    (r.toNat < s.roles w → (∀ l, has P l = true → (w.ln64 a l).toNat % 8 = 0 ∧ (w.ln64 a l).toNat < 2 ^ 56) →
      Ready s w (.cont g a b n r) g [⟨a, 2, tRaw⟩] → Takes s w (.cont g a b n r) {} fun e =>
        e.Fresh .D P P (w.ln64 a) (regs b n.toNat)) ∧
    ((x 0).toNat < 2 ^ 56 → (x 0).toNat % 8 = 0 → (x 3).toNat < 2 ^ 18 → (x 3).toNat / 2 ^ 16 < s.roles w →
      (x 1).toNat < (x 2).toNat → counted (.tspawn g dc a b) [] fun e => e.cls = .D ∧ e.pend = L ∧ e.scal = four a ++ four b) ∧
    ((Copy.of (four a)).fault (four a) (match s.launch w.ident.lid with | some l => l.r.area | none => 0) = none →
      s.copiesOn (s.coreOf w) < 128 → counted (.ckick g dc a) [] fun e => e.cls = .I ∧ e.pend = L ∧ e.scal = four a ∧
        ((x 2).getLsbD 40 = false → e.chunks = [(0, 0, 0)])) ∧
    (let m := (w.sget b.toNat).toNat % 2 ^ 32
     (∀ v ∈ four a, v.toNat < 2 ^ 56) → (x 1).toNat % 4 = 0 → (x 2).toNat % 4 = 0 → (x 3).toNat % 16 = 0 → 0 < m → m ≤ 65536 →
      ((∃ core off, regionOf (x 2).toNat = some (.window core off)) ∨ ∃ off, regionOf (x 2).toNat = some (.ownScr off)) →
      s.stagingFull (s.stackOf w.who (x 0).toNat) = false → (∃ pte, State.bankPages w.advance none (m + 1) (x 0).toNat m s = (.ok pte, s)) →
      counted (.bgemv g dc ac bf a b) [] fun e => e.cls = (if ac then .D else .I) ∧ e.pend = L ∧
        e.scal = four a ++ [BitVec.ofNat 64 m, 0]) ∧
    (let y (j : Nat) := w.sget (b.toNat + j)
     (y 3).toNat < 4 → (y 3).toNat < s.roles w → counted (.rtrace g dc gen k a b c) (raySrc gen a) fun e =>
      e.cls = .D ∧ e.pend = P ∧ e.data = regs a (rayRegs gen) ++ regs c k.toNat ∧ e.scal.take 4 = four b)

/-- R334, R382, R383, R389, R377, R405: MSVTX and MSPRIM set the vertex and the primitive that a lane names, the highest lane's
where several name one; MSEND hands the meshlet over and opens a fresh one; FSOUT writes the colour words of a lane's sample;
each of the four keeps a chaff record of kind 5. GZREAD takes an entry. In a warp of another kind the four stop at issue with
cause 0x01. The model's own choices here: log entry 68. -/
def Obligations.GraphicsEmission : Prop :=
  ∀ (s : State) (w : Warp) (g : Guard) (la : BitVec 4) (n : BitVec 5) (m : BitVec 2) (ft : FsTy) (d a b c : R8) (x : VWarp) (l : Nat),
    w.huskFull = false → s.work w = some x → has (w.performing g) l = true →
    let P := w.performing g
    let A (l : Nat) := (w.ln a l).toNat
    let srcV : List Src := [⟨a, 1, tRaw⟩, ⟨b, 4, tF32⟩, ⟨c, n.toNat, tF32⟩]
    let srcP : List Src := [⟨a, 1, tRaw⟩, ⟨b, 1, tRaw⟩, ⟨c, 2, tRaw⟩]
    let srcF : List Src := [⟨a, m.toNat + 1, [0, (tyTag (fsTy ft)).toNat]⟩]
    let low := ∀ j, has P j = true → A j < 256
    let last := ∀ j, l < j → has P j = true → A j ≠ A l
    let words (r : R8) (k : Nat) := (List.range k).map fun j => Lanes.get (w.lanes (r.toNat + j)) l
    let bad (i : Instr) (src : List Src) := Ready s w i g src → exec i s = .next (s.takeTrap w (w.here 0x01) (wordOf i))
    let kept (t : State) := ∃ r ∈ t.mem.chaff, r.vw = w.vw ∧ r.seq = w.nseq ∧ r.kind = 5 ∧ r.lanes = P
    (w.ident.kind = .mesh →
      (low → last → Ready s w (.msvtx g n a b c) g srcV → Quiet s w (.msvtx g n a b c) {} fun t w' =>
        kept t ∧ ∃ y, t.work w' = some y ∧ y.vtx.find? (·.idx == A l) = some ⟨A l, words b 4, words c n.toNat⟩) ∧
      (low → last → Ready s w (.msprim g a b c) g srcP → Quiet s w (.msprim g a b c) {} fun t w' =>
        kept t ∧ ∃ y, t.work w' = some y ∧ y.prims.find? (·.1 == A l) = some (A l, w.ln b l, w.ln64 c l)) ∧
      ((w.sget a.toNat).toNat ≤ 256 → (w.sget b.toNat).toNat ≤ 256 → Ready s w (.msend g a b) g [] →
        Quiet s w (.msend g a b) {} fun t w' =>
          kept t ∧ ∃ y, t.work w' = some y ∧ y.vtx = [] ∧ y.prims = [] ∧ y.ended = x.ended + 1)) ∧
    (w.ident.kind = .fragment → ∀ (tt : Stream) (y : StripSt) (sx sy j : Nat), s.ownStream w = some tt →
      tt.strips.find? (fun y => y.key == x.key && y.s == x.strip) = some y → x.samples[l]? = some (sx, sy) →
      (∀ i, has P i = true → i ≠ l → inTile (x.samples.getD i (0, 0)).1 (x.samples.getD i (0, 0)).2 ≠ inTile sx sy) →
      j ≤ m.toNat → j < y.vs.cwords → Ready s w (.fsout g ft m a) g srcF → Quiet s w (.fsout g ft m a) {} fun t w' =>
        kept t ∧ ∃ tt' y', t.ownStream w' = some tt' ∧ tt'.strips.find? (fun y => y.key == x.key && y.s == x.strip) = some y' ∧
          y'.colour.find? (fun q => q.1 == x.view && q.2.1 == x.tile && q.2.2.1 == y.vs.cwords * inTile sx sy + j) =
            some (x.view, x.tile, y.vs.cwords * inTile sx sy + j, Lanes.get (w.lanes (a.toNat + j)) l)) ∧
    (w.tx.inTx &&& P = 0 → Ready s w (.gzread g la d a) g [] →
      Takes s w (.gzread g la d a) {} fun e => e.cls = .I ∧ e.pend = P ∧ e.scal = [w.sget a.toNat]) ∧
    (w.ident.kind ≠ .mesh → bad (.msvtx g n a b c) srcV ∧ bad (.msprim g a b c) srcP ∧ bad (.msend g a b) []) ∧
    (w.ident.kind ≠ .fragment → bad (.fsout g ft m a) srcF)

/-! ## Caches, special registers, traps -/

/-- R137, R219, R267: IPREF, IPIN, IUNPIN, PREF, CWB and CINV change no register and no byte of memory. On one line that
translates: IPREF brings it into the instruction cache from its home, IPIN pins it there for the sheaf while fewer than 512
lines are pinned and no sheaf has pinned it, IUNPIN lifts its pins; PREF brings a cacheable line into L1, CWB leaves the stack
nothing older of it, CINV takes it out of L1. The model's own choices here: log entry 68. -/
def Obligations.CacheInstructions : Prop :=
  ∀ (s : State) (w : Warp) (g : Guard) (lv : Bool) (a b : R8) (m : MAddr), w.huskFull = false →
    let core := s.coreOf w
    let ctx := w.ident.ctx
    let A := (w.sget a.toNat).toNat
    let C (i : Instr) (φ : State → Prop) := Ready s w i g [] → Quiet s w i {} fun t _ =>
      ∀ pa pte, (w.sget b.toNat).toNat % 2 ^ 24 = 1 → lv = false →
        s.translate w.who (128 * (A / 128)) 8 Need.fetch = (.ok (.dram pa pte), s) → φ t
    let D (i : Instr) (φ : State → Nat → Word64 → Prop) := Ready s w i g (mSrc m) → Quiet s w i {} fun t _ =>
      ∀ l pa pte, w.performing g = maskOf (· == l) → l < 32 →
        s.translate w.who (mAt w m l).toNat 1 Need.read = (.ok (.dram pa pte), s) → φ t pa pte
    C (.ipref g lv a b) (fun t => ∃ x, t.mem.iline core ctx A = some x) ∧
    C (.ipin g lv a b) (fun t => s.mem.pinned0 core < 512 → (∀ x, s.mem.iline core ctx A = some x → x.pins = []) →
        ∃ x, t.mem.iline core ctx A = some x ∧ x.pins.contains w.ident.sid) ∧
    C (.iunpin g lv a b) (fun t => ∀ x, t.mem.iline core ctx A = some x → x.pins = []) ∧
    D (.pref g lv m) (fun t pa pte => lv = false → pteBit pte 5 = true → ∃ x, t.mem.l1Line core pa = some x ∧
      x.bytes = (s.mem.read (s.via ctx pte) (pa / 128 * 128) 128).1) ∧
    D (.cwb g m) (fun t pa _ => ∀ x ∈ t.mem.stale, x.1 ≠ pa / 128) ∧
    D (.cinv g m) (fun t pa _ => t.mem.l1Line core pa = none)

/-- R198, R213, R221, Table 6.10: SREAD of a warp outside a sheaf pair reads the special register at issue and writes its value
when the pipeline completes: one scalar register, or in each performing lane a register or a pair. R6, R77, R78, R221, R448:
SWRITE sets the writable bits of FMODE, FFLAGS (with no BGEMV outstanding) or TVEC, from a scalar register or from the lowest
performing lane, and changes no other register. The model's own choices here: log entries 47, 64, 103. -/
def Obligations.SpecialRegisters : Prop :=
  (∀ (s : State) (w : Warp) (g : Guard) (la : BitVec 4) (vec : Bool) (d : R8) (sp : Special),
     let i := Instr.sread g la vec d sp
     let P := w.performing g
     let val := s.specialValue w sp
     s.twinOf w = none → Ready s w i g [] → (∀ x ∈ w.pipe, x.id < s.nextId) →
       ∃ t w1 u w2, exec i s = .next t ∧ t.warp w.vw = some w1 ∧ w.Only w1 {} ∧ s.OnlyWarp t w.vw ∧
         exec (.pipelineResultWrite w.vw s.nextId) t = .next u ∧ u.warp w.vw = some w2 ∧ s.OnlyWarp u w.vw ∧
         if vec = false then w2.sget d.toNat = val 0 ∧ (∀ n, n ≠ d.toNat → w2.sget n = w.sget n) ∧ ∀ n, w2.vget n = w.vget n
         else (∀ n, w2.sget n = w.sget n) ∧ w.LanesAre w2 d.toNat P 0 (fun l y => y = (val l).extractLsb' 0 32) ∧
           if sp.wide then w.LanesAre w2 (d.toNat + 1) P 0 (fun l y => y = (val l).extractLsb' 32 32) ∧
               ∀ n, n ≠ d.toNat → n ≠ d.toNat + 1 → w2.vget n = w.vget n
           else ∀ n, n ≠ d.toNat → w2.vget n = w.vget n) ∧
  (∀ (s : State) (w : Warp) (g : Guard) (vec : Bool) (a : R8) (sp : Special),
     let i := Instr.swrite g vec a sp
     let l := lowest (w.performing g)
     let x : Word64 := if vec = false then w.sget a.toNat else if sp.wide then w.ln64 a l else (w.ln a l).setWidth 64
     (sp = .fflags → ∀ e ∈ w.husk, ∀ g dc acc bf a b, e.instr ≠ .bgemv g dc acc bf a b) →
     Ready s w i g (if vec then [⟨a, if sp.wide then 2 else 1, tRaw⟩] else []) → Leaves s w i { spr := true } fun t =>
       (sp = .fmode → t.spr = { w.spr with fmode := x &&& 3 }) ∧
       (sp = .fflags → t.spr = { w.spr with fflags := x &&& 0x3F }) ∧
       (sp = .tvec → t.spr = { w.spr with tvec := x &&& 0x00FFFFFFFFFFFFFF }) ∧
       (sp = .fmode ∨ sp = .fflags ∨ sp = .tvec))

/-- R448 to R451, R218, R222, Table 16.2: a trap goes to the handler when `TVEC` enables it and the warp is not in trap mode: BRK
and TRAP take theirs after they have issued, an issue-precise fault is taken before its word; TCAUSE names the cause, the
slot, whether the word was done, the header, the source and the code. R454: a trap with no handler to take it writes the trap
registers, leaves `TCAUSE.MODE` as it is, freezes the sheaf and sends the fault event; ERET outside trap mode freezes it with
cause 0x01 and writes nothing. R505, R514: a poisoned source in a pair, or in a clean restartable sheaf, rolls it back or
relaunches it instead. The model's own choices here: log entry 10. -/
def Obligations.Traps : Prop :=
  (∀ (s : State) (w : Warp) (g : Guard) (code : BitVec 16) (bcode : Byte) (t : TrapAt) (word : Word64),
     w.spr.tvec.getLsbD 0 = true → w.trapMode = false →
     let done (cause code : Nat) : Word64 :=
       at_ cause 0 ||| at_ w.clause.slot 8 ||| at_ 1 12 ||| at_ 1 16 ||| at_ code 32
     let R (i : Instr) (cause code : Nat) := Ready s w i g [] → ∃ t w', exec i s = .next t ∧ t.warp w.vw = some w' ∧
       w.Trapped w' w.exec (done cause code) w.issueAddr ∧ (s.twinOf w = none → s.OnlyWarp t w.vw)
     R (.trap g code) 0x41 code.toNat ∧ R (.brk g bcode) 0x40 bcode.toNat ∧
     (s.warp w.vw = some w → (t.cause = 0x28 → s.consumes w.ident.sid = false) → ∃ w', (s.takeTrap w t word).warp w.vw = some w' ∧
       w.Trapped w' t.lanes (at_ t.cause.toNat 0 ||| at_ (if t.hdr then 0 else t.slot) 8 ||| at_ (if t.done then 1 else 0) 12 |||
         at_ (if t.hdr then 1 else 0) 13 ||| at_ t.src 14 ||| at_ 1 16 ||| at_ t.code 32) t.addr)) ∧
  (∀ (s : State) (w : Warp) (h : Sheaf) (t : TrapAt) (word : Word64), s.warp w.vw = some w → s.sheaf w.ident.sid = some h →
     h.state = .resident → w.slot ≠ .finished →
     let freezes (u : State) (φ : Warp → Prop) := ∃ w' h', u.warp w.vw = some w' ∧ u.sheaf w.ident.sid = some h' ∧
       h'.state = .frozen ∧ h'.why = .fault ∧ (∀ l, w'.pcOf l = w.pcOf l) ∧ w'.slot ≠ .turn ∧ φ w'
     let tells (u : State) (cause : Code8) (lanes : Mask) (word : Word64) := s.twinOf w = none → s.evRoom → ∃ a x,
       Reports s u (s.evOf 0x01 w.ident.lid [] [faultDesc cause 0 w.ident.ctx lanes w.vw 0 a x]) ∧
       (cause ∈ [0x11, 0x12, 0x13, 0x06, 0x28] → x = word)
     ((w.spr.tvec.getLsbD 0 = false ∨ w.trapMode = true) → (t.cause = 0x28 → s.consumes w.ident.sid = false) → t.slot < 16 →
       t.src < 4 → freezes (s.takeTrap w t word) (fun w' => w'.spr.taddr = BitVec.ofNat 64 t.addr ∧ w'.spr.tlanes = t.lanes ∧
         w'.spr.tcause = (at_ t.cause.toNat 0 ||| at_ (if t.hdr then 0 else t.slot) 8 ||| at_ (if t.done then 1 else 0) 12 |||
           at_ (if t.hdr then 1 else 0) 13 ||| at_ t.src 14 ||| at_ (if w.trapMode then 1 else 0) 16 ||| at_ t.code 32) ∧
         w'.spr.tvec = w.spr.tvec) ∧ tells (s.takeTrap w t word) t.cause t.lanes word) ∧
     (t.cause = 0x28 → s.consumes w.ident.sid = true → s.takeTrap w t word = s.consume w.ident.sid) ∧
     (∀ g, w.trapMode = false → Ready s w (.eret g) g [] → ∃ u, exec (.eret g) s = .next u ∧ freezes u (fun w' => w'.spr = w.spr) ∧
       tells u 0x01 w.exec (wordOf (.eret g))))

/-- R452: ERET in trap mode sends the live lanes of TLANES to the word or header at which the trap was taken, or past it when the
trap was taken after its word or `TVEC.SKIP` is set; it clears `TCAUSE.MODE` and `TVEC.SKIP`, and its lanes' next word is not
stopped again. The model's own choices here: log entry 49. -/
def Obligations.TrapReturn : Prop :=
  ∀ (s s1 : State) (w : Warp) (g : Guard) (hw : Word64),
    let back := w.spr.tlanes &&& w.live
    let ta := w.spr.taddr.toNat
    let hdr := w.spr.tcause.getLsbD 13
    let slot := fld w.spr.tcause 11 8
    let ha := if hdr then ta else ta - 8 * (slot + 1)
    let count := (Header.ofWord hw).count
    let skip := w.spr.tcause.getLsbD 12 || w.spr.tvec.getLsbD 2
    let ret := if skip then (if !hdr && decide (slot < count) then ta + 8 else ha + 16 + 8 * count) else ta
    Ready s w (.eret g) g [] → w.trapMode = true → w.tx.doomed = 0 → w.nextAddr < 2 ^ 56 → s.fetch w.advance ha = (.ok hw, s1) →
    s1.warp w.vw = some w →
      ∃ t w', exec (.eret g) s = .next t ∧ t.warp w.vw = some w' ∧ w'.trapMode = false ∧
        (∀ l, l < 32 → has back l = true → w'.pcOf l = BitVec.ofNat 64 ret) ∧
        (∀ l, has back l = false → has w.exec l = false → w'.pcOf l = w.pcOf l) ∧
        w'.spr = { w.spr with tcause := w.spr.tcause &&& ~~~(at_ 1 16), tvec := w.spr.tvec &&& ~~~(at_ 1 2) } ∧
        w'.suppress = back ∧ (∀ n, w'.vget n = w.vget n) ∧ (∀ n, w'.sget n = w.sget n) ∧ (∀ n, w'.pget n = w.pget n) ∧
        (∀ x ∈ w'.wins, x.susp = false)

/-! ## Events of the machine -/

/-- R54 to R57, R217, R507: SCHEDULER_PICK gives the turn to the warp that has been ready longest; TURN_LIMIT, at a clause header
after 4,096 words, and CLAUSE_WAIT_TIMEOUT, at a word that has waited more than 256 cycles, take it away; SLEEP_WAKE and
CKPT_WAIT_TIMEOUT end their waits. Nothing else changes. -/
def Obligations.SchedulerEvents : Prop :=
  ∀ (s : State) (w : Warp), s.warp w.vw = some w →
    let R (i : Instr) (focus : Option Nat) (w' : Warp) := Goes s i fun t =>
      t.warp w.vw = some w' ∧ t.focus = focus ∧ (∀ v, v ≠ w.vw → t.warp v = s.warp v) ∧ t.mem = s.mem ∧ t.sheaves = s.sheaves ∧
        t.cmd = s.cmd
    let off : Warp := { w with slot := .waiting, turnWords := 0, held := none, clause := { w.clause with broken := true } }
    (w.slot = .ready → s.mayRun w = true →
      (∀ x ∈ s.warps, s.mayRun x = true → s.coreOf x = s.coreOf w → x.wslot % 4 = w.wslot % 4 →
        x.slot ≠ .turn ∧ (x.slot = .ready → w.readyAt ≤ x.readyAt)) →
      R (.schedulerPick w.vw) (some w.vw) { w with slot := .turn, turnWords := 0, held := none }) ∧
    (w.slot = .turn → w.clause.inside = false → 4096 ≤ w.turnWords → R (.turnLimit w.vw) none off) ∧
    (∀ c, w.slot = .turn → w.clause.inside = true → w.held = some c →
      c + 256 < (s.cores.clock.getD (s.coreOf w / 24) 0).toNat →
      R (.clauseWaitTimeout w.vw) none { off with waits := { w.waits with full := w.huskFull } }) ∧
    (w.waits.wake ≠ 0 → w.waits.wake.toNat ≤ s.io.time.timebase.toNat →
      R (.sleepWake w.vw) s.focus { w with waits := { w.waits with wake := 0 } }) ∧
    (∀ c, w.waits.ckpt = some c → c ≤ (s.cores.clock.getD (s.coreOf w / 24) 0).toNat →
      R (.ckptWaitTimeout w.vw) s.focus { w with waits := { w.waits with ckpt := none } })

/-- R304, R314, R326, R333, R95, R96: a step of an engine for one entry. MLOOP_STEP adds one K-step of products of the operand
rows read to the accumulator; COPY_CHUNK_LAND writes the word read from the source to the destination and advances the
watermark; BGEMV_ROW_LAND counts one row, and keeps the rows of an accumulating one in its chaff record; RAY_TILLER_WRITE ends
one lane. The model's own choices here: log entries 48, 65, 99. -/
def Obligations.EngineSteps : Prop :=
  ∀ (s s1 s2 s3 : State) (w : Warp) (e : HkEntry), s.entryOf w.vw e.seq.toNat = some (w, e) →
    let K := matK e.cfg.ta
    let k0 := (e.cfg.kpos.toNat + e.prog * K) % 2 ^ 32
    let c := Copy.of e.scal
    (∀ (d : Nat) (a b : List (List FV × Bool)), accOf e.instr = some d → s.loopReady w e = true → d < w.acc.length →
      (w.accGet d).tag ≠ 15 → s.rowsRead w e e.opA k0 K = (.ok a, s1) → s1.rowsRead w e e.opB k0 K = (.ok b, s2) →
      s2.warp w.vw = some w →
      let r := tileStep e.cfg.ta (RM.of e.rm.toNat) (w.accGet d).x a b
      Goes s (.mloopStep w.vw e.seq.toNat) fun t =>
        EntryIs w t e.seq (fun x => x = { e with prog := e.prog + 1 }) ∧ t.mem = s2.mem ∧ ∃ w', t.warp w.vw = some w' ∧
          (∀ n, n ≠ d → w'.accGet n = w.accGet n) ∧
          (w'.accGet d).tag = (if (a ++ b).any (·.2) then 15 else (w.accGet d).tag) ∧
          ((a ++ b).any (·.2) = false → (w'.accGet d).x = r.1) ∧ w'.spr.fflags = w.spr.fflags ||| r.2.setWidth 64) ∧
    (∀ (g : Guard) (dc : BitVec 3) (a : R8) (l : List Byte) (p : Bool) (k : Nat), e.instr = .ckick g dc a →
      s.engineTurn w e = true → s.mayRun w = true → c.mc = false → c.named = false → e.chunks = [(0, k, k)] → k + 4 ≤ c.len →
      s.engineRead w e (c.src + k) = (.ok (l, p), s1) →
      s1.engineWrite w e (c.dst + k) l p (chunkIn c.dst c.len ((c.dst + k) / 64)) = (.ok s2, s3) →
      s2.warp w.vw = some w →
      Goes s (.copyChunkLand w.vw e.seq.toNat 0 4) fun t => t.mem = s2.mem ∧ t.sheaves = s2.sheaves ∧
        EntryIs w t e.seq fun x => x = { e with chunks := [(0, k + 4, k + 4)], prog := k + 4,
                                                pend := if k + 4 = c.len then 0 else e.pend }) ∧
    (∀ (g : Guard) (dc : BitVec 3) (acc bf : Bool) (a b : R8) (r : Nat) (fl : FlagSet), e.instr = .bgemv g dc acc bf a b →
      s.engineTurn w e = true → s.mayRun w = true → e.sent = 0 → e.perf ≠ 0 → e.chunks = [(0, r, r)] → e.scal.length = 6 →
      e.scal.getD 3 0 = 0 →
      s.rowLand w e acc r = (.ok (s1, fl), s2) → s1.warp w.vw = some w →
      Goes s (.bgemvRowLand w.vw e.seq.toNat) fun t => (acc = false → t.mem = s1.mem) ∧ t.mem.dram = s1.mem.dram ∧
        (acc = true → ∃ y ∈ t.mem.chaff, y.kind = 7 ∧ y.vw = w.vw ∧ y.seq = e.seq ∧ y.value = BitVec.ofNat 64 (r + 1)) ∧
        t.sheaves = s1.sheaves ∧ EntryIs w t e.seq fun x =>
        x.chunks = [(0, r + 1, r + 1)] ∧ x.prog = r + 1 ∧ x.scal.getD 5 0 = (e.scal.getD 5 0 ||| fl.setWidth 64) ∧
        x.pend = if (e.scal.getD 4 0).toNat ≤ r + 1 then 0 else e.pend) ∧
    (∀ (g : Guard) (dc : BitVec 3) (gen : Bool) (n : BitVec 3) (a b d : R8) (l : Nat) (ws : List Word32) (p : Bool),
      e.instr = .rtrace g dc gen n a b d → s.engineTurn w e = true → s.mayRun w = true → has e.pend l = true →
      s.trace w e (.xfer w.vw e.seq) l (e.scal.headD 0).toNat (s.rayOf w e gen 0 l) = (.ok (ws, p), s1) →
      (∀ y, s.launch w.ident.lid = some y → ∀ x ∈ y.owed, ¬(x.vw = w.vw ∧ x.seq = e.seq ∧ x.lane = l)) →
      s1.tillerIn (s.coreOf w / 144) w.ident.lid (rayTiller e gen l ws (p || e.psn.any id)) = some s2 → s2.warp w.vw = some w →
      Goes s (.rayTillerWrite w.vw e.seq.toNat l) fun t => t.cmd = s2.cmd ∧ t.launches = s2.launches ∧
        EntryIs w t e.seq fun x => x = { e with pend := e.pend &&& ~~~(maskOf (· == l)) })

/-- R36, R40, R41, R59, R66, R357, R358, Table 2.1: SHEAF_PLACE puts an Unstarted sheaf whose turn it is on a run of cores that
has room and starts its warps with the state of Table 2.1; FREEZE takes a sheaf that must go out of its turns, and device
memory stands; LAUNCH_ADMIT places every sheaf of a waiting launch when all find room. The model's own choices here: log entry
13. -/
def Obligations.SheafPlacement : Prop :=
  ∀ (s : State) (h : Sheaf) (l : Launch) (core : Nat), s.sheaf h.sid = some h → s.launch h.lid = some l →
    (h.twin = none → h.state = .unstarted → h.seed = [] → s.waiting h = true → s.inTurn h = true → s.admitsAhead h = false →
      core ∈ s.homes h → (∀ w ∈ s.warps, w.ident.sid ≠ h.sid) →
      Goes s (.sheafPlace h.sid core) fun t => (∃ h', t.sheaf h.sid = some h' ∧ h'.state = .resident ∧ h'.cur = core ∧ h'.orig = core) ∧
        (t.warps.filter (·.ident.sid == h.sid)).length = l.r.wgs * (l.r.roles.map (·.warps)).sum ∧
        (∀ w ∈ t.warps, w.ident.sid = h.sid → w.slot = .ready ∧ (∀ n, w.vget n = VReg.zero) ∧ w.spr = Spr.start ∧ w.husk = [] ∧
          (∀ k, k < w.s.length → w.sget k = l.args.getD k 0) ∧
          ∃ r ∈ l.r.roles, w.v.length = 8 * (r.vblk + 1) ∧ w.s.length = r.sregs ∧ ∀ i, i < 32 → w.pcOf i = BitVec.ofNat 64 r.pc) ∧
        (∀ v w, s.warp v = some w → t.warp v = some w) ∧ t.mem.dram = s.mem.dram) ∧
    (h.state = .resident → s.mustLeave h = true ∨ s.inTheWay h.sid = true → Goes s (.freeze h.sid) fun t =>
      (∃ h', t.sheaf h.sid = some h' ∧ h'.state = .frozen ∧ h'.why = .evict ∧ h'.scr = h.scr) ∧
      (∀ w ∈ t.warps, w.ident.sid = h.sid → w.slot ≠ .turn) ∧ t.mem = s.mem) ∧
    (l.r.atOnce = true → l.state = .waiting → s.mem.defer = [] → (∀ x ∈ s.sheaves, x.twin = none) → s.admitGroup l ≠ [] →
      s.admitTurn (s.admitGroup l) = true → s.everFits l.r = true → (s.planAll (s.admitGroup l)).isSome = true →
        Goes s (.launchAdmit h.lid) fun t =>
        (∃ l', t.launch h.lid = some l' ∧ l'.state = .admitted) ∧
        ∀ x ∈ s.admitGroup l, ∃ x', t.sheaf x.sid = some x' ∧ x'.state = .resident)

/-- R39, R67, R411 to R415: SHEAF_SAVE takes a frozen sheaf off its cores with its state when its image finds room; SHEAF_RESUME
puts a saved one on a run, or lets a frozen one go on where it stands, once nothing that it sent is under way: every register
and the scratchpad are as before, and every husk entry is outstanding again, to be issued with its replay bit when it has not
completed; SHEAF_RETIRE ends a sheaf whose warps have all finished, and its launch when it was the last. The model's own
choices here: log entries 51, 72. -/
def Obligations.SheafLifecycle : Prop :=
  ∀ (s : State) (h : Sheaf) (l : Launch) (core : Nat), s.sheaf h.sid = some h → s.launch h.lid = some l → h.trail = false →
    (h.state = .frozen → h.why = .evict → (∀ x ∈ s.together h.sid, ∀ y, s.sheaf x = some y → y.state ≠ .resident) →
      (s.saveAll (s.together h.sid)).isSome = true →
      Goes s (.sheafSave h.sid) fun t => (∃ h', t.sheaf h.sid = some h' ∧ h'.state = .saved ∧ h'.scr = h.scr ∧ h'.psn = h.psn) ∧
        t.warps = s.warps ∧ t.mem.dram = s.mem.dram ∧ ∀ x ∈ t.mem.il, h.sid ∉ x.pins) ∧
    (h.twin = none → l.r.atOnce = false → l.held = false → h.why = .evict → (∀ d ∈ s.mem.defer, d.sid ≠ h.sid) →
      s.drained h.sid = true →
      ((h.state = .saved ∧ s.badImage h = none ∧ l.state = .admitted ∧ s.inTurn h = true ∧ s.admitsAhead h = false ∧ core ∈ s.homes h) ∨
        (h.state = .frozen ∧ core = h.cur ∧ s.mustLeave h = false)) →
      Goes s (.sheafResume h.sid core) fun t =>
        (∃ h', t.sheaf h.sid = some h' ∧ h'.state = .resident ∧ h'.cur = core ∧ h'.orig = h.orig ∧ h'.scr = h.scr) ∧
        (∀ v w, s.warp v = some w → w.ident.sid = h.sid → ∃ w', t.warp v = some w' ∧ w'.vpc = w.vpc ∧ w'.v = w.v ∧ w'.s = w.s ∧
          w'.p = w.p ∧ w'.acc = w.acc ∧ w'.spr = w.spr ∧ w'.husk = w.husk.map fun e =>
            { e with state := .outstanding, sent := 0, queued := e.pend != 0, rep := e.rep || e.pend != 0 }) ∧
        (∀ v w, s.warp v = some w → w.ident.sid ≠ h.sid → t.warp v = some w) ∧ t.mem.dram = s.mem.dram) ∧
    (s.sheafOver h = true → Goes s (.sheafRetire h.sid) fun t =>
      (∀ w ∈ t.warps, w.ident.sid ≠ h.sid) ∧ (∀ h', t.sheaf h.sid = some h' → h'.state = .retired) ∧
      (l.state = .admitted → l.tasks = [] → l.pool = [] → (∀ b ∈ s.cmd.bins, b.lid ≠ h.lid) → (∀ v ∈ s.streams, v.open h.lid = false) →
        h.twin = none →
        (∀ x ∈ s.sheaves, x.lid = h.lid → x.sid = h.sid ∨ x.state = .retired) → t.launch h.lid = none))

/-- R505 to R510: CHECKPOINT keeps images of both copies of a pair that asked for one, stand at the same words and agree, and
clears its log; ROLLBACK sends both copies back to their images, with the log to be met again; with no retry left the launch
fails. The model's own choices here: log entries 41, 82. -/
def Obligations.PairCheckpoints : Prop :=
  ∀ (s : State) (l t : Sheaf) (la : Launch), s.pairsOf l.lid = [(l, t)] → s.sheaf l.sid = some l → s.sheaf t.sid = some t →
    l.sid ≠ t.sid → s.launch l.lid = some la →
    (l.pair.want = true → l.pair.bad = false → l.state = .resident → t.state = .resident → l.pair.fwd = [] →
      (∀ x ∈ s.twins l, s.aligned x.1 x.2 = true) →
      (∀ x ∈ ((s.latch l.sid).latch t.sid).twins l, x.1.imageEq x.2 = true) → l.scr = t.scr → l.psn = t.psn → l.bars = t.bars →
      Goes s (.checkpoint l.lid) fun u => ∃ l' a b, u.sheaf l.sid = some l' ∧ l'.pair = { PairSt.start with img := some (a, b) } ∧
        a.scr = l.scr ∧ b.scr = t.scr ∧ a.warps = u.warpsOf l.sid ∧ b.warps = u.warpsOf t.sid ∧ u.mem = s.mem) ∧
    (l.pair.bad = true → l.pair.retries < la.r.retry → Goes s (.rollback l.lid) fun u =>
      (∃ l', u.sheaf l.sid = some l' ∧ l'.state = .saved ∧ l'.why = l.why.rolled ∧ l'.pair.bad = false ∧ l'.pair.fwd = [] ∧
        l'.pair.retries = l.pair.retries + 1 ∧ l'.pair.again = l.pair.log ∧
        l'.scr = ((l.pair.img.map fun i => i.1.scr).getD []) ∧ l'.shun = [l.cur / 24, t.cur / 24]) ∧
      (∃ t', u.sheaf t.sid = some t' ∧ t'.state = .saved ∧ t'.scr = (l.pair.img.map fun i => i.2.scr).getD []) ∧
      u.mem.dram = s.mem.dram) ∧
    (l.pair.bad = true → la.r.retry ≤ l.pair.retries → la.view = none → la.node = none → Goes s (.rollback l.lid) fun u =>
      u.launch l.lid = none ∧ ∀ x ∈ u.sheaves, x.lid ≠ l.lid)

/-- R49, R51, R291, R321, R353 to R355, R362, R480, Table 9.6: PHASE_COMPLETE of a group whose members have all arrived gives it
the combined value and its next phase; TASK_PIECE_REQUEST takes half of a task's interval, or its last grains, and starts a
warp on it at the task's header; BIN_TIMEOUT forms a warp of the tillers of a bin that has waited; REFILL brings records of a
spilled queue back from a page without an error. The model's own choices here: log entries 7, 77. -/
def Obligations.LaunchEvents : Prop :=
  ∀ (s : State) (l : Launch), s.launch l.lid = some l →
    (∀ x, l.groups.find? (·.idx == x.idx) = some x → x.arrived ≠ [] → s.phaseFull l x = true → x.sys = false →
      Goes s (.phaseComplete l.lid x.idx) fun t => ∃ l', t.launch l.lid = some l' ∧
        l'.groups.find? (·.idx == x.idx) =
          some { x with phase := x.phase + 1, arrived := [], contrib := [], last := combine x.contrib, sent := false }) ∧
    (∀ (k : Task) (core : Nat), s.launches.findSome? (fun y => (y.tasks.find? (·.id == k.id)).map fun t => (y, t)) = some (l, k) →
      l.r.paired = false → s.mayRequest l k core = true → (∀ x ∈ s.sheaves, x.sid < s.nextId) → (∀ w ∈ s.warps, w.vw < s.nextId) →
      let len := k.hi - k.lo
      let whole := decide (len < 2 * max k.grain 1)
      let m := if whole then k.hi else k.lo + len / 2
      Goes s (.taskPieceRequest k.id core) fun t =>
        (∃ h, t.sheaf s.nextId = some h ∧ h.state = .resident ∧ h.cur = core ∧ h.kind = .task) ∧
        (∃ w, t.warp (s.nextId + 1) = some w ∧ w.ident.sid = s.nextId ∧ w.ident.role = k.role ∧
          (∀ i, i < 32 → w.pcOf i = BitVec.ofNat 64 k.pc) ∧ w.spr.rangeLo = BitVec.ofNat 64 k.lo ∧ w.spr.rangeHi = BitVec.ofNat 64 m) ∧
        ∃ l', t.launch l.lid = some l' ∧ l'.tasks.find? (·.id == k.id) =
          some { k with lo := m, whole := whole, running := k.running ++ [s.nextId] }) ∧
    (∀ (die bin : Nat) (b : Bin) (x : Tiller × Nat), (s.cmd.bins.filter (·.die == die))[bin]? = some b → b.lid = l.lid →
      b.formed = false → b.sid = none → b.tillers.head? = some x → x.2 + 2048 ≤ s.dieClock die →
      Goes s (.binTimeout die bin) fun t => ∃ b' ∈ t.cmd.bins, ∃ sid h, b' = { b with formed := true, sid := some sid } ∧
        h ∈ t.sheaves ∧ h.sid = sid ∧ h.kind = .tiller ∧ h.state = .unstarted) ∧
    (∀ (i : Nat) (p : SpillPage) (t : Target), (∀ x ∈ l.pages, x.kind = 1 ∧ x.inst = i) → (l.pages.map (·.page)).Nodup →
      (sortBy (·.seq) l.pages).head? = some p → l.atHome i < 1024 → s.spillAt l p.page = (some t, s) →
      (s.readPage l.ctx t).2 = false → crc32c (s.readPage l.ctx t).1 = crc32c p.img →
      Goes s (.refill l.lid) fun u => ∃ l', u.launch l.lid = some l' ∧ l'.queues = l.queues ∧
        l'.spilled 1 i + min (1024 - l.atHome i) p.left = l.spilled 1 i)

/-- R24, R364, R365, R463, R477: FAULT_BATCH_CLOSE of a batch that is 2 µs old hands it to the command cores, and so does the end
of a step for a batch that is full, each record with the number of entries that then wait on its page; POWER_SAMPLE, once per
10 µs, throttles a die above its share of 280 W; BALANCE_STEP, every 20 µs, moves each cluster's graphics partition by at most
one core, towards its minimum when it is below; DEADLOCK_DETECT after 1 ms freezes every sheaf of the context. The model's own
choices here: log entry 31. -/
def Obligations.MachineWatches : Prop :=
  ∀ (s : State) (die mw ctx : Nat),
    (∀ b, s.cmd.batches.find? (·.die == die) = some b → b.opened + 2000 ≤ s.io.time.timebase.toNat →
      s.cmd.evq ≠ [] → Goes s (.faultBatchClose die) fun t =>
        t.cmd.evq = s.cmd.evq ++ [.batch die (b.recs.map fun r => { r with wait := s.waitersOn r })] ∧
        (∀ x ∈ t.cmd.batches, x.die ≠ die) ∧ t.warps = s.warps ∧ t.mem = s.mem) ∧
    (∀ b : Batch, s.cmd.batches = [b] → b.recs.length = 256 →
      s.fullBatches.cmd.evq = s.cmd.evq ++ [.batch b.die (b.recs.map fun r => { r with wait := s.waitersOn r })] ∧
      s.fullBatches.cmd.batches = [] ∧ s.fullBatches.warps = s.warps) ∧
    (∀ u, s.cores.sampled[die]? = some u → (∀ k, u = some k → k + 10000 ≤ s.io.time.timebase.toNat) →
      Goes s (.powerSample die mw) fun t => s.OnlyReports { t with cores := s.cores } ∧ ∀ k, t.cores.throttle[k]? =
        if k = die then (s.cores.throttle[k]?).map fun n => if 280000 < mw then min 2 (n + 1) else 0 else s.cores.throttle[k]?) ∧
    (∀ k, s.cores.sampled[die]? = some (some k) → s.io.time.timebase.toNat < k + 10000 → exec (.powerSample die mw) s = .next s) ∧
    (s.cores.balanced + 20000 ≤ s.io.time.timebase.toNat → Goes s .balanceStep fun t =>
      t.cores.balanced = s.io.time.timebase.toNat ∧ t.warps = s.warps ∧ t.sheaves = s.sheaves ∧
      ∀ c b, c < 48 → s.cores.bal[c]? = some b → ∃ g, t.cores.bal[c]? = some { b with g := g } ∧ g ≤ b.g + 1 ∧ b.g ≤ g + 1 ∧
        (b.g < max b.gmin (s.floor c) → g = b.g + 1)) ∧
    (∀ d, s.cmd.deadSince.find? (·.1 == ctx) = some d → d.2 + 1000000 ≤ s.io.time.timebase.toNat → s.deadlocked ctx = true →
      Goes s (.deadlockDetect ctx) fun t => ∀ (l : Launch) (h : Sheaf), l ∈ s.launches → l.ctx = ctx → s.sheaf h.sid = some h →
        h.lid = l.lid → h.state = .resident → ∃ h', t.sheaf h.sid = some h' ∧ h'.state = .frozen ∧ h'.why = .deadlock)

/-- R28, R338, R487: an immediate moves the tail of the queue that it names when its value is in order; any other is discarded and
reported with event 0x0C; on a connection that does not stand, or whose port's link is down, nothing arrives. R337, R339: a
host's RDMA WRITE within one page of its context stores its bytes there, in order, and one to the ring of its queue stores
them in the ring; an RDMA READ returns the bytes that stand; on the connection of queue 0, at an address of no kind, or with
an R_Key that is not the queue's number, either is refused. -/
def Obligations.HostWrites : Prop :=
  (∀ (s : State) (q : Nat), (∀ x, s.queue q = some x → s.reached x = false) → ∀ (imm : Word32) (a n : Nat) (data : List Byte),
     exec (.commandImmediate q imm) s = .next s ∧ exec (.hostRdmaWrite q a data) s = .next s ∧
       exec (.hostRdmaRead q a n) s = .next s) ∧
  (∀ (s : State) (q : Nat) (imm : Word32) (z : Queue), s.queue q = some z → s.reached z = true →
     let u := imm.toNat % 4096
     let n := imm.toNat / 4096
     let off (x : Queue) (y : Nat) := (y + 2 ^ 20 - x.h) % 2 ^ 20
     (∀ x, s.queue u = some x → x.unmapping = false → off x x.t ≤ off x n → off x n ≤ 2 ^ x.k →
       Goes s (.commandImmediate q imm) fun t => t.queue u = some { x with t := n } ∧ (∀ v, v ≠ u → t.queue v = s.queue v) ∧
         s.OnlyReports t) ∧
     ((∀ x, s.queue u = some x → x.unmapping = true ∨ off x n < off x x.t ∨ 2 ^ x.k < off x n) →
       Goes s (.commandImmediate q imm) fun t => (∀ v, t.queue v = s.queue v) ∧ s.OnlyReports t ∧
         (s.evRoom → ∃ h, (∀ x, s.queue u = some x → h = x.h) ∧
           Reports s t ⟨0x0C, 0, 0, 0, 0, 0, [at_ u 0 ||| at_ n 12, at_ h 0], []⟩))) ∧
  (∀ (s : State) (x : Queue) (a pa n : Nat) (data : List Byte) (pte : Word64), s.queue x.q = some x → s.reached x = true → s.dramOk →
     (x.q ≠ 0 → a < 2 ^ 56 → 0 < data.length → a % 4096 + data.length ≤ 4096 → pteBit pte 7 = false →
       s.translate ⟨x.ctx, none, none⟩ a 1 Need.write = (.ok (.dram pa pte), s) →
       s.mem.badMerge pa data.length = none → Goes s (.hostRdmaWrite x.q (reth x.q a) data) fun t =>
         (∀ i, i < data.length → (t.mem.read (s.via x.ctx pte) (pa + i) 1).1 = [data.getD i 0]) ∧
         (∀ k, k < pa ∨ pa + data.length ≤ k →
           (t.mem.read (s.via x.ctx pte) k 1).1 = (s.mem.read (s.via x.ctx pte) k 1).1) ∧ t.warps = s.warps ∧ t.io = s.io) ∧
     (x.k ≤ 16 → a + data.length ≤ 64 * 2 ^ x.k → s.mem.badMerge (x.ring + a) data.length = none →
       Goes s (.hostRdmaWrite x.q (reth x.q (2 ^ 63 + a)) data) fun t =>
       (∀ i, i < data.length → (t.mem.read s.ringVia (x.ring + a + i) 1).1 = [data.getD i 0]) ∧ t.warps = s.warps ∧ t.io = s.io) ∧
     (x.q ≠ 0 → a < 2 ^ 56 → 0 < n → a % 4096 + n ≤ 4096 →
       s.translate ⟨x.ctx, none, none⟩ a 1 Need.read = (.ok (.dram pa pte), s) →
       (∀ i, i < n → (s.mem.read (s.via x.ctx pte) (pa + i) 1).2 = false ∧ s.mem.bad (pa + i) = false) →
       Goes s (.hostRdmaRead x.q (reth x.q a) n) fun t =>
         t.io.out = s.io.out ++ [.read x.q ((List.range n).flatMap fun i => (s.mem.read (s.via x.ctx pte) (pa + i) 1).1)] ∧
         t.mem = s.mem ∧ t.warps = s.warps) ∧
     (∀ rkey, rkey ≠ x.q ∨ x.q = 0 ∨ 2 ^ 56 ≤ a → a < 2 ^ 63 →
       exec (.hostRdmaWrite x.q (reth rkey a) data) s = .next (s.send (.nak x.q 0)) ∧
       exec (.hostRdmaRead x.q (reth rkey a) n) s = .next (s.send (.nak x.q 0))))

/-- R347, R426, R434, R488: CMD_EVENT_DISPATCH gives an idle command core the oldest queue event that no lock holds back;
CMD_CORE_HANG, 1 ms after the core came into service at the earliest, reboots it, for good after three hangs in 10 s, and its
event waits again; CMD_CORE_REBOOT_DONE makes it idle once the image that runs has passed its checks again. A mark is answered
once per 50 µs; a notification halves the rate of its connection, and 55 µs without one raise it by a sixteenth. The model's
own choices here: log entry 73. -/
def Obligations.CommandCores : Prop :=
  ∀ (s : State) (core : Nat) (f : Fc) (x : Queue), s.queue x.q = some x → x.q < 4096 →
    let now := s.io.time.timebase.toNat
    -- Mbit/s of the queue's connection
    let speed (t : State) : Rat := (t.rate x.q).num / 2 ^ (t.rate x.q).halves
    (s.cmd.fcs[core]? = some f → f.state = .idle → s.cmd.evq.find? s.takeable = some (.queue x.q) →
      Goes s (.cmdEventDispatch core) fun t => t.cmd.evq = s.cmd.evq.erase (.queue x.q) ∧
        t.queue x.q = some { x with lock := some core } ∧
        t.cmd.fcs[core]? = some { f with state := .busy (.queue x.q), took := now } ∧ s.OnlyReports t) ∧
    (s.cmd.fcs[core]? = some f → f.state = .busy (.queue x.q) → f.up + 1000000 ≤ now → Goes s (.cmdCoreHang core) fun t =>
      let hangs := now :: f.hangs.filter fun h => decide (now < h + 10000000000)
      t.cmd.fcs[core]? = some { f with state := if 3 ≤ hangs.length then .out else .reboot, hangs := hangs } ∧
        t.cmd.evq = .queue x.q :: s.cmd.evq ∧ t.queue x.q = some { x with lock := none } ∧ s.OnlyReports t) ∧
    (s.cmd.fcs[core]? = some f → now < f.up + 1000000 → exec (.cmdCoreHang core) s = .next s) ∧
    (s.cmd.fcs[core]? = some f → f.state = .reboot → Goes s (.cmdCoreRebootDone core) fun t =>
      t.cmd.fcs[core]? = some { f with state := if imagePasses s.io.start.image then .idle else .out, up := now } ∧
        (∀ p ∈ t.cmd.fbLocks, p.1 ≠ core) ∧ s.OnlyReports t) ∧
    (s.reached x = false → exec (.ceMarkReceived x.q) s = .next s ∧ exec (.cnpReceived x.q) s = .next s) ∧
    (x.lost = false →
      (s.hears x.port = true → (∀ k, (s.rate x.q).sentAt = some k → k + 50000 ≤ now) → Goes s (.ceMarkReceived x.q) fun t =>
        t.io.out = s.io.out ++ [.cnp x.q] ∧ (t.rate x.q).sentAt = some now ∧ speed t = speed s) ∧
      (s.hears x.port = true → Goes s (.cnpReceived x.q) fun t => speed t = (if speed s ≤ 2000 then 1000 else speed s / 2) ∧
        (t.rate x.q).lastAt = now) ∧
      ((s.rate x.q).lastAt + 55000 ≤ now → Goes s (.rateRecovery x.q) fun t =>
        speed t = (if 1600000 ≤ speed s + 100000 then 1600000 else speed s + 100000) ∧ (t.rate x.q).lastAt = now))

/-- R341 to R344, R348 to R350: LAUNCH_PACKET admits a launch of its record and waits for it; GRAPH_ARM starts the next generation
of its instance; SIGNAL_PACKET stores or adds its value; WAIT_PACKET completes when its word meets the condition and waits on
otherwise; COPY_PACKET copies its words. -/
def Obligations.CommandPackets : Prop :=
  ∀ (s s1 s2 : State) (x : Queue) (w : List Word64) (pa : Nat) (pte : Word64), w.getD 6 0 = 0 →
    let b (k : Nat) : Word64 := w.getD (k + 1) 0
    let s0 := s.started x w
    let who : Who := ⟨x.ctx, none, none⟩
    (∀ v, Starts s x 0x01 w → s0.readRecord x.ctx (b 0).toNat false = (.ok v, s1) → s1.item11 v.r = false → v.r.paired = false →
      Goes s (.launchPacket x.q) fun t => t.sheaves.length = s1.sheaves.length + v.r.nsheaf ∧ ∃ l, t.launches = s1.launches ++ [l] ∧
        l.ctx = x.ctx ∧ l.queue = x.q ∧ l.packet = x.h ∧ l.args = v.args ∧ l.groups = v.groups ∧
        l.r = { v.r with prio := min v.r.prio (s1.ceiling x.ctx) } ∧ ∃ y, t.queue x.q = some y ∧ (s1.queue x.q = s0.queue x.q →
          y.h = (x.h + 1) % 2 ^ 20 ∧ y.running = x.running ++ [runningOf x w (.launch l.lid)])) ∧
    (∀ g, let i := (b 1).toNat % 4096
      Starts s x 0x02 w → s.graph x.ctx i = some g → g.armed = none → (b 1).getLsbD 16 = false → g.nodes ≠ [] →
      Goes s (.graphArm x.q) fun t => RunsOn t x w (.graph i) ∧ ∃ g', t.graph x.ctx i = some g' ∧ g'.g = g.g + 1 ∧
        g'.armed = some (x.q, x.h) ∧ g'.poisoned = false ∧
        ∀ (v : Nat) (n : GNode), g.nodes[v]? = some n → n.init ≠ 0 → g'.nodes[v]? = some { n with state := .idle }) ∧
    (Starts s x 0x03 w → s0.translate who (b 0).toNat 8 Need.atomic = (.ok (.dram pa pte), s0) → s.mem.bad pa = false →
      pteBit pte 7 = false → (s.mem.read (s.via x.ctx pte) pa 8).2 = false → s.dramOk → Goes s (.signalPacket x.q) fun t =>
        Completes t x w 0 ∧ (t.mem.read (s.via x.ctx pte) pa 8).1 = bytesOf 8 (if (b 2).getLsbD 0
          then BitVec.ofNat 64 (ofBytes (s.mem.read (s.via x.ctx pte) pa 8).1) + b 1 else b 1).toNat ∧
        ∀ k, k < pa ∨ pa + 8 ≤ k → (t.mem.read (s.via x.ctx pte) k 1).1 = (s.mem.read (s.via x.ctx pte) k 1).1) ∧
    (Starts s x 0x04 w → b 2 ≠ 3 → s0.translate who (b 0).toNat 8 Need.read = (.ok (.dram pa pte), s0) → s.mem.bad pa = false →
      (s.mem.read (s.via x.ctx pte) pa 8).2 = false →
      let y := BitVec.ofNat 64 (ofBytes (s.mem.read (s.via x.ctx pte) pa 8).1)
      let met := if b 2 = 0 then (b 1).toNat ≤ y.toNat else if b 2 = 1 then y = b 1 else y ≠ b 1
      Goes s (.waitPacket x.q) fun t => t.mem = s.mem ∧ (met → Completes t x w 0) ∧
        (¬met → RunsOn t x w (.waitw (b 0).toNat (b 1) (b 2).toNat))) ∧
    (Starts s x 0x05 w → (b 2).toNat % 4 = 0 → (b 2).toNat ≤ 2 ^ 30 → s1.queue x.q = s0.queue x.q →
      s0.copyWords x.ctx (b 0).toNat (b 1).toNat (b 1).toNat ((b 2).toNat / 4) = (.ok s1, s2) →
      Goes s (.copyPacket x.q) fun t => Completes t x w 0 ∧ t.mem = s1.mem ∧ t.warps = s1.warps)

/-- R340, R341, R485: a packet of a known type with a reserved bit set, in its header, its body or its signal address, does
nothing: it completes with status 1, and event 0x04 gives reason 13. -/
def Obligations.ReservedBitsReject : Prop :=
  ∀ (s : State) (x : Queue) (w : List Word64) (m : List Word64) (typ : Nat), s.queue x.q = some x → x.lock.isSome = true →
    s.mayStart x = true → (∀ r ∈ x.running, r.n ≠ x.h) → s.packet x x.h = w → fld (w.getD 0 0) 7 0 = typ → bodyBits typ = some m →
    mgmt typ = (x.q == 0) → ((∃ p ∈ ((w.drop 1).take 5).zip m, p.1 &&& ~~~p.2 ≠ 0) ∨ fld (w.getD 0 0) 31 10 ≠ 0 ∨
      (mgmt typ = false ∧ fld (w.getD 6 0) 63 56 ≠ 0)) →
    let R (i : Instr) (k : Nat) := typ = k → Goes s i fun t => Completes t x w 1 ∧ s.OnlyReports t ∧
      (s.evRoom → Reports s t ⟨0x04, x.ctx, x.q, x.h, 0, 0, [at_ 13 0], []⟩)
    let op := (w.getD 1 0).toNat % 16
    let what := fld (w.getD 3 0) 7 6
    ((∀ g, s.graph x.ctx ((w.getD 2 0).toNat % 4096) = some g → g.armed = none) → R (.graphArm x.q) 0x02) ∧
    (s.io.time.everLocked = true → R (.viewStreamConfigure x.q) 0x06) ∧
    (op = 0 ∨ 3 < op → R (.keyLoad x.q) 0x07) ∧ (op = 1 → R (.keyClear x.q) 0x07) ∧ (op = 2 → R (.keyBind x.q) 0x07) ∧
    (op = 3 → R (.keyAttest x.q) 0x07) ∧
    (what ≠ 1 → R (.testPackageApply x.q) 0x08) ∧ (what = 1 → R (.testPackageReport x.q) 0x08) ∧
    R (.launchPacket x.q) 0x01 ∧ R (.signalPacket x.q) 0x03 ∧ R (.waitPacket x.q) 0x04 ∧ R (.copyPacket x.q) 0x05 ∧
    R (.mapq x.q) 0x10 ∧ R (.unmapq x.q) 0x11 ∧ R (.ctxset x.q) 0x12 ∧ R (.ctxdel x.q) 0x13 ∧ R (.tlbinv x.q) 0x14 ∧
    R (.resume x.q) 0x15 ∧ R (.cancel x.q) 0x16 ∧ R (.balance x.q) 0x17

/-- R433, R435, Table 13.4: KEY_LOAD puts the key that its record wraps into a free slot for its context; KEY_CLEAR erases one
that the context owns; KEY_BIND adds or removes a peer entry; KEY_ATTEST writes the report for its nonce after it. The model's
own choices here: log entry 112. -/
def Obligations.KeyPackets : Prop :=
  ∀ (s s1 s2 : State) (x : Queue) (w r : List Word64), Starts s x 0x07 w → (w.getD 2 0).toNat % 64 = 0 → w.getD 6 0 = 0 →
    (s.started x w).readDws x.ctx (w.getD 2 0).toNat 32 = (.ok r, s1) → s1.queue x.q = (s.started x w).queue x.q →
    let op := (w.getD 1 0).toNat
    let slot := (r.getD 0 0).toNat % 4096
    let dev := (r.getD 0 0).toNat % 2 ^ 20
    (∀ k, op = 0 → slot ≠ 4095 → (∀ y ∈ s1.mem.slots, y.slot ≠ slot) →
      Config.keyUnwrap s1.io.start.starts (BitVec.ofNat 512 (joinWords ((r.drop 1).take 8)))
        (BitVec.ofNat 576 (joinWords ((r.drop 9).take 9))) = some k →
      Goes s (.keyLoad x.q) fun t => Completes t x w 0 ∧ t.mem.slots = s1.mem.slots ++ [⟨slot, x.ctx, k⟩] ∧
        t.mem.slotKey x.ctx slot = some k ∧ t.mem.dram = s1.mem.dram) ∧
    (op = 1 → slot ≠ 4095 → (s1.mem.slotKey x.ctx slot).isSome = true → Goes s (.keyClear x.q) fun t =>
      Completes t x w 0 ∧ (∀ c, t.mem.slotKey c slot = none) ∧ (∀ c k, k ≠ slot → t.mem.slotKey c k = s1.mem.slotKey c k) ∧
        t.mem.dram = s1.mem.dram) ∧
    (op = 2 → fld (r.getD 3 0) 63 48 = 0 → (r.getD 4 0).getLsbD 0 = false → Goes s (.keyBind x.q) fun t =>
      Completes t x w 0 ∧ (∀ p ∈ t.cmd.peers, ¬(p.ctx = x.ctx ∧ p.dev = dev)) ∧ t.mem = s1.mem) ∧
    (op = 2 → fld (r.getD 3 0) 63 48 = 0 → (r.getD 4 0).getLsbD 0 = true → s1.cmd.peers.length < 4096 →
      Goes s (.keyBind x.q) fun t => Completes t x w 0 ∧ ∃ p ∈ t.cmd.peers, p.ctx = x.ctx ∧ p.dev = dev ∧
        p.ip = r.getD 2 0 ++ r.getD 1 0 ∧ p.lost = false) ∧
    (op = 3 → s2.queue x.q = s1.queue x.q →
      (s1.storeBytes x.ctx ((w.getD 2 0).toNat + 0x20) (quads (s1.report (r.take 4)))).1 = .ok s2 →
      Goes s (.keyAttest x.q) fun t => Completes t x w 0 ∧ t.mem = s2.mem)

/-- R337, R345, R449: MAPQ maps a queue as its packet says; UNMAPQ starts to unmap one, whose pending packets all complete; CTXSET
sets a context's root table, ceiling and debug registers; CTXDEL starts to delete one and to unmap its queues. R124, R345,
R346, R359, R364, R465, R467: TLBINV drops the translations of a context that meet the range; RESUME lets the stopped sheaves
of a packet's launches go on, under a new quota when one is given; CANCEL discards the launches of a packet, which completes
with status 2; BALANCE sets the limits of the clusters named. The model's own choices here: log entries 15, 43. -/
def Obligations.ManagementPackets : Prop :=
  (∀ (s : State) (x : Queue) (w : List Word64),
     let b (k : Nat) : Word64 := w.getD (k + 1) 0
     let s0 := s.started x w
     let n := (b 0).toNat % 4096
     (Starts s x 0x10 w → n ≠ 0 → s0.queue n = none → (∃ c, s0.ctx? (fld (b 0) 43 32) = some c ∧ c.deleting = false) →
       s0.ringBad (fld (b 0) 20 16) (b 1).toNat = false → 4 ≤ fld (b 3) 36 32 → fld (b 3) 36 32 ≤ 16 →
       Goes s (.mapq x.q) fun t => Completes t x w 0 ∧ t.queue n = some
         { q := n, ctx := fld (b 0) 43 32, k := fld (b 0) 20 16, ring := (b 1).toNat, cring := b 2, rkey := (b 3).setWidth 32,
           logS := fld (b 3) 36 32, qp := fld (b 4) 23 0, port := ((s.queue 0).elim 0 (·.port)), h := 0, t := 0, recNo := 0,
           running := [], unmapping := false, lock := none, lost := false, dqp := Config.queuePair n }) ∧
     (∀ y, Starts s x 0x11 w → n ≠ 0 → s.queue n = some y → y.unmapping = false → y.h < 2 ^ 20 → y.t < 2 ^ 20 →
       (y.t + 2 ^ 20 - y.h) % 2 ^ 20 ≤ 65536 → Goes s (.unmapq x.q) fun t => RunsOn t x w (.unmap n) ∧
         ∃ y', t.queue n = some y' ∧ y'.unmapping = true ∧ y'.h = y.t ∧ y'.t = y.t) ∧
     (Starts s x 0x12 w → n ≠ 0 → (b 1).toNat % 2 ^ 20 = 0 → (b 1).toNat < 2 ^ 52 → Goes s (.ctxset x.q) fun t => Completes t x w 0 ∧
       (∃ c, t.ctx? n = some c ∧ c.root = (b 1).toNat ∧ c.ceiling = fld (b 2) 3 0 ∧ c.dbg0 = b 3 &&& 0x00FFFFFFFFFFFFF9 ∧
         c.dbg1 = b 4 &&& 0x00FFFFFFFFFFFFF9) ∧ ∀ k, k ≠ n → t.ctx? k = s.ctx? k) ∧
     (∀ y, Starts s x 0x13 w → s.ctx? n = some y → y.deleting = false → Goes s (.ctxdel x.q) fun t =>
       t.ctx? n = some { y with deleting := true } ∧ ∀ z ∈ t.cmd.queues, z.ctx = n → z.q ≠ 0 → z.unmapping = true)) ∧
  (∀ (s : State) (x : Queue) (w : List Word64),
     let b (k : Nat) : Word64 := w.getD (k + 1) 0
     let n := (b 0).toNat % 4096
     let p := fld (b 0) 51 32
     (Starts s x 0x14 w → Goes s (.tlbinv x.q) fun t => Completes t x w 0 ∧ t.mem.dram = s.mem.dram ∧
       ∀ e ∈ t.mem.tlb, e ∈ s.mem.tlb ∧
         ¬(e.ctx = n ∧ (b 2 = 0 ∨ ((b 1).toNat < e.base + e.size ∧ e.base < (b 1).toNat + (b 2).toNat)))) ∧
     (∀ l, Starts s x 0x15 w → l ∈ s.ofPacket n p → s.launch l.lid = some l → Goes s (.resume x.q) fun t => Completes t x w 0 ∧
       (∃ l', t.launch l.lid = some l' ∧ l'.held = false ∧
         l'.r.quota = if fld (b 1) 31 0 = 0 then l.r.quota else fld (b 1) 31 0) ∧
       (∀ h, s.sheaf h.sid = some h → h.lid = l.lid → h.why.resumes = true → t.sheaf h.sid = some { h with why := .evict }) ∧
       t.mem = s.mem) ∧
     (∀ r lid, Starts s x 0x16 w → n ≠ 0 → s.running n p = some r → r.kind = .launch lid → Goes s (.cancel x.q) fun t =>
       Completes t x w 0 ∧ (∀ l ∈ t.launches, ¬(l.queue = n ∧ l.packet = p ∧ l.view = none)) ∧
       ∃ y, t.queue n = some y ∧ ∀ z ∈ y.running, z.n ≠ p) ∧
     (let cl := fld (b 0) 5 0
      let lo := fld (b 0) 12 8
      let hi := fld (b 0) 20 16
      Starts s x 0x17 w → (cl < 48 ∨ cl = 63) → lo ≤ hi → hi ≤ 24 →
       (∀ c, c < 48 → cl = 63 ∨ c = cl → s.floor c ≤ hi ∧ s.admitNeed c + max lo (s.floor c) ≤ 24) → Goes s (.balance x.q) fun t =>
         Completes t x w 0 ∧ ∀ (c : Nat) (y : Bal), c < 48 → s.cores.bal[c]? = some y → t.cores.bal[c]? = some
           (if cl = 63 ∨ c = cl then { y with gmin := lo, gmax := hi, fixed := (b 0).getLsbD 24 } else y)))

/-- R350, R491: GRAPH_NODE_COMPLETE takes one from the counter of a successor, which starts when it reaches zero;
GRAPH_COUNTER_ERROR cancels the nodes of the generation that have not started. -/
def Obligations.GraphEvents : Prop :=
  ∀ (s : State) (g : Graph), s.graph g.ctx g.inst = some g → g.poisoned = false → g.armed.isSome = true →
    (∀ (u v : Nat) (x y : GNode), g.nodes[u]? = some x → x.state = .ended → x.succ = [v] → u ≠ v → g.nodes[v]? = some y →
      let c := (if y.gen = g.g then y.cnt else y.init) - 1
      Goes s (.graphNodeComplete g.ctx g.inst u) fun t => ∃ g' x' y', t.graph g.ctx g.inst = some g' ∧
        g'.nodes[u]? = some x' ∧ x'.state = .done ∧ g'.nodes[v]? = some y' ∧ y'.cnt = c ∧ y'.gen = g.g ∧
        (c ≠ 0 → y'.state = y.state) ∧ (c = 0 → y'.state = .running ∨ y'.state = .ended)) ∧
    ((∃ n ∈ g.nodes, n.state = .running) → Goes s (.graphCounterError g.ctx g.inst) fun t => ∃ g', t.graph g.ctx g.inst = some g' ∧
      g'.poisoned = true ∧ g'.armed = g.armed ∧ ∀ v : Nat, (g'.nodes[v]?).map (·.state) =
        (g.nodes[v]?).map fun n => if n.state = .idle then .cancelled else n.state)

/-- R489, R492, R515 to R521, R478, R457: FALLBACK_TURN performs the launch or signal at the head of a queue that no core serves;
ENGINE_STALL reports the engine, and a failed bank engine stays failed; UNCORRECTABLE_ERROR poisons the register or sector it
falls in; PATROL_SCRUB changes nothing; a test package takes its first core out of placement; after its test the core returns,
repaired where a spare lane serves, or stays out of service. The model's own choices here: log entries 16, 24, 31, 114. -/
def Obligations.RepairEvents : Prop :=
  ∀ (s s1 s2 : State) (x : Queue) (w p : List Word64),
    let b (k : Nat) : Word64 := w.getD (k + 1) 0
    let locked := (State.modQueue { s with cmd := { s.cmd with fallback := x.q } } x.q fun y => { y with lock := some 12 })
    let freed (t : State) := t.modQueue x.q fun y => { y with lock := none }
    let head := fld ((s.packet x x.h).getD 0 0) 7 0
    (s.queue x.q = some x → s.fallbackQueues = [x.q] →
      (head = 1 → ∃ t, exec (.launchPacket x.q) locked = .next t ∧ exec .fallbackTurn s = .next (freed t)) ∧
      (head = 3 → ∃ t, exec (.signalPacket x.q) locked = .next t ∧ exec .fallbackTurn s = .next (freed t))) ∧
    (∀ k die unit, k < 3 → die < 8 → unit < (if k = 0 then 1024 else if k = 1 then 12 else 144) → (die, unit) ∉ s.cores.banks →
      Goes s (.engineStall (k + 2 ^ 8 * die + 2 ^ 16 * unit)) fun t =>
        t.cores.banks = (if k = 0 then s.cores.banks ++ [(die, unit)] else s.cores.banks) ∧ t.warps = s.warps ∧ t.mem = s.mem ∧
        (s.evRoom → Reports s t ⟨0x09, 0, 0, 0, 0, 0, [at_ k 0 ||| at_ die 8 ||| at_ unit 16], []⟩)) ∧
    (∀ (y : Warp) (n : Nat), s.warp y.vw = some y → n < y.v.length → n < 256 →
      Goes s (.uncorrectableError 0 (256 * y.vw + n)) fun t => t.mem = s.mem ∧ ∃ y', t.warp y.vw = some y' ∧
        y'.vget n = { y.vget n with tag := 15 } ∧ ∀ m, m ≠ n → y'.vget m = y.vget m) ∧
    (∀ pa : Nat, s.mem.tagOf pa = 0 → Goes s (.uncorrectableError 5 pa) fun t =>
      (∀ k, k < 32 → psnGet t.mem.psn (pa / 32 * 32 + k) = true) ∧ t.mem.dram = s.mem.dram ∧ t.warps = s.warps) ∧
    exec .patrolScrub s = .next s ∧
    (∀ c r, Starts s x 0x08 w → w.getD 6 0 = 0 → fld (b 2) 7 6 = 0 →
      testBodyOk [b 0, b 1, b 2, b 3, b 4] = true → testCores (b 2) = c :: r →
      (s.started x w).readDws x.ctx (b 0).toNat (((b 1).toNat + 7) / 8) = (.ok p, s1) → s1.queue x.q = (s.started x w).queue x.q →
      packageOk p (b 1).toNat s1.io.start.version = true →
      packageSigned ((p.flatMap fun y => bytesOf 8 y.toNat).take (b 1).toNat) = true →
      s1.resultOk x.ctx (b 3).toNat (c :: r).length = true → s1.testSkips c = false →
      Goes s (.testPackageApply x.q) fun t => c ∈ t.cores.test ∧
        RunsOn t x w (.test 0 (c :: r) ((p.getD 1 0).setWidth 32) (b 3).toNat 0)) ∧
    (∀ c, Starts s x 0x08 w → w.getD 6 0 = 0 → fld (b 2) 7 6 = 1 → testBodyOk [b 0, b 1, b 2, b 3, b 4] = true →
      testCores (b 2) = [c] → s1.queue x.q = (s.started x w).queue x.q →
      (s.started x w).resultOk x.ctx (b 3).toNat 1 = true →
      ((s.started x w).storeBytes x.ctx (b 3).toNat
        (quads (((s.started x w).testRecord c false false false 0).flatMap fun y => bytesOf 8 y.toNat))).1 = .ok s1 →
      Goes s (.testPackageReport x.q) fun t => Completes t x w 0 ∧ t.mem = s1.mem ∧ t.cores = s1.cores) ∧
    (∀ c q n ctx op id result k, s.testAt c = some (q, n, ctx, op, [], id, result, k) → s.on c = [] → s.piecesMove 0 c 1 = true →
      -- whether the test passes, the failing lanes, and whether another unit fails
      let f := (s.movePieces 0 c 1).testFinds
      let lanes := laneRepair (((s.cores.maps.find? (·.1 == c)).map (·.2)).getD 0) f.2.1
      Goes s (.testCore c) fun t => c ∉ t.cores.test ∧ (f.1 = true → t.cores.maps = s.cores.maps ∧ t.cores.out = s.cores.out) ∧
        (f.1 = false → (f.2.2.1 = true ∨ lanes.2 = true → c ∈ t.cores.out) ∧
          (f.2.2.1 = false → lanes.2 = false → f.2.1 ≠ 0 → t.cores.out = s.cores.out) ∧
          (lanes.1 ≠ 0 → t.cores.maps.find? (·.1 == c) = some (c, lanes.1))))

/-- R370 to R378, R381, R391, R437: VIEW_STREAM_CONFIGURE, once the timebase has locked, keeps a valid record for the first frame
that starts 100 µs on, and its packet waits; FRAME_START starts the next frame, with its draws, or lets a record take effect
and its packet complete; GEOMETRY_START forms the next mesh warp of the frame's draws, in draw order; STRIP_LATCH latches the
strip of that number with the earliest latch time that has come, in every view, with the newest gaze accepted before its latch
time; GAZE_PACKET writes the view's gaze record when it passes R375. The model's own choices here: log entries 32, 100. -/
def Obligations.ViewStreams : Prop :=
  ∀ (s s1 : State) (v : Stream), s.stream v.id = some v →
    (∀ (x : Queue) (w : List Word64) (r : VsRec) (num : Word64), s.io.time.everLocked = true → Starts s x 0x06 w →
      (s.started x w).readVs x.ctx (w.getD 1 0).toNat = (.ok r, s1) → (s1.readDw x.ctx (w.getD 1 0).toNat).1 = .ok num →
      streamId x.ctx (fld num 39 32) = v.id → s1.streams = s.streams → s1.io = s.io → s1.queue x.q = (s.started x w).queue x.q →
      Goes s (.viewStreamConfigure x.q) fun t => RunsOn t x w (.config v.id) ∧ ∃ v', t.stream v.id = some v' ∧ v'.cur = v.cur ∧
        v'.frames = v.frames ∧ v'.gaze = v.gaze ∧ v'.pend = v.pend ++ [⟨r, r.firstFrom (now s + 100000), x.q, x.h⟩]) ∧
    (∀ (r : VsRec) (ds : List Draw) (k : Nat), v.cur = some r → v.pend = [] → r.frameAt v.nextF ≤ now s →
      v.counters.all (· == 0) = true → s.readDraws v.ctx r v.nextF = ((ds, k), s1) → s1.streams = s.streams →
      Goes s (.frameStart v.id) fun t => t.stream v.id = some { v.count 7 k with
        frames := v.frames ++ [⟨v.nextF, v.started, v.era, r, none, ds, [], 0, 0, false, 0, 0, 0⟩], nextF := v.nextF + 1,
        started := v.started + 1 }) ∧
    (∀ (p : VsPend) (y : Running), v.cur = none → v.pend = [p] → p.vs.frameAt p.f0 ≤ now s → s.running p.q p.n = some y →
      Goes s (.frameStart v.id) fun t => t.running p.q p.n = none ∧ ∃ v', t.stream v.id = some v' ∧ v'.pend = [] ∧ v'.era = v.era + 1 ∧
        v'.gaze = v.gaze ∧ (v'.cur = if p.vs.stop then none else some p.vs) ∧ (p.vs.stop = false → v'.nextF = p.f0 + 1)) ∧
    (∀ x : FrameSt, v.frames.find? (fun y => !y.dead && !y.launched) = some x → (∀ y ∈ v.frames, y.key = x.key → y = x) →
      (∀ y ∈ v.frames.takeWhile fun y => y.key != x.key, v.geoDone y = true) →
      (∀ d, x.draws[x.nd]? = some d → (x.nm ≠ 0 → (s.launch x.lid).isSome = true) → Goes s (.geometryStart v.id) fun t =>
        (∃ v' y z, t.stream v.id = some v' ∧ (v'.frames.find? fun y => y.key == x.key) = some y ∧
          y.begun = some (x.begun.getD (now s)) ∧
          (y.nd, y.nm) = (if x.nm + 1 < d.mesh.r.nsheaf then (x.nd, x.nm + 1) else (x.nd + 1, 0)) ∧
          v'.warps = v.warps ++ [z] ∧ z.kind = .mesh ∧ z.key = x.key ∧ z.draw = d.idx ∧ z.meshlet = x.nm ∧ z.vtx = [] ∧ z.prims = [] ∧
          ∃ h ∈ t.sheaves, h.sid = z.sid ∧ h.state = .unstarted ∧ h.zone = some (144 * x.vs.die, 144)) ∧
        t.sheaves.length = s.sheaves.length + 1 ∧ t.warps = s.warps ∧ t.mem = s.mem) ∧
      (x.draws = [] → Goes s (.geometryStart v.id) fun t => (∃ v', t.stream v.id = some v' ∧
        (v'.frames.find? fun y => y.key == x.key) = some { x with begun := some (x.begun.getD (now s)) } ∧ v'.warps = v.warps) ∧
        t.sheaves = s.sheaves ∧ t.warps = s.warps ∧ t.mem = s.mem)) ∧
    (∀ (x : FrameSt) (strip : Nat), v.latchFrame strip (now s) = some x → Goes s (.stripLatch v.id strip) fun t =>
        t.mem = s.mem ∧ t.warps = s.warps ∧ x.latched = strip ∧ x.vs.latchAt x.f strip ≤ now s ∧
        (∀ y ∈ v.frames, y.latched = strip → strip < y.vs.nstrip → x.vs.latchAt x.f strip ≤ y.vs.latchAt y.f strip) ∧
        ∃ v', t.stream v.id = some v' ∧
          (let y := StripSt.new x strip
           v'.strips = v.strips ++ [y] ∧ ∀ (k : Nat) (z : View), x.vs.views[k]? = some z →
             ∃ l, v'.latch y k = some l ∧ l.gaze = v.gazeAt x.era k (x.vs.latchAt x.f strip) ∧
               l.h = segments z.tl z.tr (ftan l.gaze.az) x.vs.ecc x.vs.dens x.vs.nx) ∧
          v'.frames = v.frames.map fun y => if y.key = x.key then { y with latched := y.latched + 1 } else y) ∧
    (∀ (r : VsRec) (port k : Nat) (frame : List Byte), s.hears port = true → frame.length = 66 →
      s.serves port (BitVec.ofNat 128 (addrOf (frame.take 16))) = true → let data := frame.drop 16
      v.cur = some r → ofBytes (data.take 2) = r.udp →
      (∀ y ∈ s.streams, ∀ q, y.cur = some q → q.udp = r.udp → y = v) →
      let w := wordsOf 8 (data.drop 18)
      let x (n : Nat) : Word32 := w.getD n 0
      let small (a : Word32) := finite a = true ∧ flt (fabs a) 0x3FC00000 = true
      let g := v.gazeOf k
      v.num < 256 → k < 64 →
      (r.views[k]?).map (·.addr) = some (BitVec.ofNat 128 (addrOf ((data.drop 2).take 16))) →
      x 0 = 0x02015442 → x 1 = BitVec.ofNat 32 (v.num + 256 * k) → x 5 = 0 → x 7 = 0 → x 6 = crc32c ((data.drop 18).take 24) →
      small (x 3) → small (x 4) →
      let fresh := g.empty = true ∨ (x 2 ≠ g.seq ∧ (x 2 - g.seq).getLsbD 31 = false)
      Goes s (.gazePacket port frame) fun t => t.mem = s.mem ∧ t.warps = s.warps ∧
        (fresh → ∃ v', t.stream v.id = some v' ∧ v'.gazeOf k = ⟨v.era, k, x 3, x 4, s.io.time.timebase, x 2, false⟩ ∧
          (∀ j, j ≠ k → v'.gazeOf j = v.gazeOf j) ∧ v'.counters = v.counters) ∧
        (¬fresh → t.stream v.id = some (v.count 3 1)))

/-- R373, R387 to R398, R475, R493, R495, R496: STRIP_RASTER_START begins a strip in a view, or rasterises its next primitive
there into fragment warps; STRIP_KEY_RESET returns its keys and forms the reconstruction warps; LENS_CORRECTION_START computes
one display tile after the other and copies its colour to the history; CHECK_INSTANT substitutes every unfinished one of a
strip that is due; TILE_DEPART hands a finished tile to its port, before the deadline only, which sends it while its link is
up; DRAW_WATCHDOG empties a stream whose draw is late, and reports it. The model's own choices here: log entries 34, 36, 76,
100. -/
def Obligations.StripsAndTiles : Prop :=
  ∀ (s s1 : State) (v : Stream) (y : StripSt), s.stream v.id = some v → y ∈ v.strips →
    (∀ z ∈ v.strips, z.key = y.key → z.s = y.s → z = y) →
    let strip (t : State) (φ : Stream → StripSt → Prop) := ∃ v' y', t.stream v.id = some v' ∧ y' ∈ v'.strips ∧ y'.key = y.key ∧
      y'.s = y.s ∧ φ v' y'
    let turned := s.serve .rasteriser v y.vs
    (∀ (x : FrameSt) (k : Nat) (m : List (Option Word64)), v.nextStrip y.s = some (y, x, k, none) →
      turned.readMap v.ctx y.vs y.s k = (m, s1) → s1.streams = turned.streams →
      Goes s (.stripRasterStart v.id y.s) fun t => t.mem = s1.mem ∧ t.warps = s1.warps ∧ strip t fun v' y' =>
        y' = { y with rast := y.rast.set k (some 0), map := y.map.set k m } ∧ v'.warps = v.warps) ∧
    (∀ (x : FrameSt) (k n : Nat) (ws : List FragWarp) (c : Counts), v.nextStrip y.s = some (y, x, k, some n) →
      turned.rasterise v x y.s k n y.counts = ((ws, c), s1) →
      Goes s (.stripRasterStart v.id y.s) fun t => t.mem = s.mem ∧ t.warps = s.warps ∧ strip t fun v' y' =>
        y' = { y with rast := y.rast.set k (some (n + 1)), cover := (y.cover ++ coverOf ws).eraseDups, counts := c, lids := y'.lids } ∧
        v'.warps.length = v.warps.length + (x.draws.map fun d => (ws.filter (·.draw == d.idx)).length).sum ∧
        ∀ z ∈ v'.warps, z ∈ v.warps ∨ (z.kind = .fragment ∧ z.key = x.key ∧ z.strip = y.s)) ∧
    ((v.strips.find? fun z => z.s == y.s && v.shaded z) = some y →
      Goes s (.stripKeyReset v.id y.s) fun t => t.mem.dram = s.mem.dram ∧ t.warps = s.warps ∧
        (∀ k, k ∈ t.mem.keys ↔ k ∈ s.mem.keys ∧ y.ownsKey v.ctx k = false) ∧ strip t fun v' y' =>
          y' = { y with keysReset := true, lids := [] } ∧
          v'.warps.length = v.warps.length + (if y.vs.recon = none then 0 else (v.peripherals y).length)) ∧
    ((v.strips.find? fun z => z.s == y.s && v.rebuilt z) = some y →
      (v.checkDue (now s) = true → exec (.lensCorrectionStart v.id y.s) s = .next s) ∧
      let copy := ((s.serve .backEnd v y.vs).copyNow y).1
      (v.checkDue (now s) = false → copy = true → Goes s (.lensCorrectionStart v.id y.s) fun t => t.warps = s.warps ∧
        strip t fun v' y' => y' = { y with lensed := true } ∧ (v.cur.any (fun r => r.dims != y.vs.dims) = false →
          ∀ k l, k < y.vs.views.length → v.latch y k = some l →
            ∃ h ∈ v'.hist, h.view = k ∧ h.strip = y.s ∧ h.frame = y.f ∧ h.h = l.h ∧ h.vseg = l.vseg)) ∧
      (v.checkDue (now s) = false → copy = false → Goes s (.lensCorrectionStart v.id y.s) fun t => t.warps = s.warps ∧
        t.mem = s.mem ∧ strip t fun v' y' =>
          let tile := (v.nextTile y).bind fun (k, l, i, j) => y.lensTile k l i j
          y' = { y with lens := y.lens + 1, tiles := if y.checked then y.tiles else y.tiles ++ tile.toList } ∧
          v'.counters = if (v.nextTile y).isSome && tile.isNone then (v.count 9 1).counters else v.counters) ∧
      (copy = true → y.lensed = false) ∧ (y.lensed = false → y.vs.stripTiles ≤ y.lens → copy = true)) ∧
    ((v.strips.find? fun z => z.s == y.s && !z.checked && decide (z.vs.checkAt z.f z.s ≤ now s)) = some y →
      Goes s (.checkInstant v.id y.s) fun t => t.mem.dram = s.mem.dram ∧ t.warps = s.warps ∧ strip t fun _ y' =>
        y'.checked = true ∧ (∀ d ∈ y.tiles, d ∈ y'.tiles) ∧ (∀ d ∈ y'.tiles, d ∈ y.tiles ∨ d.late = true) ∧
        ∀ (k i j : Nat) (z : View), y.vs.views[k]? = some z → (i, j) ∈ y.vs.dispTiles y.s →
          ∃ d ∈ y'.tiles, d.view = k ∧ d.col = i ∧ d.row = j) ∧
    (∀ (d : DTile) (z : View) (k n : Nat),
      (v.departing y.s k n (now s) = [] → exec (.tileDepart v.id y.s k n) s = .next s) ∧
      (v.departing y.s k n (now s) = [(y, d, z)] → now s ≤ y.vs.deadline y.f y.s ∧
        Goes s (.tileDepart v.id y.s k n) fun t =>
          t.io.out = (if s.hears y.vs.port = true
            then s.io.out ++ [.tile y.vs.port (v.packet y z d s.io.time.timebase)] else s.io.out) ∧
          t.mem = s.mem ∧ t.warps = s.warps ∧ strip t fun _ y' => { d with gone := true } ∈ y'.tiles)) ∧
    (∀ f d : Nat, v.late (now s) = some (f, d) → v.pend = [] → s.evLink = true → s.evRoom → Goes s (.drawWatchdog v.id) fun t =>
      t.mem.dram = s.mem.dram ∧ (∀ l ∈ t.launches, l.view ≠ some v.id) ∧
      (∀ v', t.stream v.id = some v' → v'.warps = [] ∧ ∀ x ∈ v'.frames, x.dead = true) ∧
      Reports s t ⟨0x0A, v.ctx, 0, 0, v.num, 0, [at_ (f % 2 ^ 32) 0 ||| at_ d 32, at_ 0x38 0], []⟩)

/-- R425, R496, R499: what a port does: its link goes down and comes back, each reported with the frames dropped; a link down for
a second loses the connections bound to it; a changed drop count is reported once per second; a frame it drops is counted; a
pause of a lossless priority is kept; echo requests to its addresses, and solicitations of them, are answered; nothing reaches
it while its link is down. -/
def Obligations.Ports : Prop :=
  ∀ (s : State) (port : Nat) (p : Port), s.io.ports[port]? = some p →
    let R (i : Instr) (φ : State → Prop) := Goes s i fun t => t.warps = s.warps ∧ t.mem = s.mem ∧ φ t
    let ev (up : Nat) (d : Word32) : Ev := ⟨0x0D, 0, 0, 0, 0, 0, [at_ port 0 ||| at_ up 8, at_ d.toNat 0], []⟩
    (p.up = true → s.evRoom → R (.linkDown port) fun t => Reports s t (ev 0 p.drops) ∧
      t.io.ports[port]? = some { p with up := false, downAt := now s, drops := 0, changed := false }) ∧
    (p.up = false → s.evRoom → R (.linkUp port) fun t => Reports s t (ev 1 0) ∧ t.io.ports[port]? = some { p with up := true }) ∧
    (p.up = false → p.downAt + 1000000000 ≤ now s → Goes s (.linkDownTimeout port) fun t =>
      (∀ x ∈ t.cmd.queues, x.port = port → x.lost = true) ∧ (∀ x ∈ t.cmd.peers, x.port = port → x.lost = true) ∧
      t.cmd.peers.length = s.cmd.peers.length) ∧
    (p.changed = true → p.reported + 1000000000 ≤ now s → s.evRoom → R (.portDropReport port) fun t =>
      Reports s t (ev 1 p.drops) ∧
      t.io.ports[port]? = some { p with drops := 0, changed := false, reported := now s }) ∧
    (p.up = true → R (.droppedFrame port) fun t => t.io.ports[port]? = some { p with drops := p.drops + 1, changed := true } ∧
      t.io.out = s.io.out) ∧
    (p.up = false → ∀ data : List Byte, exec (.droppedFrame port) s = .next s ∧ exec (.icmpv6Echo port data) s = .next s ∧
      exec (.neighbourSolicitation port data) s = .next s) ∧
    (∀ (prio : Nat) (pause : Bool), p.up = true → prio < 8 →
      let c := s.io.start
      let on := c.pfcMask.getLsbD port = true ∧ (prio = c.pfcA.toNat ∨ (c.pfc2 = true ∧ prio = c.pfcB.toNat))
      R (.pfcPause port prio pause) fun t => (¬on → t = s) ∧ (on → ∃ p', t.io.ports[port]? = some p' ∧ ∀ k, k < 8 →
        p'.paused.getLsbD k = if k = prio then pause else p.paused.getLsbD k)) ∧
    (∀ (dst : BitVec 128) (data : List Byte), p.up = true → s.serves port dst = true → data.length ≤ 9170 →
      R (.icmpv6Echo port (netBytes 16 dst.toNat ++ data)) fun t => t.io.out = s.io.out ++ [.icmp port (0x81 :: data)]) ∧
    (∀ (target sender : BitVec 128) (mac : BitVec 48), p.up = true → (p.addr ≠ 0 ∧ target = p.addr ∨ target = p.linkLocal) →
      let data : List Byte := 135 :: netBytes 16 target.toNat ++ netBytes 16 sender.toNat ++ netBytes 6 mac.toNat
      R (.neighbourSolicitation port data) fun t => (port, sender, mac) ∈ t.io.neigh ∧ t.io.out = s.io.out ++
        [.icmp port (136 :: netBytes 16 target.toNat ++ netBytes 16 sender.toNat ++ netBytes 6 (macOf port).toNat)])

/-- R28, R360, R431, R432, R436, R437, R497, R498: a peer's connection is lost, once, and reported; a read or a store of a peer is
performed at its slice and answered; a system phase completes at the coordinator once every device has arrived, or here when
its message comes, while no device of the group is lost; nothing of a peer arrives at a port whose link is down; PTP exchanges
send a Delay_Req, step the timebase before the first lock, eight good ones in a row declare lock, and eight bad ones or four
seconds of silence take it back. The model's own choices here: log entries 18, 23. -/
def Obligations.PeersAndTime : Prop :=
  ∀ (s : State) (k : Nat) (p : Peer), s.cmd.peers[k]? = some p → p.lost = false →
    (s.evRoom → Goes s (.peerLost k) fun t => t.cmd.peers[k]? = some { p with lost := true } ∧ t.mem.dram = s.mem.dram ∧
      Reports s t ⟨0x0F, p.ctx, 0, 0, 0, 0, [at_ p.dev 0 ||| at_ p.ctx 20], []⟩) ∧
    (∀ (m : SysMsg) (data : List Byte) (sid c o : Nat) (pte : Word64) (h : Sheaf), SysMsg.of data = m → m.race = false →
      s.hears p.port = true → sid ≠ 0 →
      s.sysTarget p.ctx m.addr m.bytes = some (.scr sid c o pte) → s.sheaf sid = some h → h.twin = none → h.scr.wf = true →
      (∀ c ∈ s.mem.chaff, c.ctx = p.ctx → c.vw ≠ 2 ^ 48 * (p.dev + 1) + m.vw) →
      let a := c * 2 ^ 20 + o
      let reply (d : List Word64) : Out := .sys p.ctx p.dev ([at_ (0x80 + m.kind) 0, at_ m.vw 0 ||| at_ m.seq.toNat 48] ++ d)
      let psn := (List.range ((m.bytes + 3) / 4)).any fun i => psnGet h.psn (a + 4 * i)
      (m.kind = 0 → Goes s (.sysMessageReceive k data) fun t => t.mem.dram = s.mem.dram ∧ t.warps = s.warps ∧
        t.sheaf sid = some { h with clean := false } ∧
        t.io.out = s.io.out ++ [reply [BitVec.ofNat 64 (ofBytes (h.scr.getN a m.bytes)), at_ (b2n psn) 0]]) ∧
      (m.kind = 1 → m.psn = false → Goes s (.sysMessageReceive k data) fun t => t.mem.dram = s.mem.dram ∧ t.warps = s.warps ∧
        t.io.out = s.io.out ++ [reply []] ∧ (∀ v, v ≠ sid → t.sheaf v = s.sheaf v) ∧ ∃ h', t.sheaf sid = some h' ∧
        h'.scr.getN a m.bytes = bytesOf m.bytes (m.data.getD 0 0).toNat ∧
        ∀ n, n < a ∨ a + m.bytes ≤ n → h'.scr.get n = h.scr.get n)) ∧
    (∀ (data : List Byte) (l : Launch) (x : Group) (sysid : Nat) (phase : Word32) (op : POp) (val : Word64),
      phaseFields data = (sysid, phase, op, val) → s.hears p.port = true → s.groupLost p.ctx sysid = false →
      s.sysGroup p.ctx sysid = some (l, x) → s.launch l.lid = some l →
      l.groups.find? (·.idx == x.idx) = some x → l.ctx = p.ctx → x.sysid = sysid →
      let done (v : Word64) : Group := { x with phase := x.phase + 1, arrived := [], contrib := [], last := v, sent := false }
      (s.coordinator p.ctx sysid = s.io.start.device.toNat → x.sent = true → x.phase = phase →
        let all := s.cmd.sysArr ++ [SysArr.mk p.ctx sysid p.dev phase op val]
        let mine := all.filter fun a => a.ctx == p.ctx && a.sysid == sysid && a.phase == phase
        let v := combine ((mine.filter (·.op != .none)).map fun a => (a.dev, 0, a.op, a.value))
        Goes s (.sysPhaseArrival k data) fun t => t.mem.dram = s.mem.dram ∧ ∃ l', t.launch l.lid = some l' ∧
          l'.groups.find? (·.idx == x.idx) = some (if (mine.map (·.dev)).eraseDups.length < x.ndev then x else done v)) ∧
      (p.dev = s.coordinator p.ctx sysid → x.sent = true → x.phase = phase → Goes s (.sysPhaseCompletion k data) fun t =>
        t.mem.dram = s.mem.dram ∧ ∃ l', t.launch l.lid = some l' ∧ l'.groups.find? (·.idx == x.idx) = some (done val))) ∧
    (s.hears p.port = false → ∀ data : List Byte, exec (.sysMessageReceive k data) s = .next s ∧
      exec (.sysPhaseArrival k data) s = .next s ∧ exec (.sysPhaseCompletion k data) s = .next s) ∧
    (∀ (o : Int) (port : Nat), s.io.start.configured = true → s.ptpPort = some port →
      let c := s.io.time
      (Goes s (.ptpSync o) fun t => .delayReq port s.io.start.domain c.timebase ∈ t.io.out) ∧
      (c.everLocked = false → c.locked = false → o < 0 → -100 < o → c.good < 7 → Goes s (.ptpSync o) fun t =>
        t.io.time.timebase = c.timebase + BitVec.ofNat 64 o.natAbs ∧ t.io.time.half = 0 ∧ t.io.time.good = c.good + 1 ∧
        t.io.time.locked = false) ∧
      (c.everLocked = false → c.locked = false → 0 ≤ o → o < 100 → 7 ≤ c.good → s.evRoom → Goes s (.ptpSync o) fun t =>
        t.io.time.locked = true ∧ t.io.time.everLocked = true ∧ t.io.time.timebase = c.timebase ∧
        Reports s t ⟨0x0E, 0, 0, 0, 0, 0, [1, BitVec.ofInt 64 o], []⟩) ∧
      (100 ≤ o.natAbs → Goes s (.ptpSync o) fun t => t.io.time.good = 0 ∧ t.io.time.locked = c.locked) ∧
      (c.locked = true → c.lastSync + 4000000000 ≤ c.timebase.toNat ∨ 8 ≤ c.bad → s.evRoom → Goes s .ptpLockLoss fun t =>
        t.io.time = { c with locked := false, good := 0, bad := 0 } ∧
        Reports s t ⟨0x0E, 0, 0, 0, 0, 0, [0, BitVec.ofInt 64 c.offset], []⟩))

/-- R428 to R430, R434, R438 to R440, R498, Tables 13.2a, 13.2b: ANNOUNCE sends from every port whose link is up; CONFIG, once per
start, sets identity, ports and queue 0; FWCHUNK stages bytes; FWCOMMIT takes a staged image that passes its checks for the
next start, and leaves the current one in place otherwise; none of these is heard on a port whose link is down; a reset and
the return of power start the package again, with nothing of the last run but the bytes of device memory. The model's own
choices here: log entries 26, 27, 28, 29. -/
def Obligations.StartsAndDatagrams : Prop :=
  ∀ (s : State) (port : Nat) (data : List Byte),
    let l := data.drop 16
    let b := bootBody l
    let old := s.io.start
    let R (i : Instr) (φ : State → Prop) := Goes s i fun t => t.mem.dram = s.mem.dram ∧ φ t
    let gone (t : State) (cold : Bool) := t.warps = [] ∧ t.sheaves = [] ∧ t.launches = [] ∧ t.streams = [] ∧ t.cmd = Cmd.reset ∧
      t.mem =
        { Mem.reset with dram := s.mem.dram, skeys := s.mem.skeys, psn := s.mem.psn, badck := s.mem.badck, owner := s.mem.owner } ∧
      t.io.time = Time.reset ∧ t.io.start = { Start.reset with running := old.mayRun, starts := old.starts + 1, next := old.next, image := old.next } ∧
      (cold = false → t.cores.maps = s.cores.maps ∧ t.cores.out = s.cores.out) ∧
      (cold = true → ∀ (n : Nat) (x : Port), t.io.ports[n]? = some x → x.up = false)
    ((∀ a, old.announced = some a → a + 1000000 ≤ now s) → R .announce fun t =>
      t.io.out.length = s.io.out.length + (s.io.ports.filter (·.up)).length ∧
      t.io.start.announces = old.announces + (s.io.ports.filter (·.up)).length ∧ t.io.start.announced = some (now s)) ∧
    (∀ n, (s.io.ports.filter (·.up)).length = 1 → (s.io.ports[n]?).map (·.up) = some true → old.announced = none →
      R .announce fun t => t.io.out = s.io.out ++ [.datagram n (s.announceData n)]) ∧
    (s.hears port = false → ∀ i ∈ [Instr.config port data, .fwchunk port data, .fwcommit port data, .resetWarm port data,
      .resetCold port data], exec i s = .next s) ∧
    (old.powered = false → R .powerGood (gone · true)) ∧
    R .powerLoss (fun t => t.io.start.powered = false ∧ t.warps = [] ∧ t.launches = [] ∧ t.cmd = Cmd.reset ∧
      t.io.start.next = old.next) ∧
    (s.hears port = true → data.length ≤ 9166 → s.serves port (BitVec.ofNat 128 (addrOf (data.take 16))) = true →
    (old.configured = true ∨ s.bootOk l 1 = false ∨ s.configOk b = false → exec (.config port data) s = .next s) ∧
    (old.configured = false → s.bootOk l 1 = true → s.configOk b = true → R (.config port data) fun t =>
      t.io.start.configured = true ∧ t.io.start.device = BitVec.ofNat 20 (field b 0 8) ∧
      t.io.start.seqMax = some (field l 0x10 8) ∧
      (∀ n : Nat, n < 16 → n < s.io.ports.length →
        (t.io.ports[n]?).map (·.addr) = some (BitVec.ofNat 128 (addrOf ((b.drop (0x20 + 16 * n)).take 16)))) ∧
      ∃ x, t.queue 0 = some x ∧ x.ring = field b 0x138 8 ∧ x.cring = BitVec.ofNat 64 (field b 0x140 8) ∧ x.h = 0 ∧ x.t = 0 ∧
        x.ctx = 0 ∧ x.lost = false ∧ x.port = port) ∧
    (∀ off n, s.bootOk l 2 = true → off = field b 0 4 → n = field b 4 4 → b.length = 8 + (n + 7) / 8 * 8 → 1 ≤ n → n ≤ 8192 →
      off % 64 = 0 → (∀ x ∈ b.drop (8 + n), x = 0) → R (.fwchunk port data) fun t =>
        t.io.start = { old with staged := old.staged.putN off ((b.drop 8).take n), seqMax := some (field l 0x10 8) }) ∧
    (s.bootOk l 3 = true → b.length = 8 → field b 4 4 = 0 → R (.fwcommit port data) fun t =>
      let img := old.staged.getN 0 (field b 0 4)
      t.io.start = { old with seqMax := some (field l 0x10 8),
                              next := match imageVersion img with | some v => some (v, img) | none => old.next }) ∧
    (∀ kind, s.bootOk l 4 = true → b.length = 8 → field b 0 8 = kind →
      (kind = 0 → R (.resetWarm port data) (gone · false) ∧ exec (.resetCold port data) s = .next s) ∧
      (kind = 1 → R (.resetCold port data) (gone · true) ∧ exec (.resetWarm port data) s = .next s)) ∧
    (s.bootOk l 4 = false → exec (.resetWarm port data) s = .next s ∧ exec (.resetCold port data) s = .next s))

/-! ## The whole machine -/

/-- R185 to R198: every well-formed instruction word has an encoding, and decoding it gives the instruction back, with every
operand. -/
def Obligations.WordsRoundTrip : Prop :=
  ∀ i : Instr, i.wf = true → i.isWord = true → ∃ w, encode i = some w ∧ decode i.isPaired w = .ok i

/-- R189, R191, R200, R201: a word that decodes is exactly the encoding of the well-formed instruction that it decodes to: no bit
of it is ignored, and no two words stand for one instruction. -/
def Obligations.WordsHaveOneReading : Prop :=
  ∀ (p : Bool) (w : Word64) (i : Instr), decode p w = .ok i →
    i.wf = true ∧ i.isWord = true ∧ i.isPaired = p ∧ encode i = some w

/-- R200, R256 (Table 7.13), Tables 8.14 and 9.15: words of the manual's own examples decode to their instructions; unassigned
codes, and set unused fields, are refused. -/
def Obligations.ExampleWords : Prop :=
  let g : Guard := ⟨0, false⟩
  decodeTableWord 64 0 = some (.nop g) ∧
  decodeTableWord 64 0x1000430301FFFFFB = some (.sadd g 3 1 (.imm 0xFFFFFB)) ∧
  decodeTableWord 64 0x3200000402030111 = some (.vaddc g .u32 4 2 3 1 1) ∧
  decodeTableWord 64 0x6300000A02040650 = some (.vfma g .f64 10 2 4 6) ∧
  decodeTableWord 64 0x8000000102000402 = some (.vcvt g .i32f32 .rtz 1 2) ∧
  decodeTableWord 64 0x9002000301000024 = some (.vballot ⟨2, false⟩ 3 1 0 4) ∧
  decodeTableWord 64 0xA100200704000820 = some (.st g (.full .b32) .rel .dv (.so 4 8) 7) ∧
  decodeTableWord 64 0xB100380A06030C01 = some (.acas g 0 true .ar .dv (.sv 6 3) 10 12) ∧
  decodeTableWord 64 0xC500000005000701 = some (.phase g 7 .add 5) ∧
  decodeTableWord 64 0xD8000000080C140A = some (.rtrace g 0 true 2 8 12 20) ∧
  decodeTableWord 64 0xE600000506002901 = some (.mcoop g 5 6 2 9 1 false) ∧
  decode false 0xFF00000000000000 = .error 0x01 ∧ decode false 0x0000000000000001 = .error 0x02

/-- R31, R32, R136, R179, R180, R182, R201: the word at the issue address of the warp in its turn is fetched from the line of
device memory that its address translates to, or from the copy in the instruction cache, and decoded in its slot; a step then
is that instruction's meaning, settled. An event of the machine is its meaning, when the package answers it (power, and an
image that may run), and time passes as it says (R20, R21): `CLOCK` at 940 MHz, the timebase in nanoseconds. The model's own
choices here: log entries 9, 64, 103. -/
def Obligations.StepRunsDecoded : Prop :=
  let Fetches (s : State) (w : Warp) (i : Instr) (s1 : State) := s.warp w.vw = some w ∧ w.slot = .turn ∧ s.mayRun w = true ∧
    w.clause.inside = true ∧ s.holds w = false ∧ w.spr.tvec.getLsbD 1 = false ∧ dbgMatch w.dbg w.issueAddr = 0 ∧
    ∃ word, s.fetch w w.issueAddr = (.ok word, s1) ∧ decodeSlot w.clause word = .ok i
  (∀ (s s1 : State) (w : Warp) (i : Instr), s.agenda = [] → s.focus = some w.vw → Fetches s w i s1 → step s = settled (exec i s1)) ∧
  (∀ (s s1 : State) (w : Warp) (i : Instr) (r : List Agenda), s.agenda = .word w.vw :: r →
    Fetches { s with agenda := r, focus := some w.vw } w i s1 → step s = settled (exec i s1)) ∧
  (∀ (s : State) (i : Instr) (r : List Agenda), s.agenda = .event i :: r →
    step s = settled (if s.answers i = true then exec i { s with agenda := r } else .next { s with agenda := r })) ∧
  (∀ (s : State) (n : Nat) (r : List Agenda), s.agenda = .elapse n :: r →
    step s = settled (.next (State.elapse { s with agenda := r } n)) ∧
    (State.elapse s n).cores.clock = s.cores.clock.map (· + BitVec.ofNat 64 ((s.cores.cfrac + 940 * n) / 1000)) ∧
    (s.io.time.half = 0 → s.io.time.rate = 0 → s.io.time.frac = 0 →
      (State.elapse s n).io.time.timebase = s.io.time.timebase + BitVec.ofNat 64 n)) ∧
  (∀ (s : State) (w : Warp) (a pa : Nat) (pte : Word64), s.translate w.who a 8 Need.fetch = (.ok (.dram pa pte), s) →
    (∀ k, k < 2 → (s.mem.read (s.via w.ident.ctx pte) (pa / 128 * 128 + 4 * (a % 128 / 4 + k)) 4).2 = false) →
    s.mem.iline (s.coreOf w) w.ident.ctx a = none → a % 8 = 0 → ∃ t, s.fetch w a = (.ok (BitVec.ofNat 64 (ofBytes
      (((s.mem.read (s.via w.ident.ctx pte) (pa / 128 * 128) 128).1.drop (a % 128)).take 8))), t)) ∧
  (∀ (c : Clause) (word : Word64), c.hdr.pair.getLsbD c.slot = false → (classAdmits c.hdr.cls word = false ∨
    (lastSlotOnly word = true ∧ c.slot ≠ c.hdr.count)) → decodeSlot c word = .error 0x01)

/-- R32, R54, R181, R197, Table 6.1: the header at the issue address of a warp between clauses: one that breaks R181 is stopped
with its code; a warp that waits for a counter gives up its turn; otherwise the executing lanes stand at the clause's first
word. The model's own choices here: log entry 9. -/
def Obligations.ClauseHeaders : Prop :=
  (∀ w : Word64, (Header.ofWord w).check =
    if 5 ≤ fld w 63 61 then some 0x01
    else if fld w 31 0 ≠ 0 ∨ 2 ≤ fld w 34 32 ∨ 2 ^ (fld w 60 57 + 1) ≤ fld w 56 41 ∨ (fld w 56 41 ≠ 0 ∧ fld w 63 61 ≠ 0) then some 0x02
    else none) ∧
  ∀ (s s1 : State) (w : Warp) (word : Word64), s.warp w.vw = some w → w.slot = .turn → s.mayRun w = true → s.agenda = [] →
    s.focus = some w.vw → w.clause.inside = false → w.running ≠ 0 → w.turnWords < 4096 → w.mids = [] → w.waits.page = none → s.pairWait w = false →
    dbgMatch (s.dbgOf w.ident.ctx) w.issueAddr = 0 → w.spr.tvec.getLsbD 1 = false → s.fetch w w.issueAddr = (.ok word, s1) →
    s1.warp w.vw = some w → s1.focus = some w.vw →
    let h := Header.ofWord word
    (∀ c, h.check = some c → step s = settled (.next (s1.takeTrap w (w.here c) word))) ∧
    (h.check = none → (∃ k : Nat, ∃ lt : k < 6, h.wait.getLsbD k = true ∧ w.dc[k] ≠ 0) → ∃ t w', step s = settled (.next t) ∧
      t.warp w.vw = some w' ∧ w'.slot = .waiting ∧ w'.waits.mask = h.wait ∧ w'.vpc = w.vpc ∧ t.focus = none) ∧
    (h.check = none → (∀ (k : Nat) (lt : k < 6), h.wait.getLsbD k = true → w.dc[k] = 0) → (∀ x ∈ w.wins, x.done = true) →
      ∃ t w', step s = settled (.next t) ∧ t.warp w.vw = some w' ∧ w'.clause = ⟨true, w.issueAddr, 0, h, false⟩ ∧ w'.slot = .turn ∧
        (∀ l, l < 32 → has w.exec l = true → w'.pcOf l = BitVec.ofNat 64 (w.issueAddr + 8)) ∧
        (∀ l, l < 32 → has w.exec l = false → w'.pcOf l = w.pcOf l) ∧ (∀ n, w'.vget n = w.vget n) ∧ (∀ n, w'.sget n = w.sget n))

/-- Nothing is refused, no event of the machine stops it, and a word stops only where no warp is in its turn inside a clause,
which is the model's own convention (INVENTORY.md, Faults). The model's own choices here: log entry 71. -/
def Obligations.NothingStops : Prop :=
  (∀ (i : Instr) (s : State) (r : Refusal), exec i s ≠ .refused r) ∧
  (∀ (i : Instr) (s : State), i.isWord = false → ∃ t, exec i s = .next t) ∧
  (∀ (i : Instr) (s : State), i.isWord = true → s.issuer = none → exec i s = .fault .noIssuingWarp) ∧
  (∀ (i : Instr) (s : State) (w : Warp), i.isWord = true → s.issuer = some w → ∃ t, exec i s = .next t) ∧
  (∀ (s : State) (r : Refusal), step s ≠ .refused r)

/-- Every step keeps device memory, and every scratchpad with its checkpoint images, in the canonical form (R38, R102 to R105; the
form is the model's own, log entry 2). -/
def Obligations.MemoryStaysCanonical : Prop :=
  ∀ s t : State, s.dramOk → s.scratchOk → step s = .next t → t.dramOk ∧ t.scratchOk

/-- R26, R364, R437 to R440, Table 10.14, Table 13.6: after reset the package has power and no queue, context, peer, launch or
stream; no key slot holds a key; no CONFIG has been accepted and the timebase has not locked; every core is in the compute
partition, with the limits at their reset values; and memory stands in its canonical form. The model's own choices here: log
entries 1, 5. The model's own choices here: log entry 1. -/
def Obligations.ResetState : Prop :=
  let s := State.reset
  s.io.start.powered = true ∧ s.io.start.configured = false ∧ s.io.start.device = 0 ∧ s.io.time.locked = false ∧
  s.io.time.everLocked = false ∧ s.cmd.queues = [] ∧ s.cmd.ctxs = [] ∧ s.cmd.peers = [] ∧ s.streams = [] ∧ s.launches = [] ∧
  s.sheaves = [] ∧ s.warps = [] ∧ s.mem.chaff = [] ∧ (∀ ctx slot, s.mem.slotKey ctx slot = none) ∧
  (∀ c, c < 48 → s.cores.bal[c]? = some { g := 0, gmin := 0, gmax := 24, fixed := false }) ∧ s.dramOk ∧ s.scratchOk
end

