-- ==== Sys2Proof/Laws/Dispatch.lean ====
section
/-! SUPPORT. The meaning of each constructor, by definition. -/

namespace Sys2Proof.Machine

theorem exec_nop {g} {s : State} : exec (.nop g) s = execNop g s := rfl
theorem exec_bra {g} {disp} {s : State} : exec (.bra g disp) s = execBra g disp s := rfl
theorem exec_brx {g} {a} {s : State} : exec (.brx g a) s = execBrx g a s := rfl
theorem exec_call {g} {d} {disp} {s : State} : exec (.call g d disp) s = execCall g d disp s := rfl
theorem exec_ret {g} {a} {s : State} : exec (.ret g a) s = execRet g a s := rfl
theorem exec_exit {g} {s : State} : exec (.exit g) s = execExit g s := rfl
theorem exec_wait {g} {m} {s : State} : exec (.wait g m) s = execWait g m s := rfl
theorem exec_yield {g} {s : State} : exec (.yield g) s = execYield g s := rfl
theorem exec_sleep {g} {a} {s : State} : exec (.sleep g a) s = execSleep g a s := rfl
theorem exec_brk {g} {code} {s : State} : exec (.brk g code) s = execBrk g code s := rfl
theorem exec_ipref {g} {l1} {a} {b} {s : State} : exec (.ipref g l1 a b) s = execIpref g l1 a b s := rfl
theorem exec_ipin {g} {l1} {a} {b} {s : State} : exec (.ipin g l1 a b) s = execIpin g l1 a b s := rfl
theorem exec_iunpin {g} {l1} {a} {b} {s : State} : exec (.iunpin g l1 a b) s = execIunpin g l1 a b s := rfl
theorem exec_sadd {g} {d} {a} {b} {s : State} : exec (.sadd g d a b) s = execSadd g d a b s := rfl
theorem exec_ssub {g} {d} {a} {b} {s : State} : exec (.ssub g d a b) s = execSsub g d a b s := rfl
theorem exec_smul {g} {d} {a} {b} {s : State} : exec (.smul g d a b) s = execSmul g d a b s := rfl
theorem exec_smulh {g} {u} {d} {a} {b} {s : State} : exec (.smulh g u d a b) s = execSmulh g u d a b s := rfl
theorem exec_sand {g} {d} {a} {b} {s : State} : exec (.sand g d a b) s = execSand g d a b s := rfl
theorem exec_sor {g} {d} {a} {b} {s : State} : exec (.sor g d a b) s = execSor g d a b s := rfl
theorem exec_sxor {g} {d} {a} {b} {s : State} : exec (.sxor g d a b) s = execSxor g d a b s := rfl
theorem exec_sshl {g} {d} {a} {b} {s : State} : exec (.sshl g d a b) s = execSshl g d a b s := rfl
theorem exec_sshr {g} {d} {a} {b} {s : State} : exec (.sshr g d a b) s = execSshr g d a b s := rfl
theorem exec_ssra {g} {d} {a} {b} {s : State} : exec (.ssra g d a b) s = execSsra g d a b s := rfl
theorem exec_smov {g} {d} {a} {s : State} : exec (.smov g d a) s = execSmov g d a s := rfl
theorem exec_smovi {g} {d} {imm} {s : State} : exec (.smovi g d imm) s = execSmovi g d imm s := rfl
theorem exec_smoviMid {g} {d} {imm} {s : State} : exec (.smoviMid g d imm) s = execSmoviMid g d imm s := rfl
theorem exec_smoviHi {g} {d} {imm} {s : State} : exec (.smoviHi g d imm) s = execSmoviHi g d imm s := rfl
theorem exec_scmp {g} {cc} {d} {a} {b} {s : State} : exec (.scmp g cc d a b) s = execScmp g cc d a b s := rfl
theorem exec_ssel {g} {d} {a} {b} {c} {s : State} : exec (.ssel g d a b c) s = execSsel g d a b c s := rfl
theorem exec_sclz {g} {d} {a} {s : State} : exec (.sclz g d a) s = execSclz g d a s := rfl
theorem exec_spopc {g} {d} {a} {s : State} : exec (.spopc g d a) s = execSpopc g d a s := rfl
theorem exec_vadd {g} {t} {pk} {d} {a} {b} {s : State} : exec (.vadd g t pk d a b) s = execVadd g t pk d a b s := rfl
theorem exec_vsub {g} {t} {pk} {d} {a} {b} {s : State} : exec (.vsub g t pk d a b) s = execVsub g t pk d a b s := rfl
theorem exec_vaddc {g} {t} {d} {a} {b} {ci} {co} {s : State} : exec (.vaddc g t d a b ci co) s = execVaddc g t d a b ci co s := rfl
theorem exec_vsubb {g} {t} {d} {a} {b} {ci} {co} {s : State} : exec (.vsubb g t d a b ci co) s = execVsubb g t d a b ci co s := rfl
theorem exec_vadds {g} {t} {pk} {d} {a} {b} {s : State} : exec (.vadds g t pk d a b) s = execVadds g t pk d a b s := rfl
theorem exec_vsubs {g} {t} {pk} {d} {a} {b} {s : State} : exec (.vsubs g t pk d a b) s = execVsubs g t pk d a b s := rfl
theorem exec_vmul {g} {t} {pk} {d} {a} {b} {s : State} : exec (.vmul g t pk d a b) s = execVmul g t pk d a b s := rfl
theorem exec_vmulh {g} {t} {d} {a} {b} {s : State} : exec (.vmulh g t d a b) s = execVmulh g t d a b s := rfl
theorem exec_vmad {g} {t} {d} {a} {b} {c} {s : State} : exec (.vmad g t d a b c) s = execVmad g t d a b c s := rfl
theorem exec_vmin {g} {t} {pk} {d} {a} {b} {s : State} : exec (.vmin g t pk d a b) s = execVmin g t pk d a b s := rfl
theorem exec_vmax {g} {t} {pk} {d} {a} {b} {s : State} : exec (.vmax g t pk d a b) s = execVmax g t pk d a b s := rfl
theorem exec_vabs {g} {pk} {d} {a} {s : State} : exec (.vabs g pk d a) s = execVabs g pk d a s := rfl
theorem exec_vneg {g} {pk} {d} {a} {s : State} : exec (.vneg g pk d a) s = execVneg g pk d a s := rfl
theorem exec_vand {g} {d} {a} {b} {s : State} : exec (.vand g d a b) s = execVand g d a b s := rfl
theorem exec_vor {g} {d} {a} {b} {s : State} : exec (.vor g d a b) s = execVor g d a b s := rfl
theorem exec_vxor {g} {d} {a} {b} {s : State} : exec (.vxor g d a b) s = execVxor g d a b s := rfl
theorem exec_vnot {g} {d} {a} {s : State} : exec (.vnot g d a) s = execVnot g d a s := rfl
theorem exec_vshl {g} {d} {a} {b} {s : State} : exec (.vshl g d a b) s = execVshl g d a b s := rfl
theorem exec_vshr {g} {d} {a} {b} {s : State} : exec (.vshr g d a b) s = execVshr g d a b s := rfl
theorem exec_vsra {g} {d} {a} {b} {s : State} : exec (.vsra g d a b) s = execVsra g d a b s := rfl
theorem exec_vrot {g} {d} {a} {b} {s : State} : exec (.vrot g d a b) s = execVrot g d a b s := rfl
theorem exec_vfunl {g} {d} {a} {b} {c} {s : State} : exec (.vfunl g d a b c) s = execVfunl g d a b c s := rfl
theorem exec_vcmp {g} {cc} {t} {d} {a} {b} {s : State} : exec (.vcmp g cc t d a b) s = execVcmp g cc t d a b s := rfl
theorem exec_vsel {g} {d} {a} {b} {c} {s : State} : exec (.vsel g d a b c) s = execVsel g d a b c s := rfl
theorem exec_vmov {g} {wide} {d} {a} {s : State} : exec (.vmov g wide d a) s = execVmov g wide d a s := rfl
theorem exec_vmovi {g} {t} {d} {imm} {s : State} : exec (.vmovi g t d imm) s = execVmovi g t d imm s := rfl
theorem exec_vmoviHi {g} {t} {d} {imm} {s : State} : exec (.vmoviHi g t d imm) s = execVmoviHi g t d imm s := rfl
theorem exec_vmoviLo {g} {t} {d} {imm} {s : State} : exec (.vmoviLo g t d imm) s = execVmoviLo g t d imm s := rfl
theorem exec_vdot4 {g} {d} {a} {b} {c} {s : State} : exec (.vdot4 g d a b c) s = execVdot4 g d a b c s := rfl
theorem exec_vclz {g} {d} {a} {s : State} : exec (.vclz g d a) s = execVclz g d a s := rfl
theorem exec_vpopc {g} {d} {a} {s : State} : exec (.vpopc g d a) s = execVpopc g d a s := rfl
theorem exec_vbrev {g} {d} {a} {s : State} : exec (.vbrev g d a) s = execVbrev g d a s := rfl
theorem exec_vbfe {g} {sgn} {d} {a} {b} {s : State} : exec (.vbfe g sgn d a b) s = execVbfe g sgn d a b s := rfl
theorem exec_vbfi {g} {d} {a} {b} {c} {s : State} : exec (.vbfi g d a b c) s = execVbfi g d a b c s := rfl
theorem exec_vbitil {g} {w3} {d} {a} {b} {c} {s : State} : exec (.vbitil g w3 d a b c) s = execVbitil g w3 d a b c s := rfl
theorem exec_vbitdl {g} {w3} {d} {a} {k} {s : State} : exec (.vbitdl g w3 d a k) s = execVbitdl g w3 d a k s := rfl
theorem exec_vfadd {g} {t} {d} {a} {b} {s : State} : exec (.vfadd g t d a b) s = execVfadd g t d a b s := rfl
theorem exec_vfsub {g} {t} {d} {a} {b} {s : State} : exec (.vfsub g t d a b) s = execVfsub g t d a b s := rfl
theorem exec_vfmul {g} {t} {d} {a} {b} {s : State} : exec (.vfmul g t d a b) s = execVfmul g t d a b s := rfl
theorem exec_vfma {g} {t} {d} {a} {b} {c} {s : State} : exec (.vfma g t d a b c) s = execVfma g t d a b c s := rfl
theorem exec_vfmin {g} {t} {d} {a} {b} {s : State} : exec (.vfmin g t d a b) s = execVfmin g t d a b s := rfl
theorem exec_vfmax {g} {t} {d} {a} {b} {s : State} : exec (.vfmax g t d a b) s = execVfmax g t d a b s := rfl
theorem exec_vfcmp {g} {cc} {dbl} {d} {a} {b} {s : State} : exec (.vfcmp g cc dbl d a b) s = execVfcmp g cc dbl d a b s := rfl
theorem exec_vfclass {g} {dbl} {d} {a} {s : State} : exec (.vfclass g dbl d a) s = execVfclass g dbl d a s := rfl
theorem exec_vfrnd {g} {dbl} {m} {x} {d} {a} {s : State} : exec (.vfrnd g dbl m x d a) s = execVfrnd g dbl m x d a s := rfl
theorem exec_vfscale {g} {dbl} {d} {a} {b} {s : State} : exec (.vfscale g dbl d a b) s = execVfscale g dbl d a b s := rfl
theorem exec_vffrac {g} {dbl} {d} {a} {s : State} : exec (.vffrac g dbl d a) s = execVffrac g dbl d a s := rfl
theorem exec_vfdivs {g} {la} {dbl} {d} {a} {b} {s : State} : exec (.vfdivs g la dbl d a b) s = execVfdivs g la dbl d a b s := rfl
theorem exec_vfsqrts {g} {la} {dbl} {d} {a} {s : State} : exec (.vfsqrts g la dbl d a) s = execVfsqrts g la dbl d a s := rfl
theorem exec_vfrcp {g} {la} {d} {a} {s : State} : exec (.vfrcp g la d a) s = execVfrcp g la d a s := rfl
theorem exec_vfrsq {g} {la} {d} {a} {s : State} : exec (.vfrsq g la d a) s = execVfrsq g la d a s := rfl
theorem exec_vfexp2 {g} {la} {d} {a} {s : State} : exec (.vfexp2 g la d a) s = execVfexp2 g la d a s := rfl
theorem exec_vflog2 {g} {la} {d} {a} {s : State} : exec (.vflog2 g la d a) s = execVflog2 g la d a s := rfl
theorem exec_vfsinp {g} {la} {d} {a} {s : State} : exec (.vfsinp g la d a) s = execVfsinp g la d a s := rfl
theorem exec_vfcosp {g} {la} {d} {a} {s : State} : exec (.vfcosp g la d a) s = execVfcosp g la d a s := rfl
theorem exec_vsmupd {g} {la} {d} {a} {b} {s : State} : exec (.vsmupd g la d a b) s = execVsmupd g la d a b s := rfl
theorem exec_vsmfin {g} {la} {d} {a} {s : State} : exec (.vsmfin g la d a) s = execVsmfin g la d a s := rfl
theorem exec_vcvt {g} {cv} {m} {d} {a} {s : State} : exec (.vcvt g cv m d a) s = execVcvt g cv m d a s := rfl
theorem exec_vpack {g} {f} {m} {d} {a} {s : State} : exec (.vpack g f m d a) s = execVpack g f m d a s := rfl
theorem exec_vunpack {g} {f} {d} {a} {s : State} : exec (.vunpack g f d a) s = execVunpack g f d a s := rfl
theorem exec_vbxq {g} {f} {blk} {d} {e} {a} {s : State} : exec (.vbxq g f blk d e a) s = execVbxq g f blk d e a s := rfl
theorem exec_vbxd {g} {f} {blk} {d} {a} {e} {s : State} : exec (.vbxd g f blk d a e) s = execVbxd g f blk d a e s := rfl
theorem exec_vplane {g} {f} {d} {a} {s : State} : exec (.vplane g f d a) s = execVplane g f d a s := rfl
theorem exec_vunplane {g} {f} {d} {a} {s : State} : exec (.vunplane g f d a) s = execVunplane g f d a s := rfl
theorem exec_vtag {g} {d} {a} {tag} {s : State} : exec (.vtag g d a tag) s = execVtag g d a tag s := rfl
theorem exec_vballot {g} {d} {a} {bit} {q} {s : State} : exec (.vballot g d a bit q) s = execVballot g d a bit q s := rfl
theorem exec_vvote {g} {md} {d} {pm} {ps} {q} {s : State} : exec (.vvote g md d pm ps q) s = execVvote g md d pm ps q s := rfl
theorem exec_vshfl {g} {md} {d} {a} {b} {q} {s : State} : exec (.vshfl g md d a b q) s = execVshfl g md d a b q s := rfl
theorem exec_vshflp {g} {d} {a} {b} {pc} {s : State} : exec (.vshflp g d a b pc) s = execVshflp g d a b pc s := rfl
theorem exec_vbcast {g} {d} {src} {s : State} : exec (.vbcast g d src) s = execVbcast g d src s := rfl
theorem exec_vreduce {g} {op} {d} {a} {pm} {q} {s : State} : exec (.vreduce g op d a pm q) s = execVreduce g op d a pm q s := rfl
theorem exec_vscan {g} {op} {ex} {d} {a} {pm} {q} {s : State} : exec (.vscan g op ex d a pm q) s = execVscan g op ex d a pm q s := rfl
theorem exec_vmatch {g} {d} {a} {pm} {q} {s : State} : exec (.vmatch g d a pm q) s = execVmatch g d a pm q s := rfl
theorem exec_pand {g} {d} {a} {b} {s : State} : exec (.pand g d a b) s = execPand g d a b s := rfl
theorem exec_por {g} {d} {a} {b} {s : State} : exec (.por g d a b) s = execPor g d a b s := rfl
theorem exec_pxor {g} {d} {a} {b} {s : State} : exec (.pxor g d a b) s = execPxor g d a b s := rfl
theorem exec_pnot {g} {d} {a} {s : State} : exec (.pnot g d a) s = execPnot g d a s := rfl
theorem exec_pmov {g} {d} {a} {s : State} : exec (.pmov g d a) s = execPmov g d a s := rfl
theorem exec_pmovTov {g} {d} {a} {s : State} : exec (.pmovTov g d a) s = execPmovTov g d a s := rfl
theorem exec_pmovFrv {g} {d} {a} {s : State} : exec (.pmovFrv g d a) s = execPmovFrv g d a s := rfl
theorem exec_pmovTos {g} {d} {a} {s : State} : exec (.pmovTos g d a) s = execPmovTos g d a s := rfl
theorem exec_pset {g} {d} {a} {s : State} : exec (.pset g d a) s = execPset g d a s := rfl
theorem exec_psetRng {g} {d} {lo} {hi} {s : State} : exec (.psetRng g d lo hi) s = execPsetRng g d lo hi s := rfl
theorem exec_psetAnd {g} {d} {m} {k} {s : State} : exec (.psetAnd g d m k) s = execPsetAnd g d m k s := rfl
theorem exec_pcount {g} {d} {a} {s : State} : exec (.pcount g d a) s = execPcount g d a s := rfl
theorem exec_pfirst {g} {d} {a} {s : State} : exec (.pfirst g d a) s = execPfirst g d a s := rfl
theorem exec_pairedWord {hi} {lo} {s : State} : exec (.pairedWord hi lo) s = execPairedWord hi lo s := rfl
theorem exec_ld {g} {la} {w} {o} {sc} {m} {d} {s : State} : exec (.ld g la w o sc m d) s = execLd g la w o sc m d s := rfl
theorem exec_st {g} {w} {o} {sc} {m} {d} {s : State} : exec (.st g w o sc m d) s = execSt g w o sc m d s := rfl
theorem exec_lds {g} {la} {w} {o} {sc} {m} {d} {s : State} : exec (.lds g la w o sc m d) s = execLds g la w o sc m d s := rfl
theorem exec_sts {g} {w} {o} {sc} {m} {d} {s : State} : exec (.sts g w o sc m d) s = execSts g w o sc m d s := rfl
theorem exec_ldc {g} {la} {wide} {acq} {sc} {a} {off} {d} {s : State} : exec (.ldc g la wide acq sc a off d) s = execLdc g la wide acq sc a off d s := rfl
theorem exec_ldp {g} {la} {f} {v} {m} {d} {s : State} : exec (.ldp g la f v m d) s = execLdp g la f v m d s := rfl
theorem exec_ldt {g} {la} {tag} {m} {d} {s : State} : exec (.ldt g la tag m d) s = execLdt g la tag m d s := rfl
theorem exec_pref {g} {l2} {m} {s : State} : exec (.pref g l2 m) s = execPref g l2 m s := rfl
theorem exec_cwb {g} {m} {s : State} : exec (.cwb g m) s = execCwb g m s := rfl
theorem exec_cinv {g} {m} {s : State} : exec (.cinv g m) s = execCinv g m s := rfl
theorem exec_atom {g} {la} {op} {wide} {o} {sc} {m} {d} {b} {s : State} : exec (.atom g la op wide o sc m d b) s = execAtom g la op wide o sc m d b s := rfl
theorem exec_acas {g} {la} {wide} {o} {sc} {m} {d} {b} {s : State} : exec (.acas g la wide o sc m d b) s = execAcas g la wide o sc m d b s := rfl
theorem exec_red {g} {op} {wide} {o} {sc} {m} {b} {s : State} : exec (.red g op wide o sc m b) s = execRed g op wide o sc m b s := rfl
theorem exec_vbmin {g} {o} {sc} {m} {b} {s : State} : exec (.vbmin g o sc m b) s = execVbmin g o sc m b s := rfl
theorem exec_fence {g} {o} {sc} {s : State} : exec (.fence g o sc) s = execFence g o sc s := rfl
theorem exec_bfence {g} {s : State} : exec (.bfence g) s = execBfence g s := rfl
theorem exec_tbegin {g} {d} {s : State} : exec (.tbegin g d) s = execTbegin g d s := rfl
theorem exec_tend {g} {s : State} : exec (.tend g) s = execTend g s := rfl
theorem exec_tabort {g} {code} {s : State} : exec (.tabort g code) s = execTabort g code s := rfl
theorem exec_ttest {g} {d} {s : State} : exec (.ttest g d) s = execTtest g d s := rfl
theorem exec_osenter {g} {cl} {a} {b} {s : State} : exec (.osenter g cl a b) s = execOsenter g cl a b s := rfl
theorem exec_osleave {g} {cl} {a} {s : State} : exec (.osleave g cl a) s = execOsleave g cl a s := rfl
theorem exec_osreset {g} {cl} {a} {b} {s : State} : exec (.osreset g cl a b) s = execOsreset g cl a b s := rfl
theorem exec_osquery {g} {la} {cl} {d} {a} {s : State} : exec (.osquery g la cl d a) s = execOsquery g la cl d a s := rfl
theorem exec_bar {g} {b} {s : State} : exec (.bar g b) s = execBar g b s := rfl
theorem exec_phase {g} {grp} {op} {a} {s : State} : exec (.phase g grp op a) s = execPhase g grp op a s := rfl
theorem exec_grpq {g} {la} {q} {d} {grp} {s : State} : exec (.grpq g la q d grp) s = execGrpq g la q d grp s := rfl
theorem exec_mbinit {g} {a} {off} {d} {s : State} : exec (.mbinit g a off d) s = execMbinit g a off d s := rfl
theorem exec_mbexp {g} {a} {off} {d} {s : State} : exec (.mbexp g a off d) s = execMbexp g a off d s := rfl
theorem exec_mbarr {g} {sc} {a} {off} {s : State} : exec (.mbarr g sc a off) s = execMbarr g sc a off s := rfl
theorem exec_mbwait {g} {sc} {d} {a} {off} {s : State} : exec (.mbwait g sc d a off) s = execMbwait g sc d a off s := rfl
theorem exec_mbwaitCur {g} {sc} {d} {a} {off} {s : State} : exec (.mbwaitCur g sc d a off) s = execMbwaitCur g sc d a off s := rfl
theorem exec_mbtest {g} {sc} {d} {a} {off} {s : State} : exec (.mbtest g sc d a off) s = execMbtest g sc d a off s := rfl
theorem exec_mbtestSnap {g} {d} {a} {off} {s : State} : exec (.mbtestSnap g d a off) s = execMbtestSnap g d a off s := rfl
theorem exec_mcfgTy {g} {ta} {tb} {s : State} : exec (.mcfgTy g ta tb) s = execMcfgTy g ta tb s := rfl
theorem exec_mcfgA {g} {a} {b} {s : State} : exec (.mcfgA g a b) s = execMcfgA g a b s := rfl
theorem exec_mcfgB {g} {a} {b} {s : State} : exec (.mcfgB g a b) s = execMcfgB g a b s := rfl
theorem exec_mcfgAx {g} {a} {b} {s : State} : exec (.mcfgAx g a b) s = execMcfgAx g a b s := rfl
theorem exec_mcfgBx {g} {a} {b} {s : State} : exec (.mcfgBx g a b) s = execMcfgBx g a b s := rfl
theorem exec_mcfgK {g} {a} {s : State} : exec (.mcfgK g a) s = execMcfgK g a s := rfl
theorem exec_mloop {g} {acc} {n} {noinc} {s : State} : exec (.mloop g acc n noinc) s = execMloop g acc n noinc s := rfl
theorem exec_mzero {g} {t} {acc} {s : State} : exec (.mzero g t acc) s = execMzero g t acc s := rfl
theorem exec_mmova {g} {la} {f} {d} {acc} {r} {s : State} : exec (.mmova g la f d acc r) s = execMmova g la f d acc r s := rfl
theorem exec_mmovv {g} {f} {acc} {a} {r} {s : State} : exec (.mmovv g f acc a r) s = execMmovv g f acc a r s := rfl
theorem exec_msta {g} {t} {a} {b} {acc} {s : State} : exec (.msta g t a b acc) s = execMsta g t a b acc s := rfl
theorem exec_mcoop {g} {acc} {a} {ti} {tj} {id} {noinc} {s : State} : exec (.mcoop g acc a ti tj id noinc) s = execMcoop g acc a ti tj id noinc s := rfl
theorem exec_mfree {g} {acc} {s : State} : exec (.mfree g acc) s = execMfree g acc s := rfl
theorem exec_ckick {g} {dc} {a} {s : State} : exec (.ckick g dc a) s = execCkick g dc a s := rfl
theorem exec_enq {g} {a} {b} {s : State} : exec (.enq g a b) s = execEnq g a b s := rfl
theorem exec_deq {g} {la} {d} {a} {s : State} : exec (.deq g la d a) s = execDeq g la d a s := rfl
theorem exec_qtry {g} {la} {d} {a} {q} {s : State} : exec (.qtry g la d a q) s = execQtry g la d a q s := rfl
theorem exec_tspawn {g} {dc} {a} {b} {s : State} : exec (.tspawn g dc a b) s = execTspawn g dc a b s := rfl
theorem exec_cont {g} {a} {b} {n} {r} {s : State} : exec (.cont g a b n r) s = execCont g a b n r s := rfl
theorem exec_bgemv {g} {dc} {acc} {bf} {a} {b} {s : State} : exec (.bgemv g dc acc bf a b) s = execBgemv g dc acc bf a b s := rfl
theorem exec_bstat {g} {la} {q} {d} {s : State} : exec (.bstat g la q d) s = execBstat g la q d s := rfl
theorem exec_rtrace {g} {dc} {gen} {p} {a} {b} {c} {s : State} : exec (.rtrace g dc gen p a b c) s = execRtrace g dc gen p a b c s := rfl
theorem exec_rtquery {g} {la} {gen} {d} {a} {b} {s : State} : exec (.rtquery g la gen d a b) s = execRtquery g la gen d a b s := rfl
theorem exec_msvtx {g} {n} {a} {b} {c} {s : State} : exec (.msvtx g n a b c) s = execMsvtx g n a b c s := rfl
theorem exec_msprim {g} {a} {b} {c} {s : State} : exec (.msprim g a b c) s = execMsprim g a b c s := rfl
theorem exec_msend {g} {a} {b} {s : State} : exec (.msend g a b) s = execMsend g a b s := rfl
theorem exec_fsout {g} {t} {n} {a} {s : State} : exec (.fsout g t n a) s = execFsout g t n a s := rfl
theorem exec_gzread {g} {la} {d} {a} {s : State} : exec (.gzread g la d a) s = execGzread g la d a s := rfl
theorem exec_sread {g} {la} {vec} {d} {sp} {s : State} : exec (.sread g la vec d sp) s = execSread g la vec d sp s := rfl
theorem exec_swrite {g} {vec} {a} {sp} {s : State} : exec (.swrite g vec a sp) s = execSwrite g vec a sp s := rfl
theorem exec_trap {g} {code} {s : State} : exec (.trap g code) s = execTrap g code s := rfl
theorem exec_eret {g} {s : State} : exec (.eret g) s = execEret g s := rfl
theorem exec_halt {g} {code} {s : State} : exec (.halt g code) s = execHalt g code s := rfl
theorem exec_ckpt {g} {s : State} : exec (.ckpt g) s = execCkpt g s := rfl
theorem exec_schedulerPick {vw} {s : State} : exec (.schedulerPick vw) s = execSchedulerPick vw s := rfl
theorem exec_turnLimit {vw} {s : State} : exec (.turnLimit vw) s = execTurnLimit vw s := rfl
theorem exec_clauseWaitTimeout {vw} {s : State} : exec (.clauseWaitTimeout vw) s = execClauseWaitTimeout vw s := rfl
theorem exec_sleepWake {vw} {s : State} : exec (.sleepWake vw) s = execSleepWake vw s := rfl
theorem exec_loadLaneComplete {vw} {seq} {lanes} {s : State} : exec (.loadLaneComplete vw seq lanes) s = execLoadLaneComplete vw seq lanes s := rfl
theorem exec_storeAck {vw} {seq} {lanes} {s : State} : exec (.storeAck vw seq lanes) s = execStoreAck vw seq lanes s := rfl
theorem exec_atomicBatchPerform {vw} {seq} {lane} {s : State} : exec (.atomicBatchPerform vw seq lane) s = execAtomicBatchPerform vw seq lane s := rfl
theorem exec_faultBatchClose {die} {s : State} : exec (.faultBatchClose die) s = execFaultBatchClose die s := rfl
theorem exec_mloopStep {vw} {seq} {s : State} : exec (.mloopStep vw seq) s = execMloopStep vw seq s := rfl
theorem exec_copyChunkLand {vw} {seq} {member} {bytes} {s : State} : exec (.copyChunkLand vw seq member bytes) s = execCopyChunkLand vw seq member bytes s := rfl
theorem exec_bgemvRowLand {vw} {seq} {s : State} : exec (.bgemvRowLand vw seq) s = execBgemvRowLand vw seq s := rfl
theorem exec_rayTillerWrite {vw} {seq} {lane} {s : State} : exec (.rayTillerWrite vw seq lane) s = execRayTillerWrite vw seq lane s := rfl
theorem exec_binTimeout {die} {bin} {s : State} : exec (.binTimeout die bin) s = execBinTimeout die bin s := rfl
theorem exec_taskPieceRequest {task} {core} {s : State} : exec (.taskPieceRequest task core) s = execTaskPieceRequest task core s := rfl
theorem exec_phaseComplete {lid} {grp} {s : State} : exec (.phaseComplete lid grp) s = execPhaseComplete lid grp s := rfl
theorem exec_tendCommit {vw} {seq} {s : State} : exec (.tendCommit vw seq) s = execTendCommit vw seq s := rfl
theorem exec_checkpoint {lid} {s : State} : exec (.checkpoint lid) s = execCheckpoint lid s := rfl
theorem exec_rollback {lid} {s : State} : exec (.rollback lid) s = execRollback lid s := rfl
theorem exec_sheafPlace {sid} {core} {s : State} : exec (.sheafPlace sid core) s = execSheafPlace sid core s := rfl
theorem exec_launchAdmit {lid} {s : State} : exec (.launchAdmit lid) s = execLaunchAdmit lid s := rfl
theorem exec_freeze {sid} {s : State} : exec (.freeze sid) s = execFreeze sid s := rfl
theorem exec_lateReply {vw} {seq} {lanes} {s : State} : exec (.lateReply vw seq lanes) s = execLateReply vw seq lanes s := rfl
theorem exec_sheafSave {sid} {s : State} : exec (.sheafSave sid) s = execSheafSave sid s := rfl
theorem exec_sheafResume {sid} {core} {s : State} : exec (.sheafResume sid core) s = execSheafResume sid core s := rfl
theorem exec_sheafRetire {sid} {s : State} : exec (.sheafRetire sid) s = execSheafRetire sid s := rfl
theorem exec_refill {lid} {s : State} : exec (.refill lid) s = execRefill lid s := rfl
theorem exec_powerSample {die} {milliwatts} {s : State} : exec (.powerSample die milliwatts) s = execPowerSample die milliwatts s := rfl
theorem exec_balanceStep {s : State} : exec (.balanceStep) s = execBalanceStep s := rfl
theorem exec_deadlockDetect {ctx} {s : State} : exec (.deadlockDetect ctx) s = execDeadlockDetect ctx s := rfl
theorem exec_commandImmediate {q} {imm} {s : State} : exec (.commandImmediate q imm) s = execCommandImmediate q imm s := rfl
theorem exec_hostRdmaWrite {q} {addr} {data} {s : State} : exec (.hostRdmaWrite q addr data) s = execHostRdmaWrite q addr data s := rfl
theorem exec_hostRdmaRead {q} {addr} {len} {s : State} : exec (.hostRdmaRead q addr len) s = execHostRdmaRead q addr len s := rfl
theorem exec_cmdEventDispatch {core} {s : State} : exec (.cmdEventDispatch core) s = execCmdEventDispatch core s := rfl
theorem exec_launchPacket {q} {s : State} : exec (.launchPacket q) s = execLaunchPacket q s := rfl
theorem exec_graphArm {q} {s : State} : exec (.graphArm q) s = execGraphArm q s := rfl
theorem exec_signalPacket {q} {s : State} : exec (.signalPacket q) s = execSignalPacket q s := rfl
theorem exec_waitPacket {q} {s : State} : exec (.waitPacket q) s = execWaitPacket q s := rfl
theorem exec_copyPacket {q} {s : State} : exec (.copyPacket q) s = execCopyPacket q s := rfl
theorem exec_viewStreamConfigure {q} {s : State} : exec (.viewStreamConfigure q) s = execViewStreamConfigure q s := rfl
theorem exec_keyLoad {q} {s : State} : exec (.keyLoad q) s = execKeyLoad q s := rfl
theorem exec_keyClear {q} {s : State} : exec (.keyClear q) s = execKeyClear q s := rfl
theorem exec_keyBind {q} {s : State} : exec (.keyBind q) s = execKeyBind q s := rfl
theorem exec_keyAttest {q} {s : State} : exec (.keyAttest q) s = execKeyAttest q s := rfl
theorem exec_testPackageApply {q} {s : State} : exec (.testPackageApply q) s = execTestPackageApply q s := rfl
theorem exec_testPackageReport {q} {s : State} : exec (.testPackageReport q) s = execTestPackageReport q s := rfl
theorem exec_testCore {core} {s : State} : exec (.testCore core) s = execTestCore core s := rfl
theorem exec_mapq {q} {s : State} : exec (.mapq q) s = execMapq q s := rfl
theorem exec_unmapq {q} {s : State} : exec (.unmapq q) s = execUnmapq q s := rfl
theorem exec_ctxset {q} {s : State} : exec (.ctxset q) s = execCtxset q s := rfl
theorem exec_ctxdel {q} {s : State} : exec (.ctxdel q) s = execCtxdel q s := rfl
theorem exec_tlbinv {q} {s : State} : exec (.tlbinv q) s = execTlbinv q s := rfl
theorem exec_resume {q} {s : State} : exec (.resume q) s = execResume q s := rfl
theorem exec_cancel {q} {s : State} : exec (.cancel q) s = execCancel q s := rfl
theorem exec_balance {q} {s : State} : exec (.balance q) s = execBalance q s := rfl
theorem exec_graphNodeComplete {ctx} {graph} {node} {s : State} : exec (.graphNodeComplete ctx graph node) s = execGraphNodeComplete ctx graph node s := rfl
theorem exec_graphCounterError {ctx} {graph} {s : State} : exec (.graphCounterError ctx graph) s = execGraphCounterError ctx graph s := rfl
theorem exec_cmdCoreHang {core} {s : State} : exec (.cmdCoreHang core) s = execCmdCoreHang core s := rfl
theorem exec_cmdCoreRebootDone {core} {s : State} : exec (.cmdCoreRebootDone core) s = execCmdCoreRebootDone core s := rfl
theorem exec_fallbackTurn {s : State} : exec (.fallbackTurn) s = execFallbackTurn s := rfl
theorem exec_engineStall {engine} {s : State} : exec (.engineStall engine) s = execEngineStall engine s := rfl
theorem exec_uncorrectableError {arr} {addr} {s : State} : exec (.uncorrectableError arr addr) s = execUncorrectableError arr addr s := rfl
theorem exec_patrolScrub {s : State} : exec (.patrolScrub) s = execPatrolScrub s := rfl
theorem exec_frameStart {stream} {s : State} : exec (.frameStart stream) s = execFrameStart stream s := rfl
theorem exec_geometryStart {stream} {s : State} : exec (.geometryStart stream) s = execGeometryStart stream s := rfl
theorem exec_stripLatch {stream} {strip} {s : State} : exec (.stripLatch stream strip) s = execStripLatch stream strip s := rfl
theorem exec_stripRasterStart {stream} {strip} {s : State} : exec (.stripRasterStart stream strip) s = execStripRasterStart stream strip s := rfl
theorem exec_stripKeyReset {stream} {strip} {s : State} : exec (.stripKeyReset stream strip) s = execStripKeyReset stream strip s := rfl
theorem exec_lensCorrectionStart {stream} {strip} {s : State} : exec (.lensCorrectionStart stream strip) s = execLensCorrectionStart stream strip s := rfl
theorem exec_checkInstant {stream} {strip} {s : State} : exec (.checkInstant stream strip) s = execCheckInstant stream strip s := rfl
theorem exec_tileDepart {stream} {strip} {view} {tile} {s : State} : exec (.tileDepart stream strip view tile) s = execTileDepart stream strip view tile s := rfl
theorem exec_drawWatchdog {stream} {s : State} : exec (.drawWatchdog stream) s = execDrawWatchdog stream s := rfl
theorem exec_gazePacket {port} {data} {s : State} : exec (.gazePacket port data) s = execGazePacket port data s := rfl
theorem exec_ceMarkReceived {q} {s : State} : exec (.ceMarkReceived q) s = execCeMarkReceived q s := rfl
theorem exec_cnpReceived {q} {s : State} : exec (.cnpReceived q) s = execCnpReceived q s := rfl
theorem exec_rateRecovery {q} {s : State} : exec (.rateRecovery q) s = execRateRecovery q s := rfl
theorem exec_linkDown {port} {s : State} : exec (.linkDown port) s = execLinkDown port s := rfl
theorem exec_linkUp {port} {s : State} : exec (.linkUp port) s = execLinkUp port s := rfl
theorem exec_linkDownTimeout {port} {s : State} : exec (.linkDownTimeout port) s = execLinkDownTimeout port s := rfl
theorem exec_portDropReport {port} {s : State} : exec (.portDropReport port) s = execPortDropReport port s := rfl
theorem exec_peerLost {peer} {s : State} : exec (.peerLost peer) s = execPeerLost peer s := rfl
theorem exec_sysMessageReceive {peer} {data} {s : State} : exec (.sysMessageReceive peer data) s = execSysMessageReceive peer data s := rfl
theorem exec_sysPhaseArrival {peer} {data} {s : State} : exec (.sysPhaseArrival peer data) s = execSysPhaseArrival peer data s := rfl
theorem exec_sysPhaseCompletion {peer} {data} {s : State} : exec (.sysPhaseCompletion peer data) s = execSysPhaseCompletion peer data s := rfl
theorem exec_ptpSync {offset} {s : State} : exec (.ptpSync offset) s = execPtpSync offset s := rfl
theorem exec_ptpLockLoss {s : State} : exec (.ptpLockLoss) s = execPtpLockLoss s := rfl
theorem exec_announce {s : State} : exec (.announce) s = execAnnounce s := rfl
theorem exec_config {port} {data} {s : State} : exec (.config port data) s = execConfig port data s := rfl
theorem exec_fwchunk {port} {data} {s : State} : exec (.fwchunk port data) s = execFwchunk port data s := rfl
theorem exec_fwcommit {port} {data} {s : State} : exec (.fwcommit port data) s = execFwcommit port data s := rfl
theorem exec_resetWarm {port} {data} {s : State} : exec (.resetWarm port data) s = execResetWarm port data s := rfl
theorem exec_resetCold {port} {data} {s : State} : exec (.resetCold port data) s = execResetCold port data s := rfl
theorem exec_powerGood {s : State} : exec (.powerGood) s = execPowerGood s := rfl
theorem exec_pipelineResultWrite {vw} {seq} {s : State} : exec (.pipelineResultWrite vw seq) s = execPipelineResultWrite vw seq s := rfl
theorem exec_ckptWaitTimeout {vw} {s : State} : exec (.ckptWaitTimeout vw) s = execCkptWaitTimeout vw s := rfl
theorem exec_powerLoss {s : State} : exec (.powerLoss) s = execPowerLoss s := rfl
theorem exec_icmpv6Echo {port} {data} {s : State} : exec (.icmpv6Echo port data) s = execIcmpv6Echo port data s := rfl
theorem exec_neighbourSolicitation {port} {data} {s : State} : exec (.neighbourSolicitation port data) s = execNeighbourSolicitation port data s := rfl
theorem exec_droppedFrame {port} {s : State} : exec (.droppedFrame port) s = execDroppedFrame port s := rfl
theorem exec_pfcPause {port} {prio} {pause} {s : State} : exec (.pfcPause port prio pause) s = execPfcPause port prio pause s := rfl

end Sys2Proof.Machine
end

