-- ==== Sys2Proof/Laws/State.lean ====
section
/-! SUPPORT. What each update of the state and of a warp leaves in each field: one lemma a field, by definition. -/

namespace Sys2Proof.Machine

/-! ## `State.setWarp` -/

@[simp] theorem State.setWarp_warps (s : State) (w : Warp) : (s.setWarp w).warps = updIf (·.vw == w.vw) (fun _ => w) s.warps := rfl
@[simp] theorem State.setWarp_sheaves (s : State) (w : Warp) : (s.setWarp w).sheaves = s.sheaves := rfl
@[simp] theorem State.setWarp_launches (s : State) (w : Warp) : (s.setWarp w).launches = s.launches := rfl
@[simp] theorem State.setWarp_mem (s : State) (w : Warp) : (s.setWarp w).mem = s.mem := rfl
@[simp] theorem State.setWarp_cmd (s : State) (w : Warp) : (s.setWarp w).cmd = s.cmd := rfl
@[simp] theorem State.setWarp_cores (s : State) (w : Warp) : (s.setWarp w).cores = s.cores := rfl
@[simp] theorem State.setWarp_streams (s : State) (w : Warp) : (s.setWarp w).streams = s.streams := rfl
@[simp] theorem State.setWarp_io (s : State) (w : Warp) : (s.setWarp w).io = s.io := rfl
@[simp] theorem State.setWarp_agenda (s : State) (w : Warp) : (s.setWarp w).agenda = s.agenda := rfl
@[simp] theorem State.setWarp_focus (s : State) (w : Warp) : (s.setWarp w).focus = s.focus := rfl
@[simp] theorem State.setWarp_now (s : State) (w : Warp) : (s.setWarp w).now = s.now := rfl
@[simp] theorem State.setWarp_nextId (s : State) (w : Warp) : (s.setWarp w).nextId = s.nextId := rfl
@[simp] theorem State.setWarp_freeIx (s : State) (w : Warp) : (s.setWarp w).freeIx = s.freeIx := rfl

/-! ## `State.modWarp` -/

@[simp] theorem State.modWarp_warps (s : State) (vw : Nat) (f : Warp → Warp) : (s.modWarp vw f).warps = updIf (·.vw == vw) f s.warps := rfl
@[simp] theorem State.modWarp_sheaves (s : State) (vw : Nat) (f : Warp → Warp) : (s.modWarp vw f).sheaves = s.sheaves := rfl
@[simp] theorem State.modWarp_launches (s : State) (vw : Nat) (f : Warp → Warp) : (s.modWarp vw f).launches = s.launches := rfl
@[simp] theorem State.modWarp_mem (s : State) (vw : Nat) (f : Warp → Warp) : (s.modWarp vw f).mem = s.mem := rfl
@[simp] theorem State.modWarp_cmd (s : State) (vw : Nat) (f : Warp → Warp) : (s.modWarp vw f).cmd = s.cmd := rfl
@[simp] theorem State.modWarp_cores (s : State) (vw : Nat) (f : Warp → Warp) : (s.modWarp vw f).cores = s.cores := rfl
@[simp] theorem State.modWarp_streams (s : State) (vw : Nat) (f : Warp → Warp) : (s.modWarp vw f).streams = s.streams := rfl
@[simp] theorem State.modWarp_io (s : State) (vw : Nat) (f : Warp → Warp) : (s.modWarp vw f).io = s.io := rfl
@[simp] theorem State.modWarp_agenda (s : State) (vw : Nat) (f : Warp → Warp) : (s.modWarp vw f).agenda = s.agenda := rfl
@[simp] theorem State.modWarp_focus (s : State) (vw : Nat) (f : Warp → Warp) : (s.modWarp vw f).focus = s.focus := rfl
@[simp] theorem State.modWarp_now (s : State) (vw : Nat) (f : Warp → Warp) : (s.modWarp vw f).now = s.now := rfl
@[simp] theorem State.modWarp_nextId (s : State) (vw : Nat) (f : Warp → Warp) : (s.modWarp vw f).nextId = s.nextId := rfl
@[simp] theorem State.modWarp_freeIx (s : State) (vw : Nat) (f : Warp → Warp) : (s.modWarp vw f).freeIx = s.freeIx := rfl

/-! ## `State.setSheaf` -/

@[simp] theorem State.setSheaf_warps (s : State) (h : Sheaf) : (s.setSheaf h).warps = s.warps := rfl
@[simp] theorem State.setSheaf_sheaves (s : State) (h : Sheaf) : (s.setSheaf h).sheaves = updIf (·.sid == h.sid) (fun _ => h) s.sheaves := rfl
@[simp] theorem State.setSheaf_launches (s : State) (h : Sheaf) : (s.setSheaf h).launches = s.launches := rfl
@[simp] theorem State.setSheaf_mem (s : State) (h : Sheaf) : (s.setSheaf h).mem = s.mem := rfl
@[simp] theorem State.setSheaf_cmd (s : State) (h : Sheaf) : (s.setSheaf h).cmd = s.cmd := rfl
@[simp] theorem State.setSheaf_cores (s : State) (h : Sheaf) : (s.setSheaf h).cores = s.cores := rfl
@[simp] theorem State.setSheaf_streams (s : State) (h : Sheaf) : (s.setSheaf h).streams = s.streams := rfl
@[simp] theorem State.setSheaf_io (s : State) (h : Sheaf) : (s.setSheaf h).io = s.io := rfl
@[simp] theorem State.setSheaf_agenda (s : State) (h : Sheaf) : (s.setSheaf h).agenda = s.agenda := rfl
@[simp] theorem State.setSheaf_focus (s : State) (h : Sheaf) : (s.setSheaf h).focus = s.focus := rfl
@[simp] theorem State.setSheaf_now (s : State) (h : Sheaf) : (s.setSheaf h).now = s.now := rfl
@[simp] theorem State.setSheaf_nextId (s : State) (h : Sheaf) : (s.setSheaf h).nextId = s.nextId := rfl
@[simp] theorem State.setSheaf_freeIx (s : State) (h : Sheaf) : (s.setSheaf h).freeIx = s.freeIx := rfl

/-! ## `State.modSheaf` -/

@[simp] theorem State.modSheaf_warps (s : State) (sid : Nat) (f : Sheaf → Sheaf) : (s.modSheaf sid f).warps = s.warps := rfl
@[simp] theorem State.modSheaf_sheaves (s : State) (sid : Nat) (f : Sheaf → Sheaf) : (s.modSheaf sid f).sheaves = updIf (·.sid == sid) f s.sheaves := rfl
@[simp] theorem State.modSheaf_launches (s : State) (sid : Nat) (f : Sheaf → Sheaf) : (s.modSheaf sid f).launches = s.launches := rfl
@[simp] theorem State.modSheaf_mem (s : State) (sid : Nat) (f : Sheaf → Sheaf) : (s.modSheaf sid f).mem = s.mem := rfl
@[simp] theorem State.modSheaf_cmd (s : State) (sid : Nat) (f : Sheaf → Sheaf) : (s.modSheaf sid f).cmd = s.cmd := rfl
@[simp] theorem State.modSheaf_cores (s : State) (sid : Nat) (f : Sheaf → Sheaf) : (s.modSheaf sid f).cores = s.cores := rfl
@[simp] theorem State.modSheaf_streams (s : State) (sid : Nat) (f : Sheaf → Sheaf) : (s.modSheaf sid f).streams = s.streams := rfl
@[simp] theorem State.modSheaf_io (s : State) (sid : Nat) (f : Sheaf → Sheaf) : (s.modSheaf sid f).io = s.io := rfl
@[simp] theorem State.modSheaf_agenda (s : State) (sid : Nat) (f : Sheaf → Sheaf) : (s.modSheaf sid f).agenda = s.agenda := rfl
@[simp] theorem State.modSheaf_focus (s : State) (sid : Nat) (f : Sheaf → Sheaf) : (s.modSheaf sid f).focus = s.focus := rfl
@[simp] theorem State.modSheaf_now (s : State) (sid : Nat) (f : Sheaf → Sheaf) : (s.modSheaf sid f).now = s.now := rfl
@[simp] theorem State.modSheaf_nextId (s : State) (sid : Nat) (f : Sheaf → Sheaf) : (s.modSheaf sid f).nextId = s.nextId := rfl
@[simp] theorem State.modSheaf_freeIx (s : State) (sid : Nat) (f : Sheaf → Sheaf) : (s.modSheaf sid f).freeIx = s.freeIx := rfl

/-! ## `State.setLaunch` -/

@[simp] theorem State.setLaunch_warps (s : State) (l : Launch) : (s.setLaunch l).warps = s.warps := rfl
@[simp] theorem State.setLaunch_sheaves (s : State) (l : Launch) : (s.setLaunch l).sheaves = s.sheaves := rfl
@[simp] theorem State.setLaunch_launches (s : State) (l : Launch) : (s.setLaunch l).launches = updIf (·.lid == l.lid) (fun _ => l) s.launches := rfl
@[simp] theorem State.setLaunch_mem (s : State) (l : Launch) : (s.setLaunch l).mem = s.mem := rfl
@[simp] theorem State.setLaunch_cmd (s : State) (l : Launch) : (s.setLaunch l).cmd = s.cmd := rfl
@[simp] theorem State.setLaunch_cores (s : State) (l : Launch) : (s.setLaunch l).cores = s.cores := rfl
@[simp] theorem State.setLaunch_streams (s : State) (l : Launch) : (s.setLaunch l).streams = s.streams := rfl
@[simp] theorem State.setLaunch_io (s : State) (l : Launch) : (s.setLaunch l).io = s.io := rfl
@[simp] theorem State.setLaunch_agenda (s : State) (l : Launch) : (s.setLaunch l).agenda = s.agenda := rfl
@[simp] theorem State.setLaunch_focus (s : State) (l : Launch) : (s.setLaunch l).focus = s.focus := rfl
@[simp] theorem State.setLaunch_now (s : State) (l : Launch) : (s.setLaunch l).now = s.now := rfl
@[simp] theorem State.setLaunch_nextId (s : State) (l : Launch) : (s.setLaunch l).nextId = s.nextId := rfl
@[simp] theorem State.setLaunch_freeIx (s : State) (l : Launch) : (s.setLaunch l).freeIx = s.freeIx := rfl

/-! ## `State.modLaunch` -/

@[simp] theorem State.modLaunch_warps (s : State) (lid : Nat) (f : Launch → Launch) : (s.modLaunch lid f).warps = s.warps := rfl
@[simp] theorem State.modLaunch_sheaves (s : State) (lid : Nat) (f : Launch → Launch) : (s.modLaunch lid f).sheaves = s.sheaves := rfl
@[simp] theorem State.modLaunch_launches (s : State) (lid : Nat) (f : Launch → Launch) : (s.modLaunch lid f).launches = updIf (·.lid == lid) f s.launches := rfl
@[simp] theorem State.modLaunch_mem (s : State) (lid : Nat) (f : Launch → Launch) : (s.modLaunch lid f).mem = s.mem := rfl
@[simp] theorem State.modLaunch_cmd (s : State) (lid : Nat) (f : Launch → Launch) : (s.modLaunch lid f).cmd = s.cmd := rfl
@[simp] theorem State.modLaunch_cores (s : State) (lid : Nat) (f : Launch → Launch) : (s.modLaunch lid f).cores = s.cores := rfl
@[simp] theorem State.modLaunch_streams (s : State) (lid : Nat) (f : Launch → Launch) : (s.modLaunch lid f).streams = s.streams := rfl
@[simp] theorem State.modLaunch_io (s : State) (lid : Nat) (f : Launch → Launch) : (s.modLaunch lid f).io = s.io := rfl
@[simp] theorem State.modLaunch_agenda (s : State) (lid : Nat) (f : Launch → Launch) : (s.modLaunch lid f).agenda = s.agenda := rfl
@[simp] theorem State.modLaunch_focus (s : State) (lid : Nat) (f : Launch → Launch) : (s.modLaunch lid f).focus = s.focus := rfl
@[simp] theorem State.modLaunch_now (s : State) (lid : Nat) (f : Launch → Launch) : (s.modLaunch lid f).now = s.now := rfl
@[simp] theorem State.modLaunch_nextId (s : State) (lid : Nat) (f : Launch → Launch) : (s.modLaunch lid f).nextId = s.nextId := rfl
@[simp] theorem State.modLaunch_freeIx (s : State) (lid : Nat) (f : Launch → Launch) : (s.modLaunch lid f).freeIx = s.freeIx := rfl

/-! ## `State.setMem` -/

@[simp] theorem State.setMem_warps (s : State) (m : Mem) : (s.setMem m).warps = s.warps := rfl
@[simp] theorem State.setMem_sheaves (s : State) (m : Mem) : (s.setMem m).sheaves = s.sheaves := rfl
@[simp] theorem State.setMem_launches (s : State) (m : Mem) : (s.setMem m).launches = s.launches := rfl
@[simp] theorem State.setMem_mem (s : State) (m : Mem) : (s.setMem m).mem = m := rfl
@[simp] theorem State.setMem_cmd (s : State) (m : Mem) : (s.setMem m).cmd = s.cmd := rfl
@[simp] theorem State.setMem_cores (s : State) (m : Mem) : (s.setMem m).cores = s.cores := rfl
@[simp] theorem State.setMem_streams (s : State) (m : Mem) : (s.setMem m).streams = s.streams := rfl
@[simp] theorem State.setMem_io (s : State) (m : Mem) : (s.setMem m).io = s.io := rfl
@[simp] theorem State.setMem_agenda (s : State) (m : Mem) : (s.setMem m).agenda = s.agenda := rfl
@[simp] theorem State.setMem_focus (s : State) (m : Mem) : (s.setMem m).focus = s.focus := rfl
@[simp] theorem State.setMem_now (s : State) (m : Mem) : (s.setMem m).now = s.now := rfl
@[simp] theorem State.setMem_nextId (s : State) (m : Mem) : (s.setMem m).nextId = s.nextId := rfl
@[simp] theorem State.setMem_freeIx (s : State) (m : Mem) : (s.setMem m).freeIx = s.freeIx := rfl

/-! ## `State.putBack` -/

@[simp] theorem State.putBack_warps (s : State) (w : Warp) : (s.putBack w).warps = updIf (·.vw == w.vw) (fun _ => w) s.warps := rfl
@[simp] theorem State.putBack_sheaves (s : State) (w : Warp) : (s.putBack w).sheaves = s.sheaves := rfl
@[simp] theorem State.putBack_launches (s : State) (w : Warp) : (s.putBack w).launches = s.launches := rfl
@[simp] theorem State.putBack_mem (s : State) (w : Warp) : (s.putBack w).mem = s.mem := rfl
@[simp] theorem State.putBack_cmd (s : State) (w : Warp) : (s.putBack w).cmd = s.cmd := rfl
@[simp] theorem State.putBack_cores (s : State) (w : Warp) : (s.putBack w).cores = s.cores := rfl
@[simp] theorem State.putBack_streams (s : State) (w : Warp) : (s.putBack w).streams = s.streams := rfl
@[simp] theorem State.putBack_io (s : State) (w : Warp) : (s.putBack w).io = s.io := rfl
@[simp] theorem State.putBack_agenda (s : State) (w : Warp) : (s.putBack w).agenda = s.agenda := rfl
@[simp] theorem State.putBack_focus (s : State) (w : Warp) : (s.putBack w).focus = if w.slot == .turn then s.focus else none := rfl
@[simp] theorem State.putBack_now (s : State) (w : Warp) : (s.putBack w).now = s.now := rfl
@[simp] theorem State.putBack_nextId (s : State) (w : Warp) : (s.putBack w).nextId = s.nextId := rfl
@[simp] theorem State.putBack_freeIx (s : State) (w : Warp) : (s.putBack w).freeIx = s.freeIx := rfl

/-! ## `State.modQueue` -/

@[simp] theorem State.modQueue_warps (s : State) (q : Nat) (f : Queue → Queue) : (s.modQueue q f).warps = s.warps := rfl
@[simp] theorem State.modQueue_sheaves (s : State) (q : Nat) (f : Queue → Queue) : (s.modQueue q f).sheaves = s.sheaves := rfl
@[simp] theorem State.modQueue_launches (s : State) (q : Nat) (f : Queue → Queue) : (s.modQueue q f).launches = s.launches := rfl
@[simp] theorem State.modQueue_mem (s : State) (q : Nat) (f : Queue → Queue) : (s.modQueue q f).mem = s.mem := rfl
@[simp] theorem State.modQueue_cmd (s : State) (q : Nat) (f : Queue → Queue) : (s.modQueue q f).cmd = { s.cmd with queues := updIf (·.q == q) f s.cmd.queues } := rfl
@[simp] theorem State.modQueue_cores (s : State) (q : Nat) (f : Queue → Queue) : (s.modQueue q f).cores = s.cores := rfl
@[simp] theorem State.modQueue_streams (s : State) (q : Nat) (f : Queue → Queue) : (s.modQueue q f).streams = s.streams := rfl
@[simp] theorem State.modQueue_io (s : State) (q : Nat) (f : Queue → Queue) : (s.modQueue q f).io = s.io := rfl
@[simp] theorem State.modQueue_agenda (s : State) (q : Nat) (f : Queue → Queue) : (s.modQueue q f).agenda = s.agenda := rfl
@[simp] theorem State.modQueue_focus (s : State) (q : Nat) (f : Queue → Queue) : (s.modQueue q f).focus = s.focus := rfl
@[simp] theorem State.modQueue_now (s : State) (q : Nat) (f : Queue → Queue) : (s.modQueue q f).now = s.now := rfl
@[simp] theorem State.modQueue_nextId (s : State) (q : Nat) (f : Queue → Queue) : (s.modQueue q f).nextId = s.nextId := rfl
@[simp] theorem State.modQueue_freeIx (s : State) (q : Nat) (f : Queue → Queue) : (s.modQueue q f).freeIx = s.freeIx := rfl

/-! ## `State.send` -/

@[simp] theorem State.send_warps (s : State) (o : Out) : (s.send o).warps = s.warps := rfl
@[simp] theorem State.send_sheaves (s : State) (o : Out) : (s.send o).sheaves = s.sheaves := rfl
@[simp] theorem State.send_launches (s : State) (o : Out) : (s.send o).launches = s.launches := rfl
@[simp] theorem State.send_mem (s : State) (o : Out) : (s.send o).mem = s.mem := rfl
@[simp] theorem State.send_cmd (s : State) (o : Out) : (s.send o).cmd = s.cmd := rfl
@[simp] theorem State.send_cores (s : State) (o : Out) : (s.send o).cores = s.cores := rfl
@[simp] theorem State.send_streams (s : State) (o : Out) : (s.send o).streams = s.streams := rfl
@[simp] theorem State.send_io (s : State) (o : Out) : (s.send o).io = { s.io with out := s.io.out ++ [o] } := rfl
@[simp] theorem State.send_agenda (s : State) (o : Out) : (s.send o).agenda = s.agenda := rfl
@[simp] theorem State.send_focus (s : State) (o : Out) : (s.send o).focus = s.focus := rfl
@[simp] theorem State.send_now (s : State) (o : Out) : (s.send o).now = s.now := rfl
@[simp] theorem State.send_nextId (s : State) (o : Out) : (s.send o).nextId = s.nextId := rfl
@[simp] theorem State.send_freeIx (s : State) (o : Out) : (s.send o).freeIx = s.freeIx := rfl

/-! ## `State.post` -/

@[simp] theorem State.post_warps (s : State) (e : CmdEv) : (s.post e).warps = s.warps := rfl
@[simp] theorem State.post_sheaves (s : State) (e : CmdEv) : (s.post e).sheaves = s.sheaves := rfl
@[simp] theorem State.post_launches (s : State) (e : CmdEv) : (s.post e).launches = s.launches := rfl
@[simp] theorem State.post_mem (s : State) (e : CmdEv) : (s.post e).mem = s.mem := rfl
@[simp] theorem State.post_cmd (s : State) (e : CmdEv) : (s.post e).cmd = { s.cmd with evq := s.cmd.evq ++ [e] } := rfl
@[simp] theorem State.post_cores (s : State) (e : CmdEv) : (s.post e).cores = s.cores := rfl
@[simp] theorem State.post_streams (s : State) (e : CmdEv) : (s.post e).streams = s.streams := rfl
@[simp] theorem State.post_io (s : State) (e : CmdEv) : (s.post e).io = s.io := rfl
@[simp] theorem State.post_agenda (s : State) (e : CmdEv) : (s.post e).agenda = s.agenda := rfl
@[simp] theorem State.post_focus (s : State) (e : CmdEv) : (s.post e).focus = s.focus := rfl
@[simp] theorem State.post_now (s : State) (e : CmdEv) : (s.post e).now = s.now := rfl
@[simp] theorem State.post_nextId (s : State) (e : CmdEv) : (s.post e).nextId = s.nextId := rfl
@[simp] theorem State.post_freeIx (s : State) (e : CmdEv) : (s.post e).freeIx = s.freeIx := rfl

/-! ## `State.modStream` -/

@[simp] theorem State.modStream_warps (s : State) (id : Nat) (f : Stream → Stream) : (s.modStream id f).warps = s.warps := rfl
@[simp] theorem State.modStream_sheaves (s : State) (id : Nat) (f : Stream → Stream) : (s.modStream id f).sheaves = s.sheaves := rfl
@[simp] theorem State.modStream_launches (s : State) (id : Nat) (f : Stream → Stream) : (s.modStream id f).launches = s.launches := rfl
@[simp] theorem State.modStream_mem (s : State) (id : Nat) (f : Stream → Stream) : (s.modStream id f).mem = s.mem := rfl
@[simp] theorem State.modStream_cmd (s : State) (id : Nat) (f : Stream → Stream) : (s.modStream id f).cmd = s.cmd := rfl
@[simp] theorem State.modStream_cores (s : State) (id : Nat) (f : Stream → Stream) : (s.modStream id f).cores = s.cores := rfl
@[simp] theorem State.modStream_streams (s : State) (id : Nat) (f : Stream → Stream) : (s.modStream id f).streams = updIf (·.id == id) f s.streams := rfl
@[simp] theorem State.modStream_io (s : State) (id : Nat) (f : Stream → Stream) : (s.modStream id f).io = s.io := rfl
@[simp] theorem State.modStream_agenda (s : State) (id : Nat) (f : Stream → Stream) : (s.modStream id f).agenda = s.agenda := rfl
@[simp] theorem State.modStream_focus (s : State) (id : Nat) (f : Stream → Stream) : (s.modStream id f).focus = s.focus := rfl
@[simp] theorem State.modStream_now (s : State) (id : Nat) (f : Stream → Stream) : (s.modStream id f).now = s.now := rfl
@[simp] theorem State.modStream_nextId (s : State) (id : Nat) (f : Stream → Stream) : (s.modStream id f).nextId = s.nextId := rfl
@[simp] theorem State.modStream_freeIx (s : State) (id : Nat) (f : Stream → Stream) : (s.modStream id f).freeIx = s.freeIx := rfl

/-! ## `State.setStream` -/

@[simp] theorem State.setStream_warps (s : State) (t : Stream) : (s.setStream t).warps = s.warps := rfl
@[simp] theorem State.setStream_sheaves (s : State) (t : Stream) : (s.setStream t).sheaves = s.sheaves := rfl
@[simp] theorem State.setStream_launches (s : State) (t : Stream) : (s.setStream t).launches = s.launches := rfl
@[simp] theorem State.setStream_mem (s : State) (t : Stream) : (s.setStream t).mem = s.mem := rfl
@[simp] theorem State.setStream_cmd (s : State) (t : Stream) : (s.setStream t).cmd = s.cmd := rfl
@[simp] theorem State.setStream_cores (s : State) (t : Stream) : (s.setStream t).cores = s.cores := rfl
@[simp] theorem State.setStream_streams (s : State) (t : Stream) : (s.setStream t).streams = upsert (·.id == t.id) t s.streams := rfl
@[simp] theorem State.setStream_io (s : State) (t : Stream) : (s.setStream t).io = s.io := rfl
@[simp] theorem State.setStream_agenda (s : State) (t : Stream) : (s.setStream t).agenda = s.agenda := rfl
@[simp] theorem State.setStream_focus (s : State) (t : Stream) : (s.setStream t).focus = s.focus := rfl
@[simp] theorem State.setStream_now (s : State) (t : Stream) : (s.setStream t).now = s.now := rfl
@[simp] theorem State.setStream_nextId (s : State) (t : Stream) : (s.setStream t).nextId = s.nextId := rfl
@[simp] theorem State.setStream_freeIx (s : State) (t : Stream) : (s.setStream t).freeIx = s.freeIx := rfl

/-! ## `State.modGraph` -/

@[simp] theorem State.modGraph_warps (s : State) (ctx inst : Nat) (f : Graph → Graph) : (s.modGraph ctx inst f).warps = s.warps := rfl
@[simp] theorem State.modGraph_sheaves (s : State) (ctx inst : Nat) (f : Graph → Graph) : (s.modGraph ctx inst f).sheaves = s.sheaves := rfl
@[simp] theorem State.modGraph_launches (s : State) (ctx inst : Nat) (f : Graph → Graph) : (s.modGraph ctx inst f).launches = s.launches := rfl
@[simp] theorem State.modGraph_mem (s : State) (ctx inst : Nat) (f : Graph → Graph) : (s.modGraph ctx inst f).mem = s.mem := rfl
@[simp] theorem State.modGraph_cmd (s : State) (ctx inst : Nat) (f : Graph → Graph) : (s.modGraph ctx inst f).cmd = { s.cmd with graphs := updIf (fun g => g.ctx == ctx && g.inst == inst) f s.cmd.graphs } := rfl
@[simp] theorem State.modGraph_cores (s : State) (ctx inst : Nat) (f : Graph → Graph) : (s.modGraph ctx inst f).cores = s.cores := rfl
@[simp] theorem State.modGraph_streams (s : State) (ctx inst : Nat) (f : Graph → Graph) : (s.modGraph ctx inst f).streams = s.streams := rfl
@[simp] theorem State.modGraph_io (s : State) (ctx inst : Nat) (f : Graph → Graph) : (s.modGraph ctx inst f).io = s.io := rfl
@[simp] theorem State.modGraph_agenda (s : State) (ctx inst : Nat) (f : Graph → Graph) : (s.modGraph ctx inst f).agenda = s.agenda := rfl
@[simp] theorem State.modGraph_focus (s : State) (ctx inst : Nat) (f : Graph → Graph) : (s.modGraph ctx inst f).focus = s.focus := rfl
@[simp] theorem State.modGraph_now (s : State) (ctx inst : Nat) (f : Graph → Graph) : (s.modGraph ctx inst f).now = s.now := rfl
@[simp] theorem State.modGraph_nextId (s : State) (ctx inst : Nat) (f : Graph → Graph) : (s.modGraph ctx inst f).nextId = s.nextId := rfl
@[simp] theorem State.modGraph_freeIx (s : State) (ctx inst : Nat) (f : Graph → Graph) : (s.modGraph ctx inst f).freeIx = s.freeIx := rfl

/-! ## `State.modFc` -/

@[simp] theorem State.modFc_warps (s : State) (core : Nat) (f : Fc → Fc) : (s.modFc core f).warps = s.warps := rfl
@[simp] theorem State.modFc_sheaves (s : State) (core : Nat) (f : Fc → Fc) : (s.modFc core f).sheaves = s.sheaves := rfl
@[simp] theorem State.modFc_launches (s : State) (core : Nat) (f : Fc → Fc) : (s.modFc core f).launches = s.launches := rfl
@[simp] theorem State.modFc_mem (s : State) (core : Nat) (f : Fc → Fc) : (s.modFc core f).mem = s.mem := rfl
@[simp] theorem State.modFc_cmd (s : State) (core : Nat) (f : Fc → Fc) : (s.modFc core f).cmd = { s.cmd with fcs := s.cmd.fcs.modify core f } := rfl
@[simp] theorem State.modFc_cores (s : State) (core : Nat) (f : Fc → Fc) : (s.modFc core f).cores = s.cores := rfl
@[simp] theorem State.modFc_streams (s : State) (core : Nat) (f : Fc → Fc) : (s.modFc core f).streams = s.streams := rfl
@[simp] theorem State.modFc_io (s : State) (core : Nat) (f : Fc → Fc) : (s.modFc core f).io = s.io := rfl
@[simp] theorem State.modFc_agenda (s : State) (core : Nat) (f : Fc → Fc) : (s.modFc core f).agenda = s.agenda := rfl
@[simp] theorem State.modFc_focus (s : State) (core : Nat) (f : Fc → Fc) : (s.modFc core f).focus = s.focus := rfl
@[simp] theorem State.modFc_now (s : State) (core : Nat) (f : Fc → Fc) : (s.modFc core f).now = s.now := rfl
@[simp] theorem State.modFc_nextId (s : State) (core : Nat) (f : Fc → Fc) : (s.modFc core f).nextId = s.nextId := rfl
@[simp] theorem State.modFc_freeIx (s : State) (core : Nat) (f : Fc → Fc) : (s.modFc core f).freeIx = s.freeIx := rfl

/-! ## `State.modPort` -/

@[simp] theorem State.modPort_warps (s : State) (port : Nat) (f : Port → Port) : (s.modPort port f).warps = s.warps := rfl
@[simp] theorem State.modPort_sheaves (s : State) (port : Nat) (f : Port → Port) : (s.modPort port f).sheaves = s.sheaves := rfl
@[simp] theorem State.modPort_launches (s : State) (port : Nat) (f : Port → Port) : (s.modPort port f).launches = s.launches := rfl
@[simp] theorem State.modPort_mem (s : State) (port : Nat) (f : Port → Port) : (s.modPort port f).mem = s.mem := rfl
@[simp] theorem State.modPort_cmd (s : State) (port : Nat) (f : Port → Port) : (s.modPort port f).cmd = s.cmd := rfl
@[simp] theorem State.modPort_cores (s : State) (port : Nat) (f : Port → Port) : (s.modPort port f).cores = s.cores := rfl
@[simp] theorem State.modPort_streams (s : State) (port : Nat) (f : Port → Port) : (s.modPort port f).streams = s.streams := rfl
@[simp] theorem State.modPort_io (s : State) (port : Nat) (f : Port → Port) : (s.modPort port f).io = { s.io with ports := s.io.ports.modify port f } := rfl
@[simp] theorem State.modPort_agenda (s : State) (port : Nat) (f : Port → Port) : (s.modPort port f).agenda = s.agenda := rfl
@[simp] theorem State.modPort_focus (s : State) (port : Nat) (f : Port → Port) : (s.modPort port f).focus = s.focus := rfl
@[simp] theorem State.modPort_now (s : State) (port : Nat) (f : Port → Port) : (s.modPort port f).now = s.now := rfl
@[simp] theorem State.modPort_nextId (s : State) (port : Nat) (f : Port → Port) : (s.modPort port f).nextId = s.nextId := rfl
@[simp] theorem State.modPort_freeIx (s : State) (port : Nat) (f : Port → Port) : (s.modPort port f).freeIx = s.freeIx := rfl

/-! ## `State.setRate` -/

@[simp] theorem State.setRate_warps (s : State) (r : Rate) : (s.setRate r).warps = s.warps := rfl
@[simp] theorem State.setRate_sheaves (s : State) (r : Rate) : (s.setRate r).sheaves = s.sheaves := rfl
@[simp] theorem State.setRate_launches (s : State) (r : Rate) : (s.setRate r).launches = s.launches := rfl
@[simp] theorem State.setRate_mem (s : State) (r : Rate) : (s.setRate r).mem = s.mem := rfl
@[simp] theorem State.setRate_cmd (s : State) (r : Rate) : (s.setRate r).cmd = s.cmd := rfl
@[simp] theorem State.setRate_cores (s : State) (r : Rate) : (s.setRate r).cores = s.cores := rfl
@[simp] theorem State.setRate_streams (s : State) (r : Rate) : (s.setRate r).streams = s.streams := rfl
@[simp] theorem State.setRate_io (s : State) (r : Rate) : (s.setRate r).io = { s.io with rates := upsert (·.q == r.q) r s.io.rates } := rfl
@[simp] theorem State.setRate_agenda (s : State) (r : Rate) : (s.setRate r).agenda = s.agenda := rfl
@[simp] theorem State.setRate_focus (s : State) (r : Rate) : (s.setRate r).focus = s.focus := rfl
@[simp] theorem State.setRate_now (s : State) (r : Rate) : (s.setRate r).now = s.now := rfl
@[simp] theorem State.setRate_nextId (s : State) (r : Rate) : (s.setRate r).nextId = s.nextId := rfl
@[simp] theorem State.setRate_freeIx (s : State) (r : Rate) : (s.setRate r).freeIx = s.freeIx := rfl

/-! ## `Warp.sset` -/

@[simp] theorem Warp.sset_vw (w : Warp) (n : Nat) (x : Word64) : (w.sset n x).vw = w.vw := rfl
@[simp] theorem Warp.sset_ident (w : Warp) (n : Nat) (x : Word64) : (w.sset n x).ident = w.ident := rfl
@[simp] theorem Warp.sset_vpc (w : Warp) (n : Nat) (x : Word64) : (w.sset n x).vpc = w.vpc := rfl
@[simp] theorem Warp.sset_v (w : Warp) (n : Nat) (x : Word64) : (w.sset n x).v = w.v := rfl
@[simp] theorem Warp.sset_s (w : Warp) (n : Nat) (x : Word64) : (w.sset n x).s = w.s.set n x := rfl
@[simp] theorem Warp.sset_p (w : Warp) (n : Nat) (x : Word64) : (w.sset n x).p = w.p := rfl
@[simp] theorem Warp.sset_acc (w : Warp) (n : Nat) (x : Word64) : (w.sset n x).acc = w.acc := rfl
@[simp] theorem Warp.sset_dc (w : Warp) (n : Nat) (x : Word64) : (w.sset n x).dc = w.dc := rfl
@[simp] theorem Warp.sset_spr (w : Warp) (n : Nat) (x : Word64) : (w.sset n x).spr = w.spr := rfl
@[simp] theorem Warp.sset_cfg (w : Warp) (n : Nat) (x : Word64) : (w.sset n x).cfg = w.cfg := rfl
@[simp] theorem Warp.sset_clause (w : Warp) (n : Nat) (x : Word64) : (w.sset n x).clause = w.clause := rfl
@[simp] theorem Warp.sset_mids (w : Warp) (n : Nat) (x : Word64) : (w.sset n x).mids = w.mids := rfl
@[simp] theorem Warp.sset_dbg (w : Warp) (n : Nat) (x : Word64) : (w.sset n x).dbg = w.dbg := rfl
@[simp] theorem Warp.sset_wins (w : Warp) (n : Nat) (x : Word64) : (w.sset n x).wins = w.wins := rfl
@[simp] theorem Warp.sset_pipe (w : Warp) (n : Nat) (x : Word64) : (w.sset n x).pipe = w.pipe := rfl
@[simp] theorem Warp.sset_husk (w : Warp) (n : Nat) (x : Word64) : (w.sset n x).husk = w.husk := rfl
@[simp] theorem Warp.sset_nseq (w : Warp) (n : Nat) (x : Word64) : (w.sset n x).nseq = w.nseq := rfl
@[simp] theorem Warp.sset_tx (w : Warp) (n : Nat) (x : Word64) : (w.sset n x).tx = w.tx := rfl
@[simp] theorem Warp.sset_slot (w : Warp) (n : Nat) (x : Word64) : (w.sset n x).slot = w.slot := rfl
@[simp] theorem Warp.sset_waits (w : Warp) (n : Nat) (x : Word64) : (w.sset n x).waits = w.waits := rfl
@[simp] theorem Warp.sset_readyAt (w : Warp) (n : Nat) (x : Word64) : (w.sset n x).readyAt = w.readyAt := rfl
@[simp] theorem Warp.sset_turnWords (w : Warp) (n : Nat) (x : Word64) : (w.sset n x).turnWords = w.turnWords := rfl
@[simp] theorem Warp.sset_held (w : Warp) (n : Nat) (x : Word64) : (w.sset n x).held = w.held := rfl
@[simp] theorem Warp.sset_wslot (w : Warp) (n : Nat) (x : Word64) : (w.sset n x).wslot = w.wslot := rfl
@[simp] theorem Warp.sset_region (w : Warp) (n : Nat) (x : Word64) : (w.sset n x).region = w.region := rfl
@[simp] theorem Warp.sset_opened (w : Warp) (n : Nat) (x : Word64) : (w.sset n x).opened = w.opened := rfl
@[simp] theorem Warp.sset_suppress (w : Warp) (n : Nat) (x : Word64) : (w.sset n x).suppress = w.suppress := rfl
@[simp] theorem Warp.sset_issued (w : Warp) (n : Nat) (x : Word64) : (w.sset n x).issued = w.issued := rfl
@[simp] theorem Warp.sset_vals (w : Warp) (n : Nat) (x : Word64) : (w.sset n x).vals = w.vals := rfl
@[simp] theorem Warp.sset_reads (w : Warp) (n : Nat) (x : Word64) : (w.sset n x).reads = w.reads := rfl
@[simp] theorem Warp.sset_traps (w : Warp) (n : Nat) (x : Word64) : (w.sset n x).traps = w.traps := rfl

/-! ## `Warp.accSet` -/

@[simp] theorem Warp.accSet_vw (w : Warp) (n : Nat) (a : Acc) : (w.accSet n a).vw = w.vw := rfl
@[simp] theorem Warp.accSet_ident (w : Warp) (n : Nat) (a : Acc) : (w.accSet n a).ident = w.ident := rfl
@[simp] theorem Warp.accSet_vpc (w : Warp) (n : Nat) (a : Acc) : (w.accSet n a).vpc = w.vpc := rfl
@[simp] theorem Warp.accSet_v (w : Warp) (n : Nat) (a : Acc) : (w.accSet n a).v = w.v := rfl
@[simp] theorem Warp.accSet_s (w : Warp) (n : Nat) (a : Acc) : (w.accSet n a).s = w.s := rfl
@[simp] theorem Warp.accSet_p (w : Warp) (n : Nat) (a : Acc) : (w.accSet n a).p = w.p := rfl
@[simp] theorem Warp.accSet_acc (w : Warp) (n : Nat) (a : Acc) : (w.accSet n a).acc = w.acc.set n a := rfl
@[simp] theorem Warp.accSet_dc (w : Warp) (n : Nat) (a : Acc) : (w.accSet n a).dc = w.dc := rfl
@[simp] theorem Warp.accSet_spr (w : Warp) (n : Nat) (a : Acc) : (w.accSet n a).spr = w.spr := rfl
@[simp] theorem Warp.accSet_cfg (w : Warp) (n : Nat) (a : Acc) : (w.accSet n a).cfg = w.cfg := rfl
@[simp] theorem Warp.accSet_clause (w : Warp) (n : Nat) (a : Acc) : (w.accSet n a).clause = w.clause := rfl
@[simp] theorem Warp.accSet_mids (w : Warp) (n : Nat) (a : Acc) : (w.accSet n a).mids = w.mids := rfl
@[simp] theorem Warp.accSet_dbg (w : Warp) (n : Nat) (a : Acc) : (w.accSet n a).dbg = w.dbg := rfl
@[simp] theorem Warp.accSet_wins (w : Warp) (n : Nat) (a : Acc) : (w.accSet n a).wins = w.wins := rfl
@[simp] theorem Warp.accSet_pipe (w : Warp) (n : Nat) (a : Acc) : (w.accSet n a).pipe = w.pipe := rfl
@[simp] theorem Warp.accSet_husk (w : Warp) (n : Nat) (a : Acc) : (w.accSet n a).husk = w.husk := rfl
@[simp] theorem Warp.accSet_nseq (w : Warp) (n : Nat) (a : Acc) : (w.accSet n a).nseq = w.nseq := rfl
@[simp] theorem Warp.accSet_tx (w : Warp) (n : Nat) (a : Acc) : (w.accSet n a).tx = w.tx := rfl
@[simp] theorem Warp.accSet_slot (w : Warp) (n : Nat) (a : Acc) : (w.accSet n a).slot = w.slot := rfl
@[simp] theorem Warp.accSet_waits (w : Warp) (n : Nat) (a : Acc) : (w.accSet n a).waits = w.waits := rfl
@[simp] theorem Warp.accSet_readyAt (w : Warp) (n : Nat) (a : Acc) : (w.accSet n a).readyAt = w.readyAt := rfl
@[simp] theorem Warp.accSet_turnWords (w : Warp) (n : Nat) (a : Acc) : (w.accSet n a).turnWords = w.turnWords := rfl
@[simp] theorem Warp.accSet_held (w : Warp) (n : Nat) (a : Acc) : (w.accSet n a).held = w.held := rfl
@[simp] theorem Warp.accSet_wslot (w : Warp) (n : Nat) (a : Acc) : (w.accSet n a).wslot = w.wslot := rfl
@[simp] theorem Warp.accSet_region (w : Warp) (n : Nat) (a : Acc) : (w.accSet n a).region = w.region := rfl
@[simp] theorem Warp.accSet_opened (w : Warp) (n : Nat) (a : Acc) : (w.accSet n a).opened = w.opened := rfl
@[simp] theorem Warp.accSet_suppress (w : Warp) (n : Nat) (a : Acc) : (w.accSet n a).suppress = w.suppress := rfl
@[simp] theorem Warp.accSet_issued (w : Warp) (n : Nat) (a : Acc) : (w.accSet n a).issued = w.issued := rfl
@[simp] theorem Warp.accSet_vals (w : Warp) (n : Nat) (a : Acc) : (w.accSet n a).vals = w.vals := rfl
@[simp] theorem Warp.accSet_reads (w : Warp) (n : Nat) (a : Acc) : (w.accSet n a).reads = w.reads := rfl
@[simp] theorem Warp.accSet_traps (w : Warp) (n : Nat) (a : Acc) : (w.accSet n a).traps = w.traps := rfl

/-! ## `Warp.flags` -/

@[simp] theorem Warp.flags_vw (w : Warp) (f : BitVec 6) : (w.flags f).vw = w.vw := rfl
@[simp] theorem Warp.flags_ident (w : Warp) (f : BitVec 6) : (w.flags f).ident = w.ident := rfl
@[simp] theorem Warp.flags_vpc (w : Warp) (f : BitVec 6) : (w.flags f).vpc = w.vpc := rfl
@[simp] theorem Warp.flags_v (w : Warp) (f : BitVec 6) : (w.flags f).v = w.v := rfl
@[simp] theorem Warp.flags_s (w : Warp) (f : BitVec 6) : (w.flags f).s = w.s := rfl
@[simp] theorem Warp.flags_p (w : Warp) (f : BitVec 6) : (w.flags f).p = w.p := rfl
@[simp] theorem Warp.flags_acc (w : Warp) (f : BitVec 6) : (w.flags f).acc = w.acc := rfl
@[simp] theorem Warp.flags_dc (w : Warp) (f : BitVec 6) : (w.flags f).dc = w.dc := rfl
@[simp] theorem Warp.flags_spr (w : Warp) (f : BitVec 6) : (w.flags f).spr = { w.spr with fflags := w.spr.fflags ||| f.setWidth 64 } := rfl
@[simp] theorem Warp.flags_cfg (w : Warp) (f : BitVec 6) : (w.flags f).cfg = w.cfg := rfl
@[simp] theorem Warp.flags_clause (w : Warp) (f : BitVec 6) : (w.flags f).clause = w.clause := rfl
@[simp] theorem Warp.flags_mids (w : Warp) (f : BitVec 6) : (w.flags f).mids = w.mids := rfl
@[simp] theorem Warp.flags_dbg (w : Warp) (f : BitVec 6) : (w.flags f).dbg = w.dbg := rfl
@[simp] theorem Warp.flags_wins (w : Warp) (f : BitVec 6) : (w.flags f).wins = w.wins := rfl
@[simp] theorem Warp.flags_pipe (w : Warp) (f : BitVec 6) : (w.flags f).pipe = w.pipe := rfl
@[simp] theorem Warp.flags_husk (w : Warp) (f : BitVec 6) : (w.flags f).husk = w.husk := rfl
@[simp] theorem Warp.flags_nseq (w : Warp) (f : BitVec 6) : (w.flags f).nseq = w.nseq := rfl
@[simp] theorem Warp.flags_tx (w : Warp) (f : BitVec 6) : (w.flags f).tx = w.tx := rfl
@[simp] theorem Warp.flags_slot (w : Warp) (f : BitVec 6) : (w.flags f).slot = w.slot := rfl
@[simp] theorem Warp.flags_waits (w : Warp) (f : BitVec 6) : (w.flags f).waits = w.waits := rfl
@[simp] theorem Warp.flags_readyAt (w : Warp) (f : BitVec 6) : (w.flags f).readyAt = w.readyAt := rfl
@[simp] theorem Warp.flags_turnWords (w : Warp) (f : BitVec 6) : (w.flags f).turnWords = w.turnWords := rfl
@[simp] theorem Warp.flags_held (w : Warp) (f : BitVec 6) : (w.flags f).held = w.held := rfl
@[simp] theorem Warp.flags_wslot (w : Warp) (f : BitVec 6) : (w.flags f).wslot = w.wslot := rfl
@[simp] theorem Warp.flags_region (w : Warp) (f : BitVec 6) : (w.flags f).region = w.region := rfl
@[simp] theorem Warp.flags_opened (w : Warp) (f : BitVec 6) : (w.flags f).opened = w.opened := rfl
@[simp] theorem Warp.flags_suppress (w : Warp) (f : BitVec 6) : (w.flags f).suppress = w.suppress := rfl
@[simp] theorem Warp.flags_issued (w : Warp) (f : BitVec 6) : (w.flags f).issued = w.issued := rfl
@[simp] theorem Warp.flags_vals (w : Warp) (f : BitVec 6) : (w.flags f).vals = w.vals := rfl
@[simp] theorem Warp.flags_reads (w : Warp) (f : BitVec 6) : (w.flags f).reads = w.reads := rfl
@[simp] theorem Warp.flags_traps (w : Warp) (f : BitVec 6) : (w.flags f).traps = w.traps := rfl

/-! ## `Warp.setPc` -/

@[simp] theorem Warp.setPc_vw (w : Warp) (m : Mask) (f : Nat → Word64) : (w.setPc m f).vw = w.vw := by simp only [Warp.setPc]
@[simp] theorem Warp.setPc_ident (w : Warp) (m : Mask) (f : Nat → Word64) : (w.setPc m f).ident = w.ident := by simp only [Warp.setPc]
@[simp] theorem Warp.setPc_vpc (w : Warp) (m : Mask) (f : Nat → Word64) : (w.setPc m f).vpc = of64 fun i => if has m i then f i else w.pcOf i := by simp only [Warp.setPc]
@[simp] theorem Warp.setPc_v (w : Warp) (m : Mask) (f : Nat → Word64) : (w.setPc m f).v = w.v := by simp only [Warp.setPc]
@[simp] theorem Warp.setPc_s (w : Warp) (m : Mask) (f : Nat → Word64) : (w.setPc m f).s = w.s := by simp only [Warp.setPc]
@[simp] theorem Warp.setPc_p (w : Warp) (m : Mask) (f : Nat → Word64) : (w.setPc m f).p = w.p := by simp only [Warp.setPc]
@[simp] theorem Warp.setPc_acc (w : Warp) (m : Mask) (f : Nat → Word64) : (w.setPc m f).acc = w.acc := by simp only [Warp.setPc]
@[simp] theorem Warp.setPc_dc (w : Warp) (m : Mask) (f : Nat → Word64) : (w.setPc m f).dc = w.dc := by simp only [Warp.setPc]
@[simp] theorem Warp.setPc_spr (w : Warp) (m : Mask) (f : Nat → Word64) : (w.setPc m f).spr = w.spr := by simp only [Warp.setPc]
@[simp] theorem Warp.setPc_cfg (w : Warp) (m : Mask) (f : Nat → Word64) : (w.setPc m f).cfg = w.cfg := by simp only [Warp.setPc]
@[simp] theorem Warp.setPc_clause (w : Warp) (m : Mask) (f : Nat → Word64) : (w.setPc m f).clause = w.clause := by simp only [Warp.setPc]
@[simp] theorem Warp.setPc_mids (w : Warp) (m : Mask) (f : Nat → Word64) : (w.setPc m f).mids = w.mids := by simp only [Warp.setPc]
@[simp] theorem Warp.setPc_dbg (w : Warp) (m : Mask) (f : Nat → Word64) : (w.setPc m f).dbg = w.dbg := by simp only [Warp.setPc]
@[simp] theorem Warp.setPc_wins (w : Warp) (m : Mask) (f : Nat → Word64) : (w.setPc m f).wins = w.wins := by simp only [Warp.setPc]
@[simp] theorem Warp.setPc_pipe (w : Warp) (m : Mask) (f : Nat → Word64) : (w.setPc m f).pipe = w.pipe := by simp only [Warp.setPc]
@[simp] theorem Warp.setPc_husk (w : Warp) (m : Mask) (f : Nat → Word64) : (w.setPc m f).husk = w.husk := by simp only [Warp.setPc]
@[simp] theorem Warp.setPc_nseq (w : Warp) (m : Mask) (f : Nat → Word64) : (w.setPc m f).nseq = w.nseq := by simp only [Warp.setPc]
@[simp] theorem Warp.setPc_tx (w : Warp) (m : Mask) (f : Nat → Word64) : (w.setPc m f).tx = w.tx := by simp only [Warp.setPc]
@[simp] theorem Warp.setPc_slot (w : Warp) (m : Mask) (f : Nat → Word64) : (w.setPc m f).slot = w.slot := by simp only [Warp.setPc]
@[simp] theorem Warp.setPc_waits (w : Warp) (m : Mask) (f : Nat → Word64) : (w.setPc m f).waits = w.waits := by simp only [Warp.setPc]
@[simp] theorem Warp.setPc_readyAt (w : Warp) (m : Mask) (f : Nat → Word64) : (w.setPc m f).readyAt = w.readyAt := by simp only [Warp.setPc]
@[simp] theorem Warp.setPc_turnWords (w : Warp) (m : Mask) (f : Nat → Word64) : (w.setPc m f).turnWords = w.turnWords := by simp only [Warp.setPc]
@[simp] theorem Warp.setPc_held (w : Warp) (m : Mask) (f : Nat → Word64) : (w.setPc m f).held = w.held := by simp only [Warp.setPc]
@[simp] theorem Warp.setPc_wslot (w : Warp) (m : Mask) (f : Nat → Word64) : (w.setPc m f).wslot = w.wslot := by simp only [Warp.setPc]
@[simp] theorem Warp.setPc_region (w : Warp) (m : Mask) (f : Nat → Word64) : (w.setPc m f).region = w.region := by simp only [Warp.setPc]
@[simp] theorem Warp.setPc_opened (w : Warp) (m : Mask) (f : Nat → Word64) : (w.setPc m f).opened = w.opened := by simp only [Warp.setPc]
@[simp] theorem Warp.setPc_suppress (w : Warp) (m : Mask) (f : Nat → Word64) : (w.setPc m f).suppress = w.suppress := by simp only [Warp.setPc]
@[simp] theorem Warp.setPc_issued (w : Warp) (m : Mask) (f : Nat → Word64) : (w.setPc m f).issued = w.issued := by simp only [Warp.setPc]
@[simp] theorem Warp.setPc_vals (w : Warp) (m : Mask) (f : Nat → Word64) : (w.setPc m f).vals = w.vals := by simp only [Warp.setPc]
@[simp] theorem Warp.setPc_reads (w : Warp) (m : Mask) (f : Nat → Word64) : (w.setPc m f).reads = w.reads := by simp only [Warp.setPc]
@[simp] theorem Warp.setPc_traps (w : Warp) (m : Mask) (f : Nat → Word64) : (w.setPc m f).traps = w.traps := by simp only [Warp.setPc]

/-! ## `Warp.take` -/

@[simp] theorem Warp.take_vw (w : Warp) (e : HkEntry) : (w.take e).vw = w.vw := rfl
@[simp] theorem Warp.take_ident (w : Warp) (e : HkEntry) : (w.take e).ident = w.ident := rfl
@[simp] theorem Warp.take_vpc (w : Warp) (e : HkEntry) : (w.take e).vpc = w.vpc := rfl
@[simp] theorem Warp.take_v (w : Warp) (e : HkEntry) : (w.take e).v = w.v := rfl
@[simp] theorem Warp.take_s (w : Warp) (e : HkEntry) : (w.take e).s = w.s := rfl
@[simp] theorem Warp.take_p (w : Warp) (e : HkEntry) : (w.take e).p = w.p := rfl
@[simp] theorem Warp.take_acc (w : Warp) (e : HkEntry) : (w.take e).acc = w.acc := rfl
@[simp] theorem Warp.take_dc (w : Warp) (e : HkEntry) : (w.take e).dc = w.dc := rfl
@[simp] theorem Warp.take_spr (w : Warp) (e : HkEntry) : (w.take e).spr = w.spr := rfl
@[simp] theorem Warp.take_cfg (w : Warp) (e : HkEntry) : (w.take e).cfg = w.cfg := rfl
@[simp] theorem Warp.take_clause (w : Warp) (e : HkEntry) : (w.take e).clause = w.clause := rfl
@[simp] theorem Warp.take_mids (w : Warp) (e : HkEntry) : (w.take e).mids = w.mids := rfl
@[simp] theorem Warp.take_dbg (w : Warp) (e : HkEntry) : (w.take e).dbg = w.dbg := rfl
@[simp] theorem Warp.take_wins (w : Warp) (e : HkEntry) : (w.take e).wins = w.wins := rfl
@[simp] theorem Warp.take_pipe (w : Warp) (e : HkEntry) : (w.take e).pipe = w.pipe := rfl
@[simp] theorem Warp.take_husk (w : Warp) (e : HkEntry) : (w.take e).husk = w.husk ++ [e] := rfl
@[simp] theorem Warp.take_nseq (w : Warp) (e : HkEntry) : (w.take e).nseq = w.nseq + 1 := rfl
@[simp] theorem Warp.take_tx (w : Warp) (e : HkEntry) : (w.take e).tx = w.tx := rfl
@[simp] theorem Warp.take_slot (w : Warp) (e : HkEntry) : (w.take e).slot = w.slot := rfl
@[simp] theorem Warp.take_waits (w : Warp) (e : HkEntry) : (w.take e).waits = w.waits := rfl
@[simp] theorem Warp.take_readyAt (w : Warp) (e : HkEntry) : (w.take e).readyAt = w.readyAt := rfl
@[simp] theorem Warp.take_turnWords (w : Warp) (e : HkEntry) : (w.take e).turnWords = w.turnWords := rfl
@[simp] theorem Warp.take_held (w : Warp) (e : HkEntry) : (w.take e).held = w.held := rfl
@[simp] theorem Warp.take_wslot (w : Warp) (e : HkEntry) : (w.take e).wslot = w.wslot := rfl
@[simp] theorem Warp.take_region (w : Warp) (e : HkEntry) : (w.take e).region = w.region := rfl
@[simp] theorem Warp.take_opened (w : Warp) (e : HkEntry) : (w.take e).opened = w.opened := rfl
@[simp] theorem Warp.take_suppress (w : Warp) (e : HkEntry) : (w.take e).suppress = w.suppress := rfl
@[simp] theorem Warp.take_issued (w : Warp) (e : HkEntry) : (w.take e).issued = w.issued := rfl
@[simp] theorem Warp.take_vals (w : Warp) (e : HkEntry) : (w.take e).vals = w.vals := rfl
@[simp] theorem Warp.take_reads (w : Warp) (e : HkEntry) : (w.take e).reads = w.reads := rfl
@[simp] theorem Warp.take_traps (w : Warp) (e : HkEntry) : (w.take e).traps = w.traps := rfl

/-! ## `Warp.tick` -/

@[simp] theorem Warp.tick_vw (w : Warp) : (w.tick).vw = w.vw := rfl
@[simp] theorem Warp.tick_ident (w : Warp) : (w.tick).ident = w.ident := rfl
@[simp] theorem Warp.tick_vpc (w : Warp) : (w.tick).vpc = w.vpc := rfl
@[simp] theorem Warp.tick_v (w : Warp) : (w.tick).v = w.v := rfl
@[simp] theorem Warp.tick_s (w : Warp) : (w.tick).s = w.s := rfl
@[simp] theorem Warp.tick_p (w : Warp) : (w.tick).p = w.p := rfl
@[simp] theorem Warp.tick_acc (w : Warp) : (w.tick).acc = w.acc := rfl
@[simp] theorem Warp.tick_dc (w : Warp) : (w.tick).dc = w.dc := rfl
@[simp] theorem Warp.tick_spr (w : Warp) : (w.tick).spr = w.spr := rfl
@[simp] theorem Warp.tick_cfg (w : Warp) : (w.tick).cfg = w.cfg := rfl
@[simp] theorem Warp.tick_clause (w : Warp) : (w.tick).clause = w.clause := rfl
@[simp] theorem Warp.tick_mids (w : Warp) : (w.tick).mids = w.mids := rfl
@[simp] theorem Warp.tick_dbg (w : Warp) : (w.tick).dbg = w.dbg := rfl
@[simp] theorem Warp.tick_wins (w : Warp) : (w.tick).wins = w.wins := rfl
@[simp] theorem Warp.tick_pipe (w : Warp) : (w.tick).pipe = w.pipe := rfl
@[simp] theorem Warp.tick_husk (w : Warp) : (w.tick).husk = w.husk := rfl
@[simp] theorem Warp.tick_nseq (w : Warp) : (w.tick).nseq = w.nseq + 1 := rfl
@[simp] theorem Warp.tick_tx (w : Warp) : (w.tick).tx = w.tx := rfl
@[simp] theorem Warp.tick_slot (w : Warp) : (w.tick).slot = w.slot := rfl
@[simp] theorem Warp.tick_waits (w : Warp) : (w.tick).waits = w.waits := rfl
@[simp] theorem Warp.tick_readyAt (w : Warp) : (w.tick).readyAt = w.readyAt := rfl
@[simp] theorem Warp.tick_turnWords (w : Warp) : (w.tick).turnWords = w.turnWords := rfl
@[simp] theorem Warp.tick_held (w : Warp) : (w.tick).held = w.held := rfl
@[simp] theorem Warp.tick_wslot (w : Warp) : (w.tick).wslot = w.wslot := rfl
@[simp] theorem Warp.tick_region (w : Warp) : (w.tick).region = w.region := rfl
@[simp] theorem Warp.tick_opened (w : Warp) : (w.tick).opened = w.opened := rfl
@[simp] theorem Warp.tick_suppress (w : Warp) : (w.tick).suppress = w.suppress := rfl
@[simp] theorem Warp.tick_issued (w : Warp) : (w.tick).issued = w.issued := rfl
@[simp] theorem Warp.tick_vals (w : Warp) : (w.tick).vals = w.vals := rfl
@[simp] theorem Warp.tick_reads (w : Warp) : (w.tick).reads = w.reads := rfl
@[simp] theorem Warp.tick_traps (w : Warp) : (w.tick).traps = w.traps := rfl

/-! ## `Warp.openPipe` -/

@[simp] theorem Warp.openPipe_vw (w : Warp) (id la : Nat) (r : List (RegCls × Nat)) (wb : List WB) : (w.openPipe id la r wb).vw = w.vw := rfl
@[simp] theorem Warp.openPipe_ident (w : Warp) (id la : Nat) (r : List (RegCls × Nat)) (wb : List WB) : (w.openPipe id la r wb).ident = w.ident := rfl
@[simp] theorem Warp.openPipe_vpc (w : Warp) (id la : Nat) (r : List (RegCls × Nat)) (wb : List WB) : (w.openPipe id la r wb).vpc = w.vpc := rfl
@[simp] theorem Warp.openPipe_v (w : Warp) (id la : Nat) (r : List (RegCls × Nat)) (wb : List WB) : (w.openPipe id la r wb).v = w.v := rfl
@[simp] theorem Warp.openPipe_s (w : Warp) (id la : Nat) (r : List (RegCls × Nat)) (wb : List WB) : (w.openPipe id la r wb).s = w.s := rfl
@[simp] theorem Warp.openPipe_p (w : Warp) (id la : Nat) (r : List (RegCls × Nat)) (wb : List WB) : (w.openPipe id la r wb).p = w.p := rfl
@[simp] theorem Warp.openPipe_acc (w : Warp) (id la : Nat) (r : List (RegCls × Nat)) (wb : List WB) : (w.openPipe id la r wb).acc = w.acc := rfl
@[simp] theorem Warp.openPipe_dc (w : Warp) (id la : Nat) (r : List (RegCls × Nat)) (wb : List WB) : (w.openPipe id la r wb).dc = w.dc := rfl
@[simp] theorem Warp.openPipe_spr (w : Warp) (id la : Nat) (r : List (RegCls × Nat)) (wb : List WB) : (w.openPipe id la r wb).spr = w.spr := rfl
@[simp] theorem Warp.openPipe_cfg (w : Warp) (id la : Nat) (r : List (RegCls × Nat)) (wb : List WB) : (w.openPipe id la r wb).cfg = w.cfg := rfl
@[simp] theorem Warp.openPipe_clause (w : Warp) (id la : Nat) (r : List (RegCls × Nat)) (wb : List WB) : (w.openPipe id la r wb).clause = w.clause := rfl
@[simp] theorem Warp.openPipe_mids (w : Warp) (id la : Nat) (r : List (RegCls × Nat)) (wb : List WB) : (w.openPipe id la r wb).mids = w.mids := rfl
@[simp] theorem Warp.openPipe_dbg (w : Warp) (id la : Nat) (r : List (RegCls × Nat)) (wb : List WB) : (w.openPipe id la r wb).dbg = w.dbg := rfl
@[simp] theorem Warp.openPipe_wins (w : Warp) (id la : Nat) (r : List (RegCls × Nat)) (wb : List WB) : (w.openPipe id la r wb).wins = w.wins ++ [⟨id, la, r, false, true, false⟩] := rfl
@[simp] theorem Warp.openPipe_pipe (w : Warp) (id la : Nat) (r : List (RegCls × Nat)) (wb : List WB) : (w.openPipe id la r wb).pipe = w.pipe ++ [⟨id, wb⟩] := rfl
@[simp] theorem Warp.openPipe_husk (w : Warp) (id la : Nat) (r : List (RegCls × Nat)) (wb : List WB) : (w.openPipe id la r wb).husk = w.husk := rfl
@[simp] theorem Warp.openPipe_nseq (w : Warp) (id la : Nat) (r : List (RegCls × Nat)) (wb : List WB) : (w.openPipe id la r wb).nseq = w.nseq := rfl
@[simp] theorem Warp.openPipe_tx (w : Warp) (id la : Nat) (r : List (RegCls × Nat)) (wb : List WB) : (w.openPipe id la r wb).tx = w.tx := rfl
@[simp] theorem Warp.openPipe_slot (w : Warp) (id la : Nat) (r : List (RegCls × Nat)) (wb : List WB) : (w.openPipe id la r wb).slot = w.slot := rfl
@[simp] theorem Warp.openPipe_waits (w : Warp) (id la : Nat) (r : List (RegCls × Nat)) (wb : List WB) : (w.openPipe id la r wb).waits = w.waits := rfl
@[simp] theorem Warp.openPipe_readyAt (w : Warp) (id la : Nat) (r : List (RegCls × Nat)) (wb : List WB) : (w.openPipe id la r wb).readyAt = w.readyAt := rfl
@[simp] theorem Warp.openPipe_turnWords (w : Warp) (id la : Nat) (r : List (RegCls × Nat)) (wb : List WB) : (w.openPipe id la r wb).turnWords = w.turnWords := rfl
@[simp] theorem Warp.openPipe_held (w : Warp) (id la : Nat) (r : List (RegCls × Nat)) (wb : List WB) : (w.openPipe id la r wb).held = w.held := rfl
@[simp] theorem Warp.openPipe_wslot (w : Warp) (id la : Nat) (r : List (RegCls × Nat)) (wb : List WB) : (w.openPipe id la r wb).wslot = w.wslot := rfl
@[simp] theorem Warp.openPipe_region (w : Warp) (id la : Nat) (r : List (RegCls × Nat)) (wb : List WB) : (w.openPipe id la r wb).region = w.region := rfl
@[simp] theorem Warp.openPipe_opened (w : Warp) (id la : Nat) (r : List (RegCls × Nat)) (wb : List WB) : (w.openPipe id la r wb).opened = w.opened := rfl
@[simp] theorem Warp.openPipe_suppress (w : Warp) (id la : Nat) (r : List (RegCls × Nat)) (wb : List WB) : (w.openPipe id la r wb).suppress = w.suppress := rfl
@[simp] theorem Warp.openPipe_issued (w : Warp) (id la : Nat) (r : List (RegCls × Nat)) (wb : List WB) : (w.openPipe id la r wb).issued = w.issued := rfl
@[simp] theorem Warp.openPipe_vals (w : Warp) (id la : Nat) (r : List (RegCls × Nat)) (wb : List WB) : (w.openPipe id la r wb).vals = w.vals := rfl
@[simp] theorem Warp.openPipe_reads (w : Warp) (id la : Nat) (r : List (RegCls × Nat)) (wb : List WB) : (w.openPipe id la r wb).reads = w.reads := rfl
@[simp] theorem Warp.openPipe_traps (w : Warp) (id la : Nat) (r : List (RegCls × Nat)) (wb : List WB) : (w.openPipe id la r wb).traps = w.traps := rfl

/-! ## `Warp.openHusk` -/

@[simp] theorem Warp.openHusk_vw (w : Warp) (q : BitVec 16) (la : Nat) (r : List (RegCls × Nat)) : (w.openHusk q la r).vw = w.vw := rfl
@[simp] theorem Warp.openHusk_ident (w : Warp) (q : BitVec 16) (la : Nat) (r : List (RegCls × Nat)) : (w.openHusk q la r).ident = w.ident := rfl
@[simp] theorem Warp.openHusk_vpc (w : Warp) (q : BitVec 16) (la : Nat) (r : List (RegCls × Nat)) : (w.openHusk q la r).vpc = w.vpc := rfl
@[simp] theorem Warp.openHusk_v (w : Warp) (q : BitVec 16) (la : Nat) (r : List (RegCls × Nat)) : (w.openHusk q la r).v = w.v := rfl
@[simp] theorem Warp.openHusk_s (w : Warp) (q : BitVec 16) (la : Nat) (r : List (RegCls × Nat)) : (w.openHusk q la r).s = w.s := rfl
@[simp] theorem Warp.openHusk_p (w : Warp) (q : BitVec 16) (la : Nat) (r : List (RegCls × Nat)) : (w.openHusk q la r).p = w.p := rfl
@[simp] theorem Warp.openHusk_acc (w : Warp) (q : BitVec 16) (la : Nat) (r : List (RegCls × Nat)) : (w.openHusk q la r).acc = w.acc := rfl
@[simp] theorem Warp.openHusk_dc (w : Warp) (q : BitVec 16) (la : Nat) (r : List (RegCls × Nat)) : (w.openHusk q la r).dc = w.dc := rfl
@[simp] theorem Warp.openHusk_spr (w : Warp) (q : BitVec 16) (la : Nat) (r : List (RegCls × Nat)) : (w.openHusk q la r).spr = w.spr := rfl
@[simp] theorem Warp.openHusk_cfg (w : Warp) (q : BitVec 16) (la : Nat) (r : List (RegCls × Nat)) : (w.openHusk q la r).cfg = w.cfg := rfl
@[simp] theorem Warp.openHusk_clause (w : Warp) (q : BitVec 16) (la : Nat) (r : List (RegCls × Nat)) : (w.openHusk q la r).clause = w.clause := rfl
@[simp] theorem Warp.openHusk_mids (w : Warp) (q : BitVec 16) (la : Nat) (r : List (RegCls × Nat)) : (w.openHusk q la r).mids = w.mids := rfl
@[simp] theorem Warp.openHusk_dbg (w : Warp) (q : BitVec 16) (la : Nat) (r : List (RegCls × Nat)) : (w.openHusk q la r).dbg = w.dbg := rfl
@[simp] theorem Warp.openHusk_wins (w : Warp) (q : BitVec 16) (la : Nat) (r : List (RegCls × Nat)) : (w.openHusk q la r).wins = w.wins ++ [⟨q.toNat, la, r, false, false, false⟩] := rfl
@[simp] theorem Warp.openHusk_pipe (w : Warp) (q : BitVec 16) (la : Nat) (r : List (RegCls × Nat)) : (w.openHusk q la r).pipe = w.pipe := rfl
@[simp] theorem Warp.openHusk_husk (w : Warp) (q : BitVec 16) (la : Nat) (r : List (RegCls × Nat)) : (w.openHusk q la r).husk = w.husk := rfl
@[simp] theorem Warp.openHusk_nseq (w : Warp) (q : BitVec 16) (la : Nat) (r : List (RegCls × Nat)) : (w.openHusk q la r).nseq = w.nseq := rfl
@[simp] theorem Warp.openHusk_tx (w : Warp) (q : BitVec 16) (la : Nat) (r : List (RegCls × Nat)) : (w.openHusk q la r).tx = w.tx := rfl
@[simp] theorem Warp.openHusk_slot (w : Warp) (q : BitVec 16) (la : Nat) (r : List (RegCls × Nat)) : (w.openHusk q la r).slot = w.slot := rfl
@[simp] theorem Warp.openHusk_waits (w : Warp) (q : BitVec 16) (la : Nat) (r : List (RegCls × Nat)) : (w.openHusk q la r).waits = w.waits := rfl
@[simp] theorem Warp.openHusk_readyAt (w : Warp) (q : BitVec 16) (la : Nat) (r : List (RegCls × Nat)) : (w.openHusk q la r).readyAt = w.readyAt := rfl
@[simp] theorem Warp.openHusk_turnWords (w : Warp) (q : BitVec 16) (la : Nat) (r : List (RegCls × Nat)) : (w.openHusk q la r).turnWords = w.turnWords := rfl
@[simp] theorem Warp.openHusk_held (w : Warp) (q : BitVec 16) (la : Nat) (r : List (RegCls × Nat)) : (w.openHusk q la r).held = w.held := rfl
@[simp] theorem Warp.openHusk_wslot (w : Warp) (q : BitVec 16) (la : Nat) (r : List (RegCls × Nat)) : (w.openHusk q la r).wslot = w.wslot := rfl
@[simp] theorem Warp.openHusk_region (w : Warp) (q : BitVec 16) (la : Nat) (r : List (RegCls × Nat)) : (w.openHusk q la r).region = w.region := rfl
@[simp] theorem Warp.openHusk_opened (w : Warp) (q : BitVec 16) (la : Nat) (r : List (RegCls × Nat)) : (w.openHusk q la r).opened = w.opened := rfl
@[simp] theorem Warp.openHusk_suppress (w : Warp) (q : BitVec 16) (la : Nat) (r : List (RegCls × Nat)) : (w.openHusk q la r).suppress = w.suppress := rfl
@[simp] theorem Warp.openHusk_issued (w : Warp) (q : BitVec 16) (la : Nat) (r : List (RegCls × Nat)) : (w.openHusk q la r).issued = w.issued := rfl
@[simp] theorem Warp.openHusk_vals (w : Warp) (q : BitVec 16) (la : Nat) (r : List (RegCls × Nat)) : (w.openHusk q la r).vals = w.vals := rfl
@[simp] theorem Warp.openHusk_reads (w : Warp) (q : BitVec 16) (la : Nat) (r : List (RegCls × Nat)) : (w.openHusk q la r).reads = w.reads := rfl
@[simp] theorem Warp.openHusk_traps (w : Warp) (q : BitVec 16) (la : Nat) (r : List (RegCls × Nat)) : (w.openHusk q la r).traps = w.traps := rfl

/-! ## `Warp.trapRegs` -/

@[simp] theorem Warp.trapRegs_vw (w : Warp) (t : TrapAt) : (w.trapRegs t).vw = w.vw := rfl
@[simp] theorem Warp.trapRegs_ident (w : Warp) (t : TrapAt) : (w.trapRegs t).ident = w.ident := rfl
@[simp] theorem Warp.trapRegs_vpc (w : Warp) (t : TrapAt) : (w.trapRegs t).vpc = w.vpc := rfl
@[simp] theorem Warp.trapRegs_v (w : Warp) (t : TrapAt) : (w.trapRegs t).v = w.v := rfl
@[simp] theorem Warp.trapRegs_s (w : Warp) (t : TrapAt) : (w.trapRegs t).s = w.s := rfl
@[simp] theorem Warp.trapRegs_p (w : Warp) (t : TrapAt) : (w.trapRegs t).p = w.p := rfl
@[simp] theorem Warp.trapRegs_acc (w : Warp) (t : TrapAt) : (w.trapRegs t).acc = w.acc := rfl
@[simp] theorem Warp.trapRegs_dc (w : Warp) (t : TrapAt) : (w.trapRegs t).dc = w.dc := rfl
@[simp] theorem Warp.trapRegs_spr (w : Warp) (t : TrapAt) : (w.trapRegs t).spr = { w.spr with tcause := t.tcause w.trapMode, taddr := BitVec.ofNat 64 t.addr, tlanes := t.lanes } := rfl
@[simp] theorem Warp.trapRegs_cfg (w : Warp) (t : TrapAt) : (w.trapRegs t).cfg = w.cfg := rfl
@[simp] theorem Warp.trapRegs_clause (w : Warp) (t : TrapAt) : (w.trapRegs t).clause = w.clause := rfl
@[simp] theorem Warp.trapRegs_mids (w : Warp) (t : TrapAt) : (w.trapRegs t).mids = w.mids := rfl
@[simp] theorem Warp.trapRegs_dbg (w : Warp) (t : TrapAt) : (w.trapRegs t).dbg = w.dbg := rfl
@[simp] theorem Warp.trapRegs_wins (w : Warp) (t : TrapAt) : (w.trapRegs t).wins = w.wins := rfl
@[simp] theorem Warp.trapRegs_pipe (w : Warp) (t : TrapAt) : (w.trapRegs t).pipe = w.pipe := rfl
@[simp] theorem Warp.trapRegs_husk (w : Warp) (t : TrapAt) : (w.trapRegs t).husk = w.husk := rfl
@[simp] theorem Warp.trapRegs_nseq (w : Warp) (t : TrapAt) : (w.trapRegs t).nseq = w.nseq := rfl
@[simp] theorem Warp.trapRegs_tx (w : Warp) (t : TrapAt) : (w.trapRegs t).tx = w.tx := rfl
@[simp] theorem Warp.trapRegs_slot (w : Warp) (t : TrapAt) : (w.trapRegs t).slot = w.slot := rfl
@[simp] theorem Warp.trapRegs_waits (w : Warp) (t : TrapAt) : (w.trapRegs t).waits = w.waits := rfl
@[simp] theorem Warp.trapRegs_readyAt (w : Warp) (t : TrapAt) : (w.trapRegs t).readyAt = w.readyAt := rfl
@[simp] theorem Warp.trapRegs_turnWords (w : Warp) (t : TrapAt) : (w.trapRegs t).turnWords = w.turnWords := rfl
@[simp] theorem Warp.trapRegs_held (w : Warp) (t : TrapAt) : (w.trapRegs t).held = w.held := rfl
@[simp] theorem Warp.trapRegs_wslot (w : Warp) (t : TrapAt) : (w.trapRegs t).wslot = w.wslot := rfl
@[simp] theorem Warp.trapRegs_region (w : Warp) (t : TrapAt) : (w.trapRegs t).region = w.region := rfl
@[simp] theorem Warp.trapRegs_opened (w : Warp) (t : TrapAt) : (w.trapRegs t).opened = w.opened := rfl
@[simp] theorem Warp.trapRegs_suppress (w : Warp) (t : TrapAt) : (w.trapRegs t).suppress = w.suppress := rfl
@[simp] theorem Warp.trapRegs_issued (w : Warp) (t : TrapAt) : (w.trapRegs t).issued = w.issued := rfl
@[simp] theorem Warp.trapRegs_vals (w : Warp) (t : TrapAt) : (w.trapRegs t).vals = w.vals := rfl
@[simp] theorem Warp.trapRegs_reads (w : Warp) (t : TrapAt) : (w.trapRegs t).reads = w.reads := rfl
@[simp] theorem Warp.trapRegs_traps (w : Warp) (t : TrapAt) : (w.trapRegs t).traps = w.traps := rfl

end Sys2Proof.Machine
end

