-- ==== Sys2Proof/Laws/Issue.lean ====
section
/-! SUPPORT. What issuing one word does (R31, R183, R195, R209, R280): the advance past it, the clause's end, and
`State.issue` when the word is ready and its effect is to go on. -/

namespace Sys2Proof.Machine

/-! ## Bits and lanes -/

theorem getD_ofBoolListLE (l : List Bool) (i : Nat) : (BitVec.ofBoolListLE l).getLsbD i = l.getD i false := by
  induction l generalizing i with
  | nil => simp [BitVec.ofBoolListLE]
  | cons b r ih =>
    rw [BitVec.ofBoolListLE, BitVec.getLsbD_concat]
    cases i with
    | zero => simp
    | succ n => simp [ih]

theorem getLsbD_bitsOf (n : Nat) (f : Nat → Bool) (i : Nat) : (bitsOf n f).getLsbD i = (decide (i < n) && f i) := by
  simp only [bitsOf, BitVec.getLsbD_setWidth, getD_ofBoolListLE]
  by_cases h : i < n <;> simp [h]

@[simp] theorem has_maskOf (f : Nat → Bool) (i : Nat) : has (maskOf f) i = (decide (i < 32) && f i) := by
  simp only [has, maskOf, getLsbD_bitsOf]

@[simp] theorem has_and (a b : Mask) (i : Nat) : has (a &&& b) i = (has a i && has b i) := by simp [has]
@[simp] theorem has_or (a b : Mask) (i : Nat) : has (a ||| b) i = (has a i || has b i) := by simp [has]
@[simp] theorem has_not (a : Mask) (i : Nat) : has (~~~a) i = (decide (i < 32) && !has a i) := by simp [has]
@[simp] theorem has_zero (i : Nat) : has 0 i = false := by simp [has]
@[simp] theorem has_ones (i : Nat) : has (BitVec.allOnes 32) i = decide (i < 32) := BitVec.getLsbD_allOnes
/-- The same for the numeral that `simp` makes of all ones. -/
@[simp] theorem has_ones_lit (i : Nat) : has 4294967295#32 i = decide (i < 32) := has_ones i
theorem has_lt {m : Mask} {i : Nat} (h : has m i = true) : i < 32 := by
  rcases Nat.lt_or_ge i 32 with h' | h'
  · exact h'
  · simp [has, BitVec.getLsbD_of_ge m i h'] at h

@[simp] theorem get_of (f : Nat → Word32) (i : Nat) (h : i < 32) : Lanes.get (Lanes.of f) i = f i := by
  simp [Lanes.get, Lanes.of, h]

@[simp] theorem get_merge (m : Mask) (x y : Lanes) (i : Nat) (h : i < 32) :
    Lanes.get (Lanes.merge m x y) i = if has m i then Lanes.get x i else Lanes.get y i := by
  simp [Lanes.merge, h]

@[simp] theorem lane64_of64 (f : Nat → Word64) (i : Nat) : lane64 (of64 f) i = if i < 32 then f i else 0 := by
  by_cases h : i < 32 <;> simp [lane64, of64, h]

theorem mem_lanesOf {m : Mask} {i : Nat} : i ∈ lanesOf m ↔ has m i = true := by
  simp only [lanesOf, List.mem_filter, List.mem_range, and_iff_right_iff_imp]
  exact has_lt

/-! ## Warps by name -/

theorem find_updIf {α : Type} {p q : α → Bool} {f : α → α} (l : List α) (h : ∀ x, q (f x) = q x ∨ p x = false) :
    (updIf p f l).find? q = (l.find? q).map fun x => if p x then f x else x := by
  induction l with
  | nil => rfl
  | cons y r ih =>
    have e : q (if p y then f y else y) = q y := by
      rcases h y with e | e <;> by_cases hp : p y <;> simp_all
    simp only [updIf, List.map_cons, List.find?_cons] at ih ⊢
    rw [e]
    cases q y <;> simp [ih]

theorem find_setWarp (l : List Warp) (w : Warp) (v : Nat) :
    (updIf (·.vw == w.vw) (fun _ => w) l).find? (·.vw == v) =
      (l.find? (·.vw == v)).map fun x => if v = w.vw then w else x := by
  induction l with
  | nil => rfl
  | cons y r ih =>
    simp only [updIf, List.map_cons] at ih ⊢
    by_cases e : y.vw = w.vw
    · by_cases hv : w.vw = v
      · simp [e, hv]
      · simp only [e, beq_self_eq_true, if_true]
        rw [List.find?_cons_of_neg (by simpa using hv), List.find?_cons_of_neg (by simpa [e] using hv), ih]
    · by_cases hv : y.vw = v
      · have : v ≠ w.vw := fun q => e (hv.trans q)
        simp [e, hv, this]
      · simp only [beq_iff_eq, e, if_false]
        rw [List.find?_cons_of_neg (by simpa using hv), List.find?_cons_of_neg (by simpa using hv)]
        simpa using ih

theorem State.warp_setWarp_ne (s : State) (w : Warp) {v : Nat} (h : v ≠ w.vw) : (s.setWarp w).warp v = s.warp v := by
  simp [State.warp, find_setWarp, h]

theorem State.warp_setWarp (s : State) (w x : Warp) (h : s.warp w.vw = some x) : (s.setWarp w).warp w.vw = some w := by
  simp only [State.warp] at h
  simp [State.warp, find_setWarp, h]

theorem State.issuer_warp {s : State} {w : Warp} (h : s.issuer = some w) : s.warp w.vw = some w := by
  unfold State.issuer at h
  split at h
  · contradiction
  · split at h
    · contradiction
    · split at h
      · cases h
        rename_i v hw _
        have e := hw
        simp only [State.warp] at e
        have := List.find?_some e
        simp only [beq_iff_eq] at this
        rw [this]; exact hw
      · contradiction

/-! ## The advance past a word -/

/-- Registers and other groups of a warp that issuing leaves alone. -/
structure Warp.Kept (w t : Warp) : Prop where
  vw : t.vw = w.vw
  ident : t.ident = w.ident
  v : t.v = w.v
  s : t.s = w.s
  acc : t.acc = w.acc
  dc : t.dc = w.dc
  spr : t.spr = w.spr
  cfg : t.cfg = w.cfg
  pipe : t.pipe = w.pipe
  husk : t.husk = w.husk
  nseq : t.nseq = w.nseq
  region : t.region = w.region
  slot : t.slot = w.slot
  waits : t.waits = w.waits

theorem Warp.Kept.trans {a b c : Warp} (h : a.Kept b) (k : b.Kept c) : a.Kept c := by
  constructor <;> first
    | exact k.vw.trans h.vw | exact k.ident.trans h.ident | exact k.v.trans h.v | exact k.s.trans h.s
    | exact k.acc.trans h.acc | exact k.dc.trans h.dc | exact k.spr.trans h.spr | exact k.cfg.trans h.cfg
    | exact k.pipe.trans h.pipe | exact k.husk.trans h.husk | exact k.nseq.trans h.nseq
    | exact k.region.trans h.region | exact k.slot.trans h.slot | exact k.waits.trans h.waits

theorem Warp.advance_kept (w : Warp) : w.Kept w.advance := by
  constructor <;> simp only [Warp.advance, Warp.setPc, Warp.countWord]

@[simp] theorem Warp.advance_p (w : Warp) : w.advance.p = w.p := by simp only [Warp.advance, Warp.setPc, Warp.countWord]
@[simp] theorem Warp.advance_tx (w : Warp) : w.advance.tx = w.tx := by simp only [Warp.advance, Warp.setPc, Warp.countWord]

theorem Warp.advance_pcOf (w : Warp) (i : Nat) :
    w.advance.pcOf i = if has w.exec i then BitVec.ofNat 64 w.nextAddr else w.pcOf i := by
  simp only [Warp.pcOf, Warp.advance, Warp.setPc, Warp.nextAddr, lane64_of64]
  by_cases h : i < 32
  · simp [h, Warp.countWord, Warp.pcOf]
  · have : has w.exec i ≠ true := fun c => h (has_lt c)
    simp [h, this, lane64]

/-! ## Doomed lanes at the clause's end (R280) -/

theorem Warp.pset_kept (w : Warp) (n : Nat) (m x : Mask) : w.Kept (w.pset n m x) := by
  unfold Warp.pset
  split
  · constructor <;> rfl
  · split <;> constructor <;> rfl

@[simp] theorem Warp.pset_tx (w : Warp) (n : Nat) (m x : Mask) : (w.pset n m x).tx = w.tx := by
  unfold Warp.pset; split
  · rfl
  · split <;> rfl

@[simp] theorem Warp.pset_vpc (w : Warp) (n : Nat) (m x : Mask) : (w.pset n m x).vpc = w.vpc := by
  unfold Warp.pset; split
  · rfl
  · split <;> rfl

theorem Warp.pget_pset (w : Warp) (n k : Nat) (m x : Mask) :
    (w.pset n m x).pget k = if k = n ∧ n ≠ 0 ∧ n < 16 then (x &&& m) ||| (w.pget k &&& ~~~m) else w.pget k := by
  unfold Warp.pset Warp.pget
  by_cases h0 : n = 0
  · subst h0; simp
  · by_cases h16 : n < 16
    · by_cases hk : k = n
      · subst hk; simp [h0, h16]
      · simp only [h0, h16, hk, dif_pos, if_false, false_and]
        by_cases hk0 : k = 0
        · simp [hk0]
        · by_cases hk16 : k < 16
          · simp [hk0, hk16, Vector.getElem_set, Ne.symm hk]
          · simp [hk0, hk16]
    · simp [h0, h16]

/-- The status bits of the lanes of a list clear; nothing else changes. -/
theorem Warp.clearStatus (l : List Nat) (w : Warp) :
    let t := l.foldl (fun w i => w.pset (if h : i < 32 then w.tx.pred[i].toNat else 0) (maskOf (· == i)) 0) w
    w.Kept t ∧ t.tx = w.tx ∧ t.vpc = w.vpc ∧ ∀ n i, i ∉ l → has (t.pget n) i = has (w.pget n) i := by
  induction l generalizing w with
  | nil => exact ⟨⟨rfl, rfl, rfl, rfl, rfl, rfl, rfl, rfl, rfl, rfl, rfl, rfl, rfl, rfl⟩, rfl, rfl, fun _ _ _ => rfl⟩
  | cons a r ih =>
    simp only [List.foldl_cons]
    generalize hn : (if h : a < 32 then w.tx.pred[a].toNat else 0) = n
    obtain ⟨hk, ht, hv, hp⟩ := ih (w.pset n (maskOf (· == a)) 0)
    refine ⟨(w.pset_kept ..).trans hk, by simpa using ht, by simpa using hv, fun k i hi => ?_⟩
    rw [hp k i (fun c => hi (List.mem_cons_of_mem _ c)), Warp.pget_pset]
    split
    · have hne : i ≠ a := fun c => hi (by simp [c])
      have hlt : has (w.pget k) i = true → i < 32 := has_lt
      cases hb : has (w.pget k) i <;> simp [hb, hne]
      exact hlt hb
    · rfl

/-- `Warp.undoom` is the clearing of status bits, and then the resume addresses. -/
theorem Warp.undoom_eq (w : Warp) (m : Mask) : ∃ x : Warp,
    w.undoom m = { x.setPc (m &&& w.tx.doomed) (fun i => lane64 x.tx.resume i) with
      tx := { x.tx with doomed := x.tx.doomed &&& ~~~(m &&& w.tx.doomed) } } ∧
    w.Kept x ∧ x.tx = w.tx ∧ x.vpc = w.vpc ∧
    ∀ n i, has (m &&& w.tx.doomed) i = false → has (x.pget n) i = has (w.pget n) i := by
  obtain ⟨hk, ht, hv, hp⟩ := Warp.clearStatus (lanesOf (m &&& w.tx.doomed)) w
  exact ⟨_, rfl, hk, ht, hv, fun n i h => hp n i (by rw [mem_lanesOf, h]; decide)⟩

theorem Warp.undoom_pget (w : Warp) (m : Mask) (n i : Nat) (h : has w.tx.doomed i = false) :
    has ((w.undoom m).pget n) i = has (w.pget n) i := by
  obtain ⟨x, e, -, -, -, hp⟩ := w.undoom_eq m
  rw [e, ← hp n i (by simp [h])]
  simp only [Warp.pget, Warp.setPc]

theorem Warp.undoom_pcOf (w : Warp) (m : Mask) (i : Nat) (h : has w.tx.doomed i = false) :
    (w.undoom m).pcOf i = w.pcOf i := by
  obtain ⟨x, e, -, -, hv, -⟩ := w.undoom_eq m
  rw [e]
  simp only [Warp.pcOf, Warp.setPc, lane64_of64, has_and, h, Bool.and_false, Bool.false_eq_true, if_false, hv]
  by_cases hi : i < 32 <;> simp [hi, lane64]

/-- A warp after the end of a clause, and perhaps of its turn: all registers stand but the status bits and `vpc` of doomed
lanes. -/
structure Warp.Ended (w t : Warp) : Prop where
  vw : t.vw = w.vw
  ident : t.ident = w.ident
  v : t.v = w.v
  s : t.s = w.s
  acc : t.acc = w.acc
  dc : t.dc = w.dc
  spr : t.spr = w.spr
  cfg : t.cfg = w.cfg
  pipe : t.pipe = w.pipe
  husk : t.husk = w.husk
  nseq : t.nseq = w.nseq
  waits : t.waits = w.waits
  p : ∀ n i, has w.tx.doomed i = false → has (t.pget n) i = has (w.pget n) i
  pc : ∀ i, has w.tx.doomed i = false → t.pcOf i = w.pcOf i
  tx : t.tx.inTx = w.tx.inTx ∧ t.tx.reads = w.tx.reads ∧ t.tx.writes = w.tx.writes

theorem Warp.Ended.refl (w : Warp) : w.Ended w := by constructor <;> simp

theorem Warp.Ended.endTurn {w t : Warp} (h : w.Ended t) : w.Ended t.endTurn :=
  ⟨h.vw, h.ident, h.v, h.s, h.acc, h.dc, h.spr, h.cfg, h.pipe, h.husk, h.nseq, h.waits, h.p, h.pc, h.tx⟩

theorem Warp.undoom_ended (w : Warp) (m : Mask) : w.Ended (w.undoom m) := by
  have hp := fun n i => w.undoom_pget m n i
  have hc := fun i => w.undoom_pcOf m i
  obtain ⟨x, e, h, ht, -, -⟩ := w.undoom_eq m
  rw [e] at hp hc ⊢
  constructor
  case p => exact hp
  case pc => exact hc
  all_goals simp only [Warp.setPc, ht, h.vw, h.ident, h.v, h.s, h.acc, h.dc, h.spr, h.cfg, h.pipe, h.husk, h.nseq, h.waits,
    and_self]

theorem Warp.clauseEnd_ended (w : Warp) : w.Ended w.clauseEnd := by
  unfold Warp.clauseEnd
  by_cases hi : w.clause.inside
  · simpa [hi] using Warp.Ended.refl w
  · simp only [hi, Bool.false_eq_true, if_false]
    by_cases ht : w.trapMode
    · simp only [ht, if_true]
      split
      · exact (Warp.Ended.refl w).endTurn
      · exact Warp.Ended.refl w
    · simp only [ht, Bool.false_eq_true, if_false]
      split
      · exact (w.undoom_ended _).endTurn
      · exact w.undoom_ended _

/-! ## `State.issue` -/

/-- A ready word whose effect is to go on leaves the machine that its effect gives, with its warp put back at the clause's
end. -/
theorem State.issue_go {s s1 : State} {w w1 : Warp} {i : Instr} {g : Guard} {src : List Src} {stop : Bool}
    {f : State → Warp → Mask → Res} (h : Ready s w i g src) (hf : f s w.advance (w.performing g) = .go s1 w1 stop) :
    s.issue i g src f = .next (s1.putBack (if stop then w1.clauseEnd.endTurn else w1.clauseEnd)) := by
  obtain ⟨-, hi, hh, hp, hc, hs, hP, -⟩ := h
  simp only [Warp.performing] at hc hP hf hp
  simp only [State.issue, hi, State.issueAt, hh, hp, hc, hs, hP, hf, Bool.or_self, Bool.false_eq_true, if_false]

/-- The warp put back is the one found, and no other warp changes. -/
theorem State.putBack_warp (s : State) (w x : Warp) (h : s.warp w.vw = some x) : (s.putBack w).warp w.vw = some w := by
  have := s.warp_setWarp w x h
  simpa [State.warp, State.putBack] using this

theorem State.putBack_warp_ne (s : State) (w : Warp) {v : Nat} (h : v ≠ w.vw) : (s.putBack w).warp v = s.warp v := by
  have := s.warp_setWarp_ne w h
  simpa [State.warp, State.putBack] using this

theorem State.putBack_onlyWarp (s s1 : State) (w : Warp) (k : Nat) (hk : w.vw = k)
    (h : s1.warps = s.warps ∧ s1.mem = s.mem ∧ s1.sheaves = s.sheaves ∧ s1.launches = s.launches ∧ s1.cmd = s.cmd ∧
      s1.cores = s.cores ∧ s1.streams = s.streams ∧ s1.io = s.io) : s.OnlyWarp (s1.putBack w) k := by
  obtain ⟨hw, hm, hs, hl, hc, hr, ht, hio⟩ := h
  refine ⟨⟨by simp [hm], by simp [hs], by simp [hm]⟩, fun v hv => ?_, by simp [hl], by simp [hc], by simp [hr],
    by simp [ht], by simp [hio]⟩
  rw [State.putBack_warp_ne _ _ (by simpa [hk] using hv)]
  simp [State.warp, hw]

/-- A ready word that goes on with warp `w1` in the same machine leaves what `w1` holds. -/
theorem State.issue_leaves {s s1 : State} {w w1 : Warp} {i : Instr} {g : Guard} {src : List Src} {stop : Bool}
    {f : State → Warp → Mask → Res} {k : Touch} {φ : Warp → Prop}
    (he : exec i s = s.issue i g src f) (h : Ready s w i g src)
    (hf : f s w.advance (w.performing g) = .go s1 w1 stop)
    (hs : s1.warps = s.warps ∧ s1.mem = s.mem ∧ s1.sheaves = s.sheaves ∧ s1.launches = s.launches ∧ s1.cmd = s.cmd ∧
      s1.cores = s.cores ∧ s1.streams = s.streams ∧ s1.io = s.io)
    (hv : w1.vw = w.vw) (hk : ∀ t, w1.Ended t → w.Only t k) (hφ : ∀ t, w1.Ended t → φ t) : Leaves s w i k φ := by
  have hend : w1.Ended (if stop then w1.clauseEnd.endTurn else w1.clauseEnd) := by
    cases stop
    · exact w1.clauseEnd_ended
    · exact w1.clauseEnd_ended.endTurn
  have hvw : (if stop then w1.clauseEnd.endTurn else w1.clauseEnd).vw = w.vw := hend.vw.trans hv
  refine ⟨_, _, he.trans (State.issue_go h hf), ?_, hk _ hend, ?_, hφ _ hend⟩
  · rw [← hvw]
    apply State.putBack_warp _ _ w
    rw [hvw]
    have := State.issuer_warp h.2.1
    simpa [State.warp, hs.1] using this
  · exact State.putBack_onlyWarp _ _ _ _ hvw hs

end Sys2Proof.Machine
end

