-- ==== Sys2Proof/Laws/Memory.lean ====
section
/-! SUPPORT. Sparse bytes: a write is read back and leaves every other byte alone, and every operation over memory keeps the
canonical form (log entry 2). -/

namespace Sys2Proof.Machine

/-! ## Read after write -/

theorem Bytes.get_put (m : Bytes) (a k : Nat) (b : Byte) (h : m.wf = true) :
    (m.put a b).get k = if k = a then b else m.get k := by
  induction m with
  | nil =>
    by_cases hb : b = Bytes.unlisted <;> by_cases hk : k = a
    · simp [Bytes.put, Bytes.get, hb]
    · simp [Bytes.put, Bytes.get, hb, hk]
    · simp [Bytes.put, Bytes.get, hb, hk]
    · simp [Bytes.put, Bytes.get, hb, hk, Ne.symm hk]
  | cons c r ih =>
    have hr : Bytes.wf r = true := by cases r <;> simp_all [Bytes.wf]
    have low : ∀ x, x ≤ c.1 → Bytes.get r x = Bytes.unlisted := by
      clear ih
      induction r generalizing c with
      | nil => intros; rfl
      | cons d r ih =>
        intro x hx
        simp only [Bytes.wf, Bool.and_eq_true, decide_eq_true_eq] at h
        rw [Bytes.get, if_neg (by omega)]
        exact ih d (by simpa using h.2) (by cases r <;> simp_all [Bytes.wf]) x (by omega)
    simp only [Bytes.put]
    split
    · by_cases hb : b = Bytes.unlisted <;> by_cases hk : k = a
      · subst hk; rw [if_pos hb, Bytes.get, if_neg (by omega), low k (by omega), if_pos rfl, hb]
      · simp [hb, hk]
      · simp [hb, hk, Bytes.get]
      · simp [hb, hk, Bytes.get, Ne.symm hk]
    · split
      · rename_i _ e
        by_cases hb : b = Bytes.unlisted <;> by_cases hk : k = a
        · subst hk; rw [if_pos hb, if_pos rfl, low k (by omega), hb]
        · rw [if_pos hb, if_neg hk, Bytes.get, if_neg (by omega)]
        · simp [hb, hk, Bytes.get]
        · rw [if_neg hb, if_neg hk, Bytes.get, if_neg (Ne.symm hk), Bytes.get, if_neg (by omega)]
      · rename_i _ e
        simp only [Bytes.get]
        by_cases hc : c.1 = k
        · rw [if_pos hc, if_neg (by omega), if_pos hc]
        · rw [if_neg hc, if_neg hc, ih hr]

/-! ## Canonical form -/

theorem Bytes.wf_tail {c : Host.Cell} {r : Bytes} (h : Bytes.wf (c :: r) = true) : Bytes.wf r = true := by
  cases r <;> simp_all [Bytes.wf]

/-- A list stays canonical under a new least entry. -/
theorem Bytes.wf_cons {c : Host.Cell} {r : Bytes} (hc : c.2 ≠ Bytes.unlisted) (h : Bytes.wf r = true)
    (lt : ∀ d ∈ r.head?, c.1 < d.1) : Bytes.wf (c :: r) = true := by
  cases r <;> simp_all [Bytes.wf]

/-- Where the first entry of a list stands after a write. -/
theorem Bytes.head_put (m : Bytes) (a : Nat) (b : Byte) (h : m.wf = true) (n : Nat) (hn : n < a) (hm : ∀ d ∈ m.head?, n < d.1) :
    ∀ d ∈ (m.put a b).head?, n < d.1 := by
  cases m with
  | nil => by_cases hb : b = Bytes.unlisted <;> simp [Bytes.put, hb, hn]
  | cons c r =>
    have hc : n < c.1 := hm c rfl
    have hd : ∀ d ∈ r.head?, n < d.1 := by
      cases r with
      | nil => simp
      | cons d r => simp [Bytes.wf] at h; simp; omega
    simp only [Bytes.put]
    split
    · split <;> simp [hc, hn]
    · split
      · split
        · exact hd
        · simp [hn]
      · simpa using hc

theorem Bytes.wf_put (m : Bytes) (a : Nat) (b : Byte) (h : m.wf = true) : (m.put a b).wf = true := by
  induction m with
  | nil => by_cases hb : b = Bytes.unlisted <;> simp [Bytes.put, Bytes.wf, hb]
  | cons c r ih =>
    have hr := Bytes.wf_tail h
    have hc : c.2 ≠ Bytes.unlisted := by cases r <;> simp_all [Bytes.wf]
    have hd : ∀ d ∈ r.head?, c.1 < d.1 := by cases r <;> simp_all [Bytes.wf]
    simp only [Bytes.put]
    split
    · split
      · exact h
      · rename_i lt hb
        exact Bytes.wf_cons hb h fun d hd' => by simp at hd'; subst hd'; exact lt
    · split
      · split
        · exact hr
        · rename_i e hb
          exact Bytes.wf_cons hb hr fun d hd' => by simpa [← e] using hd d hd'
      · exact Bytes.wf_cons hc (ih hr) (Bytes.head_put r a b hr c.1 (by omega) hd)

theorem Bytes.wf_putN (l : List Byte) (m : Bytes) (a : Nat) (h : m.wf = true) : (m.putN a l).wf = true := by
  induction l generalizing m a with
  | nil => exact h
  | cons b r ih => exact ih _ _ (Bytes.wf_put m a b h)

/-- A run of bytes is read back, and every other byte reads as before. -/
theorem Bytes.get_putN (l : List Byte) (m : Bytes) (a k : Nat) (h : m.wf = true) :
    (m.putN a l).get k = if a ≤ k ∧ k < a + l.length then l.getD (k - a) 0 else m.get k := by
  induction l generalizing m a with
  | nil => rw [if_neg (by simp)]; rfl
  | cons b r ih =>
    rw [Bytes.putN, ih _ _ (Bytes.wf_put m a b h), Bytes.get_put m a k b h]
    by_cases hk : k = a
    · subst hk; rw [if_neg (by omega), if_pos rfl, if_pos (by simp), Nat.sub_self]; rfl
    · by_cases hin : a ≤ k ∧ k < a + (b :: r).length
      · simp only [List.length_cons] at hin
        rw [if_pos (by omega), if_pos (by simp; omega), show k - a = (k - (a + 1)) + 1 by omega]; simp
      · simp only [List.length_cons] at hin
        rw [if_neg (by omega), if_neg hk, if_neg (by simp; omega)]

theorem Bytes.getN_putN (m : Bytes) (a : Nat) (l : List Byte) (h : m.wf = true) : (m.putN a l).getN a l.length = l := by
  apply List.ext_getElem
  · simp [Bytes.getN]
  · intro i h1 h2
    have : i < l.length := h2
    simp [Bytes.getN, Bytes.get_putN l m a (a + i) h, this]

/-! ## The operations over memory -/

theorem Mem.store_wf (m : Mem) (k : BitVec 512) (pa : Nat) (b : Byte) (h : Memory.wf m = true) :
    Memory.wf (m.store k pa b) = true := by
  unfold Mem.store Memory.wf at *
  split
  · split
    · exact Bytes.wf_put _ _ _ h
    · exact Bytes.wf_put _ _ _ (Bytes.wf_putN _ _ _ h)
  · exact Bytes.wf_put _ _ _ h

theorem Mem.storeN_wf (l : List Byte) (m : Mem) (k : BitVec 512) (pa : Nat) (h : Memory.wf m = true) :
    Memory.wf (m.storeN k pa l) = true := by
  induction l generalizing m pa with
  | nil => exact h
  | cons b r ih => exact ih _ _ (Mem.store_wf m k pa b h)

theorem Mem.setTag_wf (m : Mem) (pa tag : Nat) (h : Memory.wf m = true) : Memory.wf (m.setTag pa tag) = true :=
  Bytes.wf_put _ _ _ h

theorem Mem.reset_wf : Memory.wf State.reset.mem = true := rfl

end Sys2Proof.Machine
end

