-- ==== Sys2Proof/Laws/PerInstr.lean ====
section
/-! SUPPORT. Statements about every instruction as syntax, made per constructor. -/

namespace Sys2Proof.Laws.Encodes

/-- The instruction words, and no events, have an encoding (R185, R191). -/
def Statement (i : Instr) : Prop := (encode i).isSome = i.isWord

theorem nop {g} : Statement (.nop g) := rfl
theorem bra {g} {disp} : Statement (.bra g disp) := rfl
theorem brx {g} {a} : Statement (.brx g a) := rfl
theorem call {g} {d} {disp} : Statement (.call g d disp) := rfl
theorem ret {g} {a} : Statement (.ret g a) := rfl
theorem exit {g} : Statement (.exit g) := rfl
theorem wait {g} {m} : Statement (.wait g m) := rfl
theorem yield {g} : Statement (.yield g) := rfl
theorem sleep {g} {a} : Statement (.sleep g a) := rfl
theorem brk {g} {code} : Statement (.brk g code) := rfl
theorem ipref {g} {l1} {a} {b} : Statement (.ipref g l1 a b) := rfl
theorem ipin {g} {l1} {a} {b} : Statement (.ipin g l1 a b) := rfl
theorem iunpin {g} {l1} {a} {b} : Statement (.iunpin g l1 a b) := rfl
theorem sadd {g} {d} {a} {b} : Statement (.sadd g d a b) := rfl
theorem ssub {g} {d} {a} {b} : Statement (.ssub g d a b) := rfl
theorem smul {g} {d} {a} {b} : Statement (.smul g d a b) := rfl
theorem smulh {g} {u} {d} {a} {b} : Statement (.smulh g u d a b) := rfl
theorem sand {g} {d} {a} {b} : Statement (.sand g d a b) := rfl
theorem sor {g} {d} {a} {b} : Statement (.sor g d a b) := rfl
theorem sxor {g} {d} {a} {b} : Statement (.sxor g d a b) := rfl
theorem sshl {g} {d} {a} {b} : Statement (.sshl g d a b) := rfl
theorem sshr {g} {d} {a} {b} : Statement (.sshr g d a b) := rfl
theorem ssra {g} {d} {a} {b} : Statement (.ssra g d a b) := rfl
theorem smov {g} {d} {a} : Statement (.smov g d a) := rfl
theorem smovi {g} {d} {imm} : Statement (.smovi g d imm) := rfl
theorem smoviMid {g} {d} {imm} : Statement (.smoviMid g d imm) := rfl
theorem smoviHi {g} {d} {imm} : Statement (.smoviHi g d imm) := rfl
theorem scmp {g} {cc} {d} {a} {b} : Statement (.scmp g cc d a b) := rfl
theorem ssel {g} {d} {a} {b} {c} : Statement (.ssel g d a b c) := rfl
theorem sclz {g} {d} {a} : Statement (.sclz g d a) := rfl
theorem spopc {g} {d} {a} : Statement (.spopc g d a) := rfl
theorem vadd {g} {t} {pk} {d} {a} {b} : Statement (.vadd g t pk d a b) := rfl
theorem vsub {g} {t} {pk} {d} {a} {b} : Statement (.vsub g t pk d a b) := rfl
theorem vaddc {g} {t} {d} {a} {b} {ci} {co} : Statement (.vaddc g t d a b ci co) := rfl
theorem vsubb {g} {t} {d} {a} {b} {ci} {co} : Statement (.vsubb g t d a b ci co) := rfl
theorem vadds {g} {t} {pk} {d} {a} {b} : Statement (.vadds g t pk d a b) := rfl
theorem vsubs {g} {t} {pk} {d} {a} {b} : Statement (.vsubs g t pk d a b) := rfl
theorem vmul {g} {t} {pk} {d} {a} {b} : Statement (.vmul g t pk d a b) := rfl
theorem vmulh {g} {t} {d} {a} {b} : Statement (.vmulh g t d a b) := rfl
theorem vmad {g} {t} {d} {a} {b} {c} : Statement (.vmad g t d a b c) := rfl
theorem vmin {g} {t} {pk} {d} {a} {b} : Statement (.vmin g t pk d a b) := rfl
theorem vmax {g} {t} {pk} {d} {a} {b} : Statement (.vmax g t pk d a b) := rfl
theorem vabs {g} {pk} {d} {a} : Statement (.vabs g pk d a) := rfl
theorem vneg {g} {pk} {d} {a} : Statement (.vneg g pk d a) := rfl
theorem vand {g} {d} {a} {b} : Statement (.vand g d a b) := rfl
theorem vor {g} {d} {a} {b} : Statement (.vor g d a b) := rfl
theorem vxor {g} {d} {a} {b} : Statement (.vxor g d a b) := rfl
theorem vnot {g} {d} {a} : Statement (.vnot g d a) := rfl
theorem vshl {g} {d} {a} {b} : Statement (.vshl g d a b) := rfl
theorem vshr {g} {d} {a} {b} : Statement (.vshr g d a b) := rfl
theorem vsra {g} {d} {a} {b} : Statement (.vsra g d a b) := rfl
theorem vrot {g} {d} {a} {b} : Statement (.vrot g d a b) := rfl
theorem vfunl {g} {d} {a} {b} {c} : Statement (.vfunl g d a b c) := rfl
theorem vcmp {g} {cc} {t} {d} {a} {b} : Statement (.vcmp g cc t d a b) := rfl
theorem vsel {g} {d} {a} {b} {c} : Statement (.vsel g d a b c) := rfl
theorem vmov {g} {wide} {d} {a} : Statement (.vmov g wide d a) := rfl
theorem vmovi {g} {t} {d} {imm} : Statement (.vmovi g t d imm) := rfl
theorem vmoviHi {g} {t} {d} {imm} : Statement (.vmoviHi g t d imm) := rfl
theorem vmoviLo {g} {t} {d} {imm} : Statement (.vmoviLo g t d imm) := rfl
theorem vdot4 {g} {d} {a} {b} {c} : Statement (.vdot4 g d a b c) := rfl
theorem vclz {g} {d} {a} : Statement (.vclz g d a) := rfl
theorem vpopc {g} {d} {a} : Statement (.vpopc g d a) := rfl
theorem vbrev {g} {d} {a} : Statement (.vbrev g d a) := rfl
theorem vbfe {g} {sgn} {d} {a} {b} : Statement (.vbfe g sgn d a b) := rfl
theorem vbfi {g} {d} {a} {b} {c} : Statement (.vbfi g d a b c) := rfl
theorem vbitil {g} {w3} {d} {a} {b} {c} : Statement (.vbitil g w3 d a b c) := rfl
theorem vbitdl {g} {w3} {d} {a} {k} : Statement (.vbitdl g w3 d a k) := rfl
theorem vfadd {g} {t} {d} {a} {b} : Statement (.vfadd g t d a b) := rfl
theorem vfsub {g} {t} {d} {a} {b} : Statement (.vfsub g t d a b) := rfl
theorem vfmul {g} {t} {d} {a} {b} : Statement (.vfmul g t d a b) := rfl
theorem vfma {g} {t} {d} {a} {b} {c} : Statement (.vfma g t d a b c) := rfl
theorem vfmin {g} {t} {d} {a} {b} : Statement (.vfmin g t d a b) := rfl
theorem vfmax {g} {t} {d} {a} {b} : Statement (.vfmax g t d a b) := rfl
theorem vfcmp {g} {cc} {dbl} {d} {a} {b} : Statement (.vfcmp g cc dbl d a b) := rfl
theorem vfclass {g} {dbl} {d} {a} : Statement (.vfclass g dbl d a) := rfl
theorem vfrnd {g} {dbl} {m} {x} {d} {a} : Statement (.vfrnd g dbl m x d a) := rfl
theorem vfscale {g} {dbl} {d} {a} {b} : Statement (.vfscale g dbl d a b) := rfl
theorem vffrac {g} {dbl} {d} {a} : Statement (.vffrac g dbl d a) := rfl
theorem vfdivs {g} {la} {dbl} {d} {a} {b} : Statement (.vfdivs g la dbl d a b) := rfl
theorem vfsqrts {g} {la} {dbl} {d} {a} : Statement (.vfsqrts g la dbl d a) := rfl
theorem vfrcp {g} {la} {d} {a} : Statement (.vfrcp g la d a) := rfl
theorem vfrsq {g} {la} {d} {a} : Statement (.vfrsq g la d a) := rfl
theorem vfexp2 {g} {la} {d} {a} : Statement (.vfexp2 g la d a) := rfl
theorem vflog2 {g} {la} {d} {a} : Statement (.vflog2 g la d a) := rfl
theorem vfsinp {g} {la} {d} {a} : Statement (.vfsinp g la d a) := rfl
theorem vfcosp {g} {la} {d} {a} : Statement (.vfcosp g la d a) := rfl
theorem vsmupd {g} {la} {d} {a} {b} : Statement (.vsmupd g la d a b) := rfl
theorem vsmfin {g} {la} {d} {a} : Statement (.vsmfin g la d a) := rfl
theorem vcvt {g} {cv} {m} {d} {a} : Statement (.vcvt g cv m d a) := rfl
theorem vpack {g} {f} {m} {d} {a} : Statement (.vpack g f m d a) := rfl
theorem vunpack {g} {f} {d} {a} : Statement (.vunpack g f d a) := rfl
theorem vbxq {g} {f} {blk} {d} {e} {a} : Statement (.vbxq g f blk d e a) := rfl
theorem vbxd {g} {f} {blk} {d} {a} {e} : Statement (.vbxd g f blk d a e) := rfl
theorem vplane {g} {f} {d} {a} : Statement (.vplane g f d a) := rfl
theorem vunplane {g} {f} {d} {a} : Statement (.vunplane g f d a) := rfl
theorem vtag {g} {d} {a} {tag} : Statement (.vtag g d a tag) := rfl
theorem vballot {g} {d} {a} {bit} {q} : Statement (.vballot g d a bit q) := rfl
theorem vvote {g} {md} {d} {pm} {ps} {q} : Statement (.vvote g md d pm ps q) := rfl
theorem vshfl {g} {md} {d} {a} {b} {q} : Statement (.vshfl g md d a b q) := rfl
theorem vshflp {g} {d} {a} {b} {pc} : Statement (.vshflp g d a b pc) := rfl
theorem vbcast {g} {d} {src} : Statement (.vbcast g d src) := by cases src <;> rfl
theorem vreduce {g} {op} {d} {a} {pm} {q} : Statement (.vreduce g op d a pm q) := rfl
theorem vscan {g} {op} {ex} {d} {a} {pm} {q} : Statement (.vscan g op ex d a pm q) := rfl
theorem vmatch {g} {d} {a} {pm} {q} : Statement (.vmatch g d a pm q) := rfl
theorem pand {g} {d} {a} {b} : Statement (.pand g d a b) := rfl
theorem por {g} {d} {a} {b} : Statement (.por g d a b) := rfl
theorem pxor {g} {d} {a} {b} : Statement (.pxor g d a b) := rfl
theorem pnot {g} {d} {a} : Statement (.pnot g d a) := rfl
theorem pmov {g} {d} {a} : Statement (.pmov g d a) := rfl
theorem pmovTov {g} {d} {a} : Statement (.pmovTov g d a) := rfl
theorem pmovFrv {g} {d} {a} : Statement (.pmovFrv g d a) := rfl
theorem pmovTos {g} {d} {a} : Statement (.pmovTos g d a) := rfl
theorem pset {g} {d} {a} : Statement (.pset g d a) := rfl
theorem psetRng {g} {d} {lo} {hi} : Statement (.psetRng g d lo hi) := rfl
theorem psetAnd {g} {d} {m} {k} : Statement (.psetAnd g d m k) := rfl
theorem pcount {g} {d} {a} : Statement (.pcount g d a) := rfl
theorem pfirst {g} {d} {a} : Statement (.pfirst g d a) := rfl
theorem pairedWord {hi} {lo} : Statement (.pairedWord hi lo) := rfl
theorem ld {g} {la} {w} {o} {sc} {m} {d} : Statement (.ld g la w o sc m d) := rfl
theorem st {g} {w} {o} {sc} {m} {d} : Statement (.st g w o sc m d) := rfl
theorem lds {g} {la} {w} {o} {sc} {m} {d} : Statement (.lds g la w o sc m d) := rfl
theorem sts {g} {w} {o} {sc} {m} {d} : Statement (.sts g w o sc m d) := rfl
theorem ldc {g} {la} {wide} {acq} {sc} {a} {off} {d} : Statement (.ldc g la wide acq sc a off d) := rfl
theorem ldp {g} {la} {f} {v} {m} {d} : Statement (.ldp g la f v m d) := rfl
theorem ldt {g} {la} {tag} {m} {d} : Statement (.ldt g la tag m d) := rfl
theorem pref {g} {l2} {m} : Statement (.pref g l2 m) := rfl
theorem cwb {g} {m} : Statement (.cwb g m) := rfl
theorem cinv {g} {m} : Statement (.cinv g m) := rfl
theorem atom {g} {la} {op} {wide} {o} {sc} {m} {d} {b} : Statement (.atom g la op wide o sc m d b) := rfl
theorem acas {g} {la} {wide} {o} {sc} {m} {d} {b} : Statement (.acas g la wide o sc m d b) := rfl
theorem red {g} {op} {wide} {o} {sc} {m} {b} : Statement (.red g op wide o sc m b) := rfl
theorem vbmin {g} {o} {sc} {m} {b} : Statement (.vbmin g o sc m b) := rfl
theorem fence {g} {o} {sc} : Statement (.fence g o sc) := rfl
theorem bfence {g} : Statement (.bfence g) := rfl
theorem tbegin {g} {d} : Statement (.tbegin g d) := rfl
theorem tend {g} : Statement (.tend g) := rfl
theorem tabort {g} {code} : Statement (.tabort g code) := rfl
theorem ttest {g} {d} : Statement (.ttest g d) := rfl
theorem osenter {g} {cl} {a} {b} : Statement (.osenter g cl a b) := rfl
theorem osleave {g} {cl} {a} : Statement (.osleave g cl a) := rfl
theorem osreset {g} {cl} {a} {b} : Statement (.osreset g cl a b) := rfl
theorem osquery {g} {la} {cl} {d} {a} : Statement (.osquery g la cl d a) := rfl
theorem bar {g} {b} : Statement (.bar g b) := rfl
theorem phase {g} {grp} {op} {a} : Statement (.phase g grp op a) := rfl
theorem grpq {g} {la} {q} {d} {grp} : Statement (.grpq g la q d grp) := rfl
theorem mbinit {g} {a} {off} {d} : Statement (.mbinit g a off d) := rfl
theorem mbexp {g} {a} {off} {d} : Statement (.mbexp g a off d) := rfl
theorem mbarr {g} {sc} {a} {off} : Statement (.mbarr g sc a off) := rfl
theorem mbwait {g} {sc} {d} {a} {off} : Statement (.mbwait g sc d a off) := rfl
theorem mbwaitCur {g} {sc} {d} {a} {off} : Statement (.mbwaitCur g sc d a off) := rfl
theorem mbtest {g} {sc} {d} {a} {off} : Statement (.mbtest g sc d a off) := rfl
theorem mbtestSnap {g} {d} {a} {off} : Statement (.mbtestSnap g d a off) := rfl
theorem mcfgTy {g} {ta} {tb} : Statement (.mcfgTy g ta tb) := rfl
theorem mcfgA {g} {a} {b} : Statement (.mcfgA g a b) := rfl
theorem mcfgB {g} {a} {b} : Statement (.mcfgB g a b) := rfl
theorem mcfgAx {g} {a} {b} : Statement (.mcfgAx g a b) := rfl
theorem mcfgBx {g} {a} {b} : Statement (.mcfgBx g a b) := rfl
theorem mcfgK {g} {a} : Statement (.mcfgK g a) := rfl
theorem mloop {g} {acc} {n} {noinc} : Statement (.mloop g acc n noinc) := by cases n <;> rfl
theorem mzero {g} {t} {acc} : Statement (.mzero g t acc) := rfl
theorem mmova {g} {la} {f} {d} {acc} {r} : Statement (.mmova g la f d acc r) := rfl
theorem mmovv {g} {f} {acc} {a} {r} : Statement (.mmovv g f acc a r) := rfl
theorem msta {g} {t} {a} {b} {acc} : Statement (.msta g t a b acc) := rfl
theorem mcoop {g} {acc} {a} {ti} {tj} {id} {noinc} : Statement (.mcoop g acc a ti tj id noinc) := rfl
theorem mfree {g} {acc} : Statement (.mfree g acc) := rfl
theorem ckick {g} {dc} {a} : Statement (.ckick g dc a) := rfl
theorem enq {g} {a} {b} : Statement (.enq g a b) := rfl
theorem deq {g} {la} {d} {a} : Statement (.deq g la d a) := rfl
theorem qtry {g} {la} {d} {a} {q} : Statement (.qtry g la d a q) := rfl
theorem tspawn {g} {dc} {a} {b} : Statement (.tspawn g dc a b) := rfl
theorem cont {g} {a} {b} {n} {r} : Statement (.cont g a b n r) := rfl
theorem bgemv {g} {dc} {acc} {bf} {a} {b} : Statement (.bgemv g dc acc bf a b) := rfl
theorem bstat {g} {la} {q} {d} : Statement (.bstat g la q d) := rfl
theorem rtrace {g} {dc} {gen} {p} {a} {b} {c} : Statement (.rtrace g dc gen p a b c) := rfl
theorem rtquery {g} {la} {gen} {d} {a} {b} : Statement (.rtquery g la gen d a b) := rfl
theorem msvtx {g} {n} {a} {b} {c} : Statement (.msvtx g n a b c) := rfl
theorem msprim {g} {a} {b} {c} : Statement (.msprim g a b c) := rfl
theorem msend {g} {a} {b} : Statement (.msend g a b) := rfl
theorem fsout {g} {t} {n} {a} : Statement (.fsout g t n a) := rfl
theorem gzread {g} {la} {d} {a} : Statement (.gzread g la d a) := rfl
theorem sread {g} {la} {vec} {d} {sp} : Statement (.sread g la vec d sp) := rfl
theorem swrite {g} {vec} {a} {sp} : Statement (.swrite g vec a sp) := rfl
theorem trap {g} {code} : Statement (.trap g code) := rfl
theorem eret {g} : Statement (.eret g) := rfl
theorem halt {g} {code} : Statement (.halt g code) := rfl
theorem ckpt {g} : Statement (.ckpt g) := rfl
theorem schedulerPick {vw} : Statement (.schedulerPick vw) := rfl
theorem turnLimit {vw} : Statement (.turnLimit vw) := rfl
theorem clauseWaitTimeout {vw} : Statement (.clauseWaitTimeout vw) := rfl
theorem sleepWake {vw} : Statement (.sleepWake vw) := rfl
theorem loadLaneComplete {vw} {seq} {lanes} : Statement (.loadLaneComplete vw seq lanes) := rfl
theorem storeAck {vw} {seq} {lanes} : Statement (.storeAck vw seq lanes) := rfl
theorem atomicBatchPerform {vw} {seq} {lane} : Statement (.atomicBatchPerform vw seq lane) := rfl
theorem faultBatchClose {die} : Statement (.faultBatchClose die) := rfl
theorem mloopStep {vw} {seq} : Statement (.mloopStep vw seq) := rfl
theorem copyChunkLand {vw} {seq} {member} {bytes} : Statement (.copyChunkLand vw seq member bytes) := rfl
theorem bgemvRowLand {vw} {seq} : Statement (.bgemvRowLand vw seq) := rfl
theorem rayTillerWrite {vw} {seq} {lane} : Statement (.rayTillerWrite vw seq lane) := rfl
theorem binTimeout {die} {bin} : Statement (.binTimeout die bin) := rfl
theorem taskPieceRequest {task} {core} : Statement (.taskPieceRequest task core) := rfl
theorem phaseComplete {lid} {grp} : Statement (.phaseComplete lid grp) := rfl
theorem tendCommit {vw} {seq} : Statement (.tendCommit vw seq) := rfl
theorem checkpoint {lid} : Statement (.checkpoint lid) := rfl
theorem rollback {lid} : Statement (.rollback lid) := rfl
theorem sheafPlace {sid} {core} : Statement (.sheafPlace sid core) := rfl
theorem launchAdmit {lid} : Statement (.launchAdmit lid) := rfl
theorem freeze {sid} : Statement (.freeze sid) := rfl
theorem lateReply {vw} {seq} {lanes} : Statement (.lateReply vw seq lanes) := rfl
theorem sheafSave {sid} : Statement (.sheafSave sid) := rfl
theorem sheafResume {sid} {core} : Statement (.sheafResume sid core) := rfl
theorem sheafRetire {sid} : Statement (.sheafRetire sid) := rfl
theorem refill {lid} : Statement (.refill lid) := rfl
theorem powerSample {die} {milliwatts} : Statement (.powerSample die milliwatts) := rfl
theorem balanceStep : Statement (.balanceStep) := rfl
theorem deadlockDetect {ctx} : Statement (.deadlockDetect ctx) := rfl
theorem commandImmediate {q} {imm} : Statement (.commandImmediate q imm) := rfl
theorem hostRdmaWrite {q} {addr} {data} : Statement (.hostRdmaWrite q addr data) := rfl
theorem hostRdmaRead {q} {addr} {len} : Statement (.hostRdmaRead q addr len) := rfl
theorem cmdEventDispatch {core} : Statement (.cmdEventDispatch core) := rfl
theorem launchPacket {q} : Statement (.launchPacket q) := rfl
theorem graphArm {q} : Statement (.graphArm q) := rfl
theorem signalPacket {q} : Statement (.signalPacket q) := rfl
theorem waitPacket {q} : Statement (.waitPacket q) := rfl
theorem copyPacket {q} : Statement (.copyPacket q) := rfl
theorem viewStreamConfigure {q} : Statement (.viewStreamConfigure q) := rfl
theorem keyLoad {q} : Statement (.keyLoad q) := rfl
theorem keyClear {q} : Statement (.keyClear q) := rfl
theorem keyBind {q} : Statement (.keyBind q) := rfl
theorem keyAttest {q} : Statement (.keyAttest q) := rfl
theorem testPackageApply {q} : Statement (.testPackageApply q) := rfl
theorem testPackageReport {q} : Statement (.testPackageReport q) := rfl
theorem testCore {core} : Statement (.testCore core) := rfl
theorem mapq {q} : Statement (.mapq q) := rfl
theorem unmapq {q} : Statement (.unmapq q) := rfl
theorem ctxset {q} : Statement (.ctxset q) := rfl
theorem ctxdel {q} : Statement (.ctxdel q) := rfl
theorem tlbinv {q} : Statement (.tlbinv q) := rfl
theorem resume {q} : Statement (.resume q) := rfl
theorem cancel {q} : Statement (.cancel q) := rfl
theorem balance {q} : Statement (.balance q) := rfl
theorem graphNodeComplete {ctx} {graph} {node} : Statement (.graphNodeComplete ctx graph node) := rfl
theorem graphCounterError {ctx} {graph} : Statement (.graphCounterError ctx graph) := rfl
theorem cmdCoreHang {core} : Statement (.cmdCoreHang core) := rfl
theorem cmdCoreRebootDone {core} : Statement (.cmdCoreRebootDone core) := rfl
theorem fallbackTurn : Statement (.fallbackTurn) := rfl
theorem engineStall {engine} : Statement (.engineStall engine) := rfl
theorem uncorrectableError {arr} {addr} : Statement (.uncorrectableError arr addr) := rfl
theorem patrolScrub : Statement (.patrolScrub) := rfl
theorem frameStart {stream} : Statement (.frameStart stream) := rfl
theorem geometryStart {stream} : Statement (.geometryStart stream) := rfl
theorem stripLatch {stream} {strip} : Statement (.stripLatch stream strip) := rfl
theorem stripRasterStart {stream} {strip} : Statement (.stripRasterStart stream strip) := rfl
theorem stripKeyReset {stream} {strip} : Statement (.stripKeyReset stream strip) := rfl
theorem lensCorrectionStart {stream} {strip} : Statement (.lensCorrectionStart stream strip) := rfl
theorem checkInstant {stream} {strip} : Statement (.checkInstant stream strip) := rfl
theorem tileDepart {stream} {strip} {view} {tile} : Statement (.tileDepart stream strip view tile) := rfl
theorem drawWatchdog {stream} : Statement (.drawWatchdog stream) := rfl
theorem gazePacket {port} {data} : Statement (.gazePacket port data) := rfl
theorem ceMarkReceived {q} : Statement (.ceMarkReceived q) := rfl
theorem cnpReceived {q} : Statement (.cnpReceived q) := rfl
theorem rateRecovery {q} : Statement (.rateRecovery q) := rfl
theorem linkDown {port} : Statement (.linkDown port) := rfl
theorem linkUp {port} : Statement (.linkUp port) := rfl
theorem linkDownTimeout {port} : Statement (.linkDownTimeout port) := rfl
theorem portDropReport {port} : Statement (.portDropReport port) := rfl
theorem peerLost {peer} : Statement (.peerLost peer) := rfl
theorem sysMessageReceive {peer} {data} : Statement (.sysMessageReceive peer data) := rfl
theorem sysPhaseArrival {peer} {data} : Statement (.sysPhaseArrival peer data) := rfl
theorem sysPhaseCompletion {peer} {data} : Statement (.sysPhaseCompletion peer data) := rfl
theorem ptpSync {offset} : Statement (.ptpSync offset) := rfl
theorem ptpLockLoss : Statement (.ptpLockLoss) := rfl
theorem announce : Statement (.announce) := rfl
theorem config {port} {data} : Statement (.config port data) := rfl
theorem fwchunk {port} {data} : Statement (.fwchunk port data) := rfl
theorem fwcommit {port} {data} : Statement (.fwcommit port data) := rfl
theorem resetWarm {port} {data} : Statement (.resetWarm port data) := rfl
theorem resetCold {port} {data} : Statement (.resetCold port data) := rfl
theorem powerGood : Statement (.powerGood) := rfl
theorem pipelineResultWrite {vw} {seq} : Statement (.pipelineResultWrite vw seq) := rfl
theorem ckptWaitTimeout {vw} : Statement (.ckptWaitTimeout vw) := rfl
theorem powerLoss : Statement (.powerLoss) := rfl
theorem icmpv6Echo {port} {data} : Statement (.icmpv6Echo port data) := rfl
theorem neighbourSolicitation {port} {data} : Statement (.neighbourSolicitation port data) := rfl
theorem droppedFrame {port} : Statement (.droppedFrame port) := rfl
theorem pfcPause {port} {prio} {pause} : Statement (.pfcPause port prio pause) := rfl

end Sys2Proof.Laws.Encodes
end

