-- ==== Sys2Proof/Laws/Reach.lean ====
section
/-! SUPPORT. What reaching memory on behalf of a context can change: translation structures, the marks of pages assigned to a key, and
the count of free values, and nothing else (R122, R124, R130). -/

namespace Sys2Proof.Machine

/-- State `t` is `s` but for cached translations, marks of pages assigned to a key, and the count of free values drawn. -/
def State.Walked (s t : State) : Prop :=
  t = { s with mem := { s.mem with tlb := t.mem.tlb, owner := t.mem.owner }, freeIx := t.freeIx }

theorem State.Walked.refl (s : State) : s.Walked s := rfl

theorem State.Walked.trans {s t u : State} (h : s.Walked t) (k : t.Walked u) : s.Walked u := by
  unfold State.Walked at *
  rw [k, h]

theorem State.Walked.dram {s t : State} (h : s.Walked t) : t.mem.dram = s.mem.dram := by rw [h]
theorem State.Walked.psn {s t : State} (h : s.Walked t) : t.mem.psn = s.mem.psn := by rw [h]
theorem State.Walked.slots {s t : State} (h : s.Walked t) : t.mem.slots = s.mem.slots := by rw [h]
theorem State.Walked.warps {s t : State} (h : s.Walked t) : t.warps = s.warps := by rw [h]
theorem State.Walked.sheaves {s t : State} (h : s.Walked t) : t.sheaves = s.sheaves := by rw [h]
theorem State.Walked.launches {s t : State} (h : s.Walked t) : t.launches = s.launches := by rw [h]
theorem State.Walked.cmd {s t : State} (h : s.Walked t) : t.cmd = s.cmd := by rw [h]
theorem State.Walked.cores {s t : State} (h : s.Walked t) : t.cores = s.cores := by rw [h]
theorem State.Walked.streams {s t : State} (h : s.Walked t) : t.streams = s.streams := by rw [h]
theorem State.Walked.io {s t : State} (h : s.Walked t) : t.io = s.io := by rw [h]
theorem State.Walked.queue {s t : State} (h : s.Walked t) (q : Nat) : t.queue q = s.queue q := by rw [State.queue, State.queue, h.cmd]

theorem State.leaf_walked (s : State) (ctx va level : Nat) (e : Word64) : s.Walked (s.leaf ctx va level e).2.2 := by
  unfold State.leaf
  split
  · split
    · exact .refl s
    · have hd : s.Walked s.drawBool.2 := rfl
      generalize s.drawBool = x at hd ⊢
      obtain ⟨b, u⟩ := x
      cases b <;> exact hd
  · dsimp only [Mem.assign]
    split <;> rfl

theorem State.translate_walked (s : State) (who : Who) (a n : Nat) (need : Need) : s.Walked (s.translate who a n need).2 := by
  have use (rg : Region) (level : Nat) (pte : Word64) (u : State)
      (h : s.Walked u) : s.Walked (if (need.rd && !pteBit pte 2) || (need.wr && !pteBit pte 3) || (need.ex && !pteBit pte 4) then
        (Except.error ⟨0x11, level⟩, u) else match rg with
          | .ordinary => (.ok (.dram (pteFrame pte / pageSize level * pageSize level + a % pageSize level) pte), u)
          | _ => match u.window who rg pte with
            | some t => (.ok t, u)
            | none => (.error ⟨0x13, level⟩, u) : Except XErr Target × State).2 := by
    repeat' split
    all_goals exact h
  unfold State.translate
  split
  · exact .refl s
  split
  · exact .refl s
  split
  · exact .refl s
  dsimp only
  split
  · split
    · have hd : s.Walked s.drawBool.2 := rfl
      generalize s.drawBool = x at hd ⊢
      obtain ⟨b, u⟩ := x
      cases b
      · exact hd
      · exact use _ _ _ _ hd
    · exact .refl s
  · split
    · split
      · have hd : s.Walked s.drawBool.2 := rfl
        generalize s.drawBool = x at hd ⊢
        obtain ⟨b, u⟩ := x
        cases b
        · exact hd
        · exact use _ _ _ _ hd
      · exact .refl s
    · split
      · exact .refl s
      · exact use _ _ _ _ (State.leaf_walked ..)

theorem State.readDw_walked (s : State) (ctx a : Nat) : s.Walked (s.readDw ctx a).2 := by
  unfold State.readDw
  have h := s.translate_walked ⟨ctx, none, none⟩ a 8 Need.read
  split <;> rename_i e <;> rw [e] at h
  · exact h
  · dsimp only
    split
    · exact h
    · repeat' split
      all_goals exact h

theorem State.readDws_walked (n : Nat) : ∀ (s : State) (ctx a : Nat), s.Walked (s.readDws ctx a n).2 := by
  induction n with
  | zero => exact fun s _ _ => .refl s
  | succ n ih =>
    intro s ctx a
    unfold State.readDws
    have h := s.readDw_walked ctx a
    split <;> rename_i e <;> rw [e] at h
    · exact h
    · rename_i s1
      have k := ih s1 ctx (a + 8)
      split <;> rename_i e' <;> rw [e'] at k <;> exact h.trans k

theorem State.putBytes_cores (s : State) (who : Who) (t : Target) (l : List Byte) (p : Bool) :
    (s.putBytes who none t l p).cores = s.cores := by
  have n (s : State) : (s.noteStore t).cores = s.cores := by unfold State.noteStore; split <;> rfl
  have w (s : State) : (s.writeAt who t l p).cores = s.cores := by
    unfold State.writeAt
    split
    · rfl
    · dsimp only
      split
      · split
        · split <;> rfl
        · rfl
      · rfl
    · rfl
  have h (s : State) : (s.noteStale who t).cores = s.cores := by
    unfold State.noteStale
    split
    · split <;> rfl
    · rfl
  unfold State.putBytes
  split
  · next h' => cases h'
  · rw [n, w, h]

theorem State.storeRun_cores (l : List (List Byte)) : ∀ (s : State) (ctx from_ a : Nat),
    (s.storeRun ctx from_ a l).2.cores = s.cores ∧ ∀ t, (s.storeRun ctx from_ a l).1 = .ok t → t.cores = s.cores := by
  induction l with
  | nil => intro s ctx from_ a; exact ⟨rfl, fun t h => by cases h; rfl⟩
  | cons x r ih =>
    intro s ctx from_ a
    rw [State.storeRun]
    have k := (s.translate_walked ⟨ctx, none, none⟩ a 4 Need.write).cores
    generalize s.translate ⟨ctx, none, none⟩ a 4 Need.write = y at k
    match y with
    | (.error e, s1) => exact ⟨k, fun t h => by cases h⟩
    | (.ok t, s1) =>
      dsimp only
      by_cases c : (t.badChunk s1.mem && !chunkIn from_ (a - from_ + 4 * (r.length + 1)) (a / 64)) = true
      · rw [if_pos c]; exact ⟨k, fun t h => by cases h⟩
      · rw [if_neg c]
        have e : ∀ u : State, u.cores = s.cores → (u.putBytes ⟨ctx, none, none⟩ none t x false).cores = s.cores :=
          fun u hu => (State.putBytes_cores ..).trans hu
        cases t <;> dsimp only <;> (try split) <;>
          exact ⟨(ih _ _ _ _).1.trans (e _ k), fun t h => ((ih _ _ _ _).2 t h).trans (e _ k)⟩

/-- A test's result record changes no core's repair. -/
theorem State.testWrite_cores (s : State) (ctx result k : Nat) (w : List Word64) : (s.testWrite ctx result k w).cores = s.cores := by
  have h := State.storeRun_cores (quads (w.flatMap fun x => bytesOf 8 x.toNat)) s ctx (result + 16 * k) (result + 16 * k)
  unfold State.testWrite State.storeBytes
  split <;> rename_i e <;> rw [e] at h
  · exact h.2 _ rfl
  · exact h.1

end Sys2Proof.Machine
end

