-- ==== Sys2Proof/Laws/Results.lean ====
section
/-! SUPPORT. The result shapes of Operands.lean: what a ready word leaves whose meaning is `sop`, `vop`, `vopF`, `vop2`, `pop` or
`predOp` (R68, R78, R189, R209, R210). -/

namespace Sys2Proof.Machine

/-! ## Reads after writes -/

theorem Warp.sget_congr {a b : Warp} (h : a.s = b.s) (n : Nat) : a.sget n = b.sget n := by simp only [Warp.sget, h]
theorem Warp.vget_congr {a b : Warp} (h : a.v = b.v) (n : Nat) : a.vget n = b.vget n := by simp only [Warp.vget, h]
theorem Warp.pget_congr {a b : Warp} (h : a.p = b.p) (n : Nat) : a.pget n = b.pget n := by simp only [Warp.pget, h]
theorem Warp.ln_congr {a b : Warp} (h : a.v = b.v) (r : R8) (i : Nat) : a.ln r i = b.ln r i := by
  simp only [Warp.ln, Warp.lanes, Warp.vget, h]
theorem Warp.ln64_congr {a b : Warp} (h : a.v = b.v) (r : R8) (i : Nat) : a.ln64 r i = b.ln64 r i := by
  simp only [Warp.ln64, Warp.pair, Warp.lanes, Warp.vget, h]

@[simp] theorem Warp.advance_sc (w : Warp) (r : R8) : w.advance.sc r = w.sget r.toNat :=
  Warp.sget_congr w.advance_kept.s _
@[simp] theorem Warp.advance_sget (w : Warp) (n : Nat) : w.advance.sget n = w.sget n := Warp.sget_congr w.advance_kept.s _
@[simp] theorem Warp.advance_vget (w : Warp) (n : Nat) : w.advance.vget n = w.vget n := Warp.vget_congr w.advance_kept.v _
@[simp] theorem Warp.advance_pget (w : Warp) (n : Nat) : w.advance.pget n = w.pget n := Warp.pget_congr w.advance_p _
@[simp] theorem Warp.advance_ln (w : Warp) (r : R8) (i : Nat) : w.advance.ln r i = w.ln r i :=
  Warp.ln_congr w.advance_kept.v _ _
@[simp] theorem Warp.advance_ln64 (w : Warp) (r : R8) (i : Nat) : w.advance.ln64 r i = w.ln64 r i :=
  Warp.ln64_congr w.advance_kept.v _ _
@[simp] theorem Warp.advance_tag (w : Warp) (n : Nat) : w.advance.tag n = w.tag n := by simp [Warp.tag]
@[simp] theorem Warp.advance_lanes (w : Warp) (n : Nat) : w.advance.lanes n = w.lanes n := by simp [Warp.lanes]
@[simp] theorem Warp.advance_spr (w : Warp) : w.advance.spr = w.spr := w.advance_kept.spr

theorem Warp.sget_sset (w : Warp) (n k : Nat) (x : Word64) (h : n < w.s.length) :
    (w.sset n x).sget k = if k = n then x else w.sget k := by
  by_cases e : k = n
  · subst e; simp [Warp.sget, h]
  · simp [Warp.sget, List.getD_eq_getElem?_getD, List.getElem?_set_ne (Ne.symm e), e]

theorem Warp.vget_vset (w : Warp) (n k : Nat) (m : Mask) (x : Lanes) (t : Tag) (h : n < w.v.length) (hm : m ≠ 0) :
    (w.vset n m x t).vget k = if k = n then ⟨Lanes.merge m x (w.lanes n), t⟩ else w.vget k := by
  unfold Warp.vset
  rw [if_neg hm]
  by_cases e : k = n
  · subst e; simp [Warp.vget, h]
  · simp [Warp.vget, List.getD_eq_getElem?_getD, List.getElem?_set_ne (Ne.symm e), e]

@[simp] theorem Warp.vset_v_length (w : Warp) (n : Nat) (m : Mask) (x : Lanes) (t : Tag) :
    (w.vset n m x t).v.length = w.v.length := by
  unfold Warp.vset; split <;> simp

/-- What writing a vector register leaves alone. -/
structure Warp.KeptBut (w t : Warp) : Prop where
  vw : t.vw = w.vw
  ident : t.ident = w.ident
  vpc : t.vpc = w.vpc
  s : t.s = w.s
  p : t.p = w.p
  acc : t.acc = w.acc
  dc : t.dc = w.dc
  spr : t.spr = w.spr
  cfg : t.cfg = w.cfg
  pipe : t.pipe = w.pipe
  husk : t.husk = w.husk
  nseq : t.nseq = w.nseq
  tx : t.tx = w.tx
  waits : t.waits = w.waits

theorem Warp.vset_kept (w : Warp) (n : Nat) (m : Mask) (x : Lanes) (t : Tag) : w.KeptBut (w.vset n m x t) := by
  unfold Warp.vset; split <;> constructor <;> rfl

/-! ## Registers named lie in the budget -/

theorem Warp.check_budget {w : Warp} {i : Instr} {src : List Src} {P : Mask} (h : w.check i src P = none) :
    w.budgetOk i = true := by
  unfold Warp.check at h
  by_cases hb : w.budgetOk i
  · exact hb
  · simp [hb] at h

theorem Ready.budget {s : State} {w : Warp} {i : Instr} {g : Guard} {src : List Src} (h : Ready s w i g src) {u : RegUse}
    (hu : u ∈ i.uses) :
    match u.cls with
    | .v => u.n + u.k ≤ w.v.length
    | .s => u.n + u.k ≤ w.s.length
    | .a => u.n + u.k ≤ w.acc.length
    | .p => True := by
  have := Warp.check_budget h.2.2.2.2.1
  simp only [Warp.budgetOk, List.all_eq_true] at this
  have := this u hu
  revert this
  cases u.cls <;> simp

/-! ## Frames -/

/-- The frame of a word that wrote `w1` from the warp advanced past it. -/
theorem Warp.only_of {w w1 t : Warp} {k : Touch} (h : w1.Ended t) (htx : w1.tx = w.tx) (hpc : w1.vpc = w.advance.vpc)
    (hid : w1.ident = w.ident) (hv : ∀ n, n ∉ k.v → w1.vget n = w.vget n) (hs : ∀ n, n ∉ k.s → w1.sget n = w.sget n)
    (hp : ∀ n, n ∉ k.p → w1.pget n = w.pget n) (hacc : w1.acc = w.acc) (hdc : w1.dc = w.dc) (hcfg : w1.cfg = w.cfg)
    (hspr : w1.spr = { w.spr with fflags := w1.spr.fflags }) (hfl : k.flags = true ∨ w1.spr.fflags = w.spr.fflags)
    (hh : w1.husk = w.husk ∧ w1.nseq = w.nseq) : w.Only t k := by
  have hpcOf (l : Nat) (hd : has w.tx.doomed l = false) : t.pcOf l = w.advance.pcOf l := by
    rw [h.pc l (by simpa [htx] using hd)]; simp only [Warp.pcOf, hpc]
  refine ⟨fun n hn => (Warp.vget_congr h.v n).trans (hv n hn), fun n hn => (Warp.sget_congr h.s n).trans (hs n hn),
    fun n l hn hd => ?_, .inr (h.acc.trans hacc), .inr (h.dc.trans hdc), .inr (h.cfg.trans hcfg), .inr ?_, .inr ?_, .inr ?_,
    .inr ⟨h.husk.trans hh.1, h.nseq.trans hh.2⟩, fun l hl hd => ?_, .inr fun l hl hd => ?_, h.ident.trans hid⟩
  · rw [h.p n l (by simpa [htx] using hd), hp n hn]
  · rw [h.spr]; exact hspr
  · rcases hfl with e | e
    · exact .inl e
    · exact .inr (by rw [h.spr, e])
  · rw [h.tx.1, h.tx.2.1, h.tx.2.2, htx]; simp
  · rw [hpcOf l hd, Warp.advance_pcOf, hl]; simp
  · rw [hpcOf l hd, Warp.advance_pcOf, hl]; simp

/-- `State.sop`: a ready word writes its scalar register and nothing else. -/
theorem State.sop_result {s : State} {w : Warp} {i : Instr} {g : Guard} {d : R8} {f : Warp → Word64} {φ : Word64 → Prop}
    (he : exec i s = s.sop i g d f) (hu : ∃ u ∈ i.uses, u.cls = .s ∧ u.n = d.toNat ∧ u.k = 1) (hφ : φ (f w.advance)) :
    ScalarResult s w i g d φ := by
  intro h
  obtain ⟨u, hu, hc, hn, hk⟩ := hu
  have hb := h.budget hu
  rw [hc] at hb
  have hd : d.toNat < w.advance.s.length := by rw [w.advance_kept.s]; simp only [hn, hk] at hb; omega
  have hset (n : Nat) := Warp.sget_sset w.advance d.toNat n (f w.advance) hd
  have hk := w.advance_kept
  refine State.issue_leaves (w1 := w.advance.sset d.toNat (f w.advance)) he h rfl (by simp) (by simp [hk.vw]) (fun t ht => ?_)
    fun t ht => ?_
  · refine Warp.only_of ht (by simp) rfl (by simp [hk.ident]) (fun n _ => ?_) (fun n hn => ?_) (fun n _ => ?_) (by simp [hk.acc])
      (by simp [hk.dc]) (by simp [hk.cfg]) (by simp) (.inr (by simp)) (by simp [hk.husk, hk.nseq])
    · rw [Warp.vget_congr (a := w.advance.sset _ _) (b := w.advance) rfl]; simp
    · rw [hset, if_neg (by simpa using hn)]; simp
    · rw [Warp.pget_congr (a := w.advance.sset _ _) (b := w.advance) rfl]; simp
  · rw [Warp.sget_congr ht.s, hset, if_pos rfl]; exact hφ

/-! ## Flags -/

theorem Warp.flags_bit (w : Warp) (f : FlagSet) (k : Nat) (h : k < 64) :
    (w.flags f).spr.fflags.getLsbD k = (w.spr.fflags.getLsbD k || f.getLsbD k) := by
  simp only [Warp.flags_spr, BitVec.getLsbD_or, BitVec.getLsbD_setWidth, h, decide_true, Bool.true_and]

/-- The flags of the lanes of a set, bit by bit. -/
theorem laneFlags_bit (P : Mask) (f : Nat → FlagSet) (k : Nat) :
    (laneFlags P f).getLsbD k = (List.range 32).any fun l => has P l && (f l).getLsbD k := by
  have (l : List Nat) (a : FlagSet) : (l.foldl (fun a i => a ||| f i) a).getLsbD k =
      (a.getLsbD k || l.any fun i => (f i).getLsbD k) := by
    induction l generalizing a with
    | nil => simp
    | cons x r ih => simp [ih, Bool.or_assoc]
  simp [laneFlags, this, lanesOf, List.any_filter]

theorem Warp.flagsAre_of {w w1 t : Warp} {P : Mask} {f g : Nat → FlagSet} (hspr : t.spr = (w1.flags (laneFlags P f)).spr)
    (hw : w1.spr = w.spr) (hfg : ∀ l, l < 32 → f l = g l) : w.FlagsAre t P g := by
  intro k hk
  rw [hspr, Warp.flags_bit _ _ _ hk, laneFlags_bit, hw]
  congr 1
  simp only [List.any_eq, List.mem_range, Bool.and_eq_true, decide_eq_decide]
  constructor
  · rintro ⟨l, hl, h⟩; exact ⟨l, hl, by rw [← hfg l hl]; exact h⟩
  · rintro ⟨l, hl, h⟩; exact ⟨l, hl, by rw [hfg l hl]; exact h⟩

/-! ## One vector register -/

theorem Warp.lanesAre_of {w t : Warp} {d : Nat} {P : Mask} {x : Lanes} {tag : Tag} {φ : Nat → Word32 → Prop}
    (hd : t.vget d = ⟨Lanes.merge P x (w.lanes d), tag⟩) (hφ : ∀ l, l < 32 → φ l (Lanes.get x l)) :
    w.LanesAre t d P tag φ := by
  refine ⟨by simp [Warp.tag, hd], fun l hl => ?_⟩
  simp only [Warp.lanes, hd, get_merge _ _ _ _ hl]
  split
  · exact hφ l hl
  · rfl

/-- `State.vopF`: a ready word writes its vector register in the performing lanes and raises their flags. -/
theorem State.vopF_result {s : State} {w : Warp} {i : Instr} {g : Guard} {src : List Src} {d : R8} {tag : Tag}
    {f : Warp → Nat → Word32 × FlagSet} {φ : Nat → Word32 → Prop} {fl : Nat → FlagSet}
    (he : exec i s = s.vopF i g src d tag f) (hu : ∃ u ∈ i.uses, u.cls = .v ∧ u.n = d.toNat ∧ 1 ≤ u.k)
    (hφ : ∀ l, l < 32 → φ l (f w.advance l).1) (hfl : ∀ l, l < 32 → (f w.advance l).2 = fl l) :
    VecFlagResult s w i g src d tag φ fl := by
  intro h
  obtain ⟨u, hu, hc, hn, hk⟩ := hu
  have hb := h.budget hu
  rw [hc] at hb
  have hd : d.toNat < w.advance.v.length := by rw [w.advance_kept.v]; simp only [hn] at hb; omega
  have hP := h.2.2.2.2.2.2.1
  let x := Lanes.of fun j => (f w.advance j).1
  have hset (n : Nat) := Warp.vget_vset w.advance d.toNat n (w.performing g) x tag hd hP
  have hk := w.advance_kept
  have hs := w.advance.vset_kept d.toNat (w.performing g) x tag
  refine State.issue_leaves (w1 := (w.advance.vset d.toNat (w.performing g) x tag).flags
    (laneFlags (w.performing g) fun j => (f w.advance j).2)) he h rfl (by simp) (by simp [hk.vw, hs.vw]) (fun t ht => ?_)
    fun t ht => ⟨?_, ?_⟩
  · refine Warp.only_of ht (by simp [hs.tx]) (by simp [hs.vpc]) (by simp [hk.ident, hs.ident]) (fun n hn => ?_) (fun n _ => ?_)
      (fun n _ => ?_) (by simp [hk.acc, hs.acc]) (by simp [hk.dc, hs.dc]) (by simp [hk.cfg, hs.cfg]) (by simp [hs.spr])
      (.inl rfl) (by simp [hk.husk, hk.nseq, hs.husk, hs.nseq])
    · rw [Warp.vget_congr (Warp.flags_v ..), hset, if_neg (by simpa using hn)]; simp
    · rw [Warp.sget_congr (Warp.flags_s ..), Warp.sget_congr hs.s]; simp
    · rw [Warp.pget_congr (Warp.flags_p ..), Warp.pget_congr hs.p]; simp
  · refine Warp.lanesAre_of (x := x) ?_ fun l hl => by simpa [x, hl] using hφ l hl
    rw [Warp.vget_congr ht.v, Warp.vget_congr (Warp.flags_v ..), hset, if_pos rfl]; simp
  · exact Warp.flagsAre_of (w1 := w.advance.vset d.toNat (w.performing g) x tag) ht.spr (by simp [hs.spr]) hfl

/-- `State.vop`: a ready word writes its vector register in the performing lanes and nothing else. -/
theorem State.vop_result {s : State} {w : Warp} {i : Instr} {g : Guard} {src : List Src} {d : R8} {tag : Tag}
    {f : Warp → Nat → Word32} {φ : Nat → Word32 → Prop}
    (he : exec i s = s.vop i g src d tag f) (hu : ∃ u ∈ i.uses, u.cls = .v ∧ u.n = d.toNat ∧ 1 ≤ u.k)
    (hφ : ∀ l, l < 32 → φ l (f w.advance l)) : VecResult s w i g src d tag φ := by
  intro h
  obtain ⟨u, hu, hc, hn, hk⟩ := hu
  have hb := h.budget hu
  rw [hc] at hb
  have hd : d.toNat < w.advance.v.length := by rw [w.advance_kept.v]; simp only [hn] at hb; omega
  have hP := h.2.2.2.2.2.2.1
  let x := Lanes.of (f w.advance)
  have hset (n : Nat) := Warp.vget_vset w.advance d.toNat n (w.performing g) x tag hd hP
  have hk := w.advance_kept
  have hs := w.advance.vset_kept d.toNat (w.performing g) x tag
  refine State.issue_leaves (w1 := w.advance.vset d.toNat (w.performing g) x tag) he h rfl (by simp)
    (by simp [hk.vw, hs.vw]) (fun t ht => ?_) fun t ht => ?_
  · refine Warp.only_of ht (by simp [hs.tx]) (by simp [hs.vpc]) (by simp [hk.ident, hs.ident]) (fun n hn => ?_) (fun n _ => ?_)
      (fun n _ => ?_) (by simp [hk.acc, hs.acc]) (by simp [hk.dc, hs.dc]) (by simp [hk.cfg, hs.cfg]) (by simp [hs.spr])
      (.inr (by simp [hs.spr])) (by simp [hk.husk, hk.nseq, hs.husk, hs.nseq])
    · rw [hset, if_neg (by simpa using hn)]; simp
    · rw [Warp.sget_congr hs.s]; simp
    · rw [Warp.pget_congr hs.p]; simp
  · refine Warp.lanesAre_of (x := x) ?_ fun l hl => by simpa [x, hl] using hφ l hl
    rw [Warp.vget_congr ht.v, hset, if_pos rfl]; simp

/-! ## Predicates -/

/-- `State.pop`: a ready word writes the bits of the performing lanes and raises their flags; p0 stays all ones. -/
theorem State.pop_result {s : State} {w : Warp} {i : Instr} {g : Guard} {src : List Src} {d : Nat}
    {f : Warp → Nat → Bool × FlagSet} {val : Nat → Bool} {fl : Nat → FlagSet}
    (he : exec i s = s.pop i g src d f) (hd : d < 16)
    (hv : ∀ l, l < 32 → (f w.advance l).1 = val l) (hfl : ∀ l, l < 32 → (f w.advance l).2 = fl l) :
    PredFlagResult s w i g src d (w.predLanes g d val) fl := by
  intro h
  let x := maskOf fun j => (f w.advance j).1
  have hset (n : Nat) := Warp.pget_pset w.advance d n (w.performing g) x
  have hk := w.advance_kept
  have hs := w.advance.pset_kept d (w.performing g) x
  refine State.issue_leaves (w1 := (w.advance.pset d (w.performing g) x).flags
    (laneFlags (w.performing g) fun j => (f w.advance j).2)) he h rfl (by simp) (by simp [hk.vw, hs.vw]) (fun t ht => ?_)
    fun t ht => ⟨fun l hl hdoom => ?_, ?_⟩
  · refine Warp.only_of ht (by simp) (by simp) (by simp [hk.ident, hs.ident]) (fun n _ => ?_) (fun n _ => ?_)
      (fun n hn => ?_) (by simp [hk.acc, hs.acc]) (by simp [hk.dc, hs.dc]) (by simp [hk.cfg, hs.cfg]) (by simp [hs.spr])
      (.inl rfl) (by simp [hk.husk, hk.nseq, hs.husk, hs.nseq])
    · rw [Warp.vget_congr (Warp.flags_v ..), Warp.vget_congr hs.v]; simp
    · rw [Warp.sget_congr (Warp.flags_s ..), Warp.sget_congr hs.s]; simp
    · rw [Warp.pget_congr (Warp.flags_p ..), hset, if_neg (by simp at hn; simp [hn])]; simp
  · rw [ht.p d l (by simpa using hdoom), Warp.pget_congr (Warp.flags_p ..), hset]
    by_cases h0 : d = 0
    · simp [h0, Warp.pget, hl]
    · simp only [h0, hd, ne_eq, not_false_eq_true, and_self, if_true, has_or, has_and, has_not, hl, decide_true,
        Bool.true_and, x, has_maskOf, hv l hl, Warp.predLanes, decide_false, Bool.false_or, Warp.advance_pget]
      cases has (w.performing g) l <;> simp
  · exact Warp.flagsAre_of (w1 := w.advance.pset d (w.performing g) x) ht.spr (by simp [hs.spr]) hfl

/-- `State.predOp`: a ready word writes all bits of its predicate register; p0 stays all ones. -/
theorem State.predOp_result {s : State} {w : Warp} {i : Instr} {g : Guard} {d : R8} {f : Warp → Mask} {val : Nat → Bool}
    (he : exec i s = s.predOp i g d f) (hd : d.toNat < 16) (hv : ∀ l, l < 32 → has (f w.advance) l = val l) :
    PredResult s w i g [] d.toNat val := by
  intro h
  obtain ⟨full, hfull⟩ : ∃ m : Mask, BitVec.allOnes 32 = m := ⟨_, rfl⟩
  have hall (l : Nat) : has full l = decide (l < 32) := by rw [← hfull]; exact has_ones l
  simp only [State.predOp, Warp.pfull, hfull] at he
  have hset (n : Nat) := Warp.pget_pset w.advance d.toNat n full (f w.advance)
  have hk := w.advance_kept
  have hs := w.advance.pset_kept d.toNat full (f w.advance)
  refine State.issue_leaves (w1 := w.advance.pset d.toNat full (f w.advance)) he h rfl (by simp)
    (by simp [hk.vw, hs.vw]) (fun t ht => ?_) fun t ht => ⟨fun l hl hdoom => ?_, ?_⟩
  · refine Warp.only_of ht (by simp) (by simp) (by simp [hk.ident, hs.ident]) (fun n _ => ?_) (fun n _ => ?_)
      (fun n hn => ?_) (by simp [hk.acc, hs.acc]) (by simp [hk.dc, hs.dc]) (by simp [hk.cfg, hs.cfg]) (by simp [hs.spr])
      (.inl rfl) (by simp [hk.husk, hk.nseq, hs.husk, hs.nseq])
    · rw [Warp.vget_congr hs.v]; simp
    · rw [Warp.sget_congr hs.s]; simp
    · rw [hset, if_neg (by simp at hn; simp [hn])]; simp
  · rw [ht.p d.toNat l (by simpa using hdoom), hset]
    by_cases h0 : d.toNat = 0
    · simp [h0, Warp.pget, hl]
    · simp [h0, hd, hl, hv l hl, hall]
  · intro k hk'
    rw [ht.spr, hs.spr]; simp

end Sys2Proof.Machine
end

