-- ==== Sys2Proof/Tests/Slice0.lean ====
section
/-! SUPPORT. Tests of the model: words written out from the manual's encodings, ill-formed terms that are refused, results worked
out from the manual, and for every statement states and operands that meet its hypotheses. -/

namespace Sys2Proof.Tests

set_option Elab.async false

open Sys2Proof Sys2Proof.Machine

/-- No guard. -/
abbrev g0 : Guard := ⟨0, false⟩

/-! ## Decoding: each word is written out from the encoding that the manual gives it -/

theorem decodes_control : ∀ p ∈ ([
    (0x0000000000000000, .nop g0),
    (0x0003800000000000, .nop ⟨3, true⟩),
    (0x01038000FFFFFFFF, .bra ⟨3, true⟩ 0xFFFFFFFF),
    (0x0201000006000000, .brx ⟨1, false⟩ 6),
    (0x0300000812345678, .call g0 8 0x12345678),
    (0x04000000FE000000, .ret g0 254),
    (0x050F000000000000, .exit ⟨15, false⟩),
    (0x0600000000002A00, .wait g0 0x2A),
    (0x0700000000000000, .yield g0),
    (0x080000007F000000, .sleep g0 127),
    (0x090000000000C300, .brk g0 0xC3),
    (0x0A00000001020001, .ipref g0 true 1 2),
    (0x0B00000001020000, .ipin g0 false 1 2),
    (0x0C00000001020001, .iunpin g0 true 1 2)] : List (Nat × Instr)),
    decodeTableWord 64 p.1 = some p.2 := by decide +kernel

theorem decodes_scalar1 : ∀ p ∈ ([
    (0x1000000905070030, .sadd g0 9 5 (.reg 7)),
    (0x1100000905070030, .ssub g0 9 5 (.reg 7)),
    (0x1200000905070030, .smul g0 9 5 (.reg 7)),
    (0x1400000905070030, .sand g0 9 5 (.reg 7)),
    (0x1500000905070030, .sor g0 9 5 (.reg 7)),
    (0x1600000905070030, .sxor g0 9 5 (.reg 7)),
    (0x1000430301FFFFFB, .sadd g0 3 1 (.imm 0xFFFFFB)),
    (0x1100430905800001, .ssub g0 9 5 (.imm 0x800001)),
    (0x1200430905000007, .smul g0 9 5 (.imm 7)),
    (0x1300000905070030, .smulh g0 false 9 5 7),
    (0x1300000905070031, .smulh g0 true 9 5 7),
    (0x1400430905000007, .sand g0 9 5 (.imm 7)),
    (0x1500430905000007, .sor g0 9 5 (.imm 7)),
    (0x1600430905000007, .sxor g0 9 5 (.imm 7)),
    (0x1700000905070030, .sshl g0 9 5 (.reg 7)),
    (0x170043090500003F, .sshl g0 9 5 (.imm 63)),
    (0x1800430905000001, .sshr g0 9 5 (.imm 1)),
    (0x1900430905000002, .ssra g0 9 5 (.imm 2)),
    (0x1A00000905000030, .smov g0 9 5),
    (0x1B00030900800000, .smovi g0 9 0x800000),
    (0x1B00130900123456, .smoviMid g0 9 0x123456),
    (0x1B0023090000FEDC, .smoviHi g0 9 0xFEDC),
    (0x1C00000506070039, .scmp g0 .geu 5 6 7),
    (0x1C00000506070032, .scmp g0 .lt 5 6 7)] : List (Nat × Instr)),
    decodeTableWord 64 p.1 = some p.2 := by decide +kernel

theorem decodes_scalar2 : ∀ p ∈ ([
    (0x1D00000102030430, .ssel g0 1 2 3 4),
    (0x1E00000102000030, .sclz g0 1 2),
    (0x1F00000102000030, .spopc g0 1 2)] : List (Nat × Instr)),
    decodeTableWord 64 p.1 = some p.2 := by decide +kernel

theorem decodes_vectorInteger1 : ∀ p ∈ ([
    (0x3000001415160000, .vadd g0 .i32 .none 20 21 22),
    (0x3000001415160014, .vadd g0 .u32 .p16 20 21 22),
    (0x3100001415160008, .vsub g0 .i32 .p8 20 21 22),
    (0x3200000402030111, .vaddc g0 .u32 4 2 3 1 1),
    (0x3300000402030F02, .vsubb g0 .i32 4 2 3 15 2),
    (0x3400001415160018, .vadds g0 .u32 .p8 20 21 22),
    (0x3500001415160004, .vsubs g0 .i32 .p16 20 21 22),
    (0x3600001415160010, .vmul g0 .u32 .none 20 21 22),
    (0x3700001415160010, .vmulh g0 .u32 20 21 22),
    (0x3800000102030400, .vmad g0 .i32 1 2 3 4),
    (0x3900001415160004, .vmin g0 .i32 .p16 20 21 22),
    (0x3A00001415160010, .vmax g0 .u32 .none 20 21 22),
    (0x3B00000102000008, .vabs g0 .p8 1 2),
    (0x3C00000102000000, .vneg g0 .none 1 2),
    (0x3D00000102030020, .vand g0 1 2 3),
    (0x3E00000102030020, .vor g0 1 2 3),
    (0x3F00000102030020, .vxor g0 1 2 3),
    (0x4000000102000020, .vnot g0 1 2),
    (0x4100000102030020, .vshl g0 1 2 3),
    (0x4200000102030020, .vshr g0 1 2 3),
    (0x4300000102030020, .vsra g0 1 2 3),
    (0x4400000102030020, .vrot g0 1 2 3),
    (0x4500000102030420, .vfunl g0 1 2 3 4),
    (0x4600000502030015, .vcmp g0 .ge .u32 5 2 3)] : List (Nat × Instr)),
    decodeTableWord 64 p.1 = some p.2 := by decide +kernel

theorem decodes_vectorInteger2 : ∀ p ∈ ([
    (0x4600000502030002, .vcmp g0 .lt .i32 5 2 3),
    (0x4700000102030E20, .vsel g0 1 2 3 14),
    (0x4800000102000020, .vmov g0 false 1 2),
    (0x4800000402000030, .vmov g0 true 4 2),
    (0x4900020100ABCDEF, .vmovi g0 .b32 1 0xABCDEF),
    (0x4900140100003F80, .vmoviHi g0 .f32 1 0x3F80),
    (0x4900200100001234, .vmoviLo g0 .i32 1 0x1234),
    (0x4A000001020304D0, .vdot4 g0 1 2 3 4),
    (0x4B00000102000020, .vclz g0 1 2),
    (0x4C00000102000020, .vpopc g0 1 2),
    (0x4D00000102000020, .vbrev g0 1 2),
    (0x4E00000102030021, .vbfe g0 true 1 2 3),
    (0x4F00000102030420, .vbfi g0 1 2 3 4),
    (0x5000000102030421, .vbitil g0 true 1 2 3 4),
    (0x5000000102030020, .vbitil g0 false 1 2 3 0),
    (0x5100000102000025, .vbitdl g0 true 1 2 2),
    (0x5100000102000022, .vbitdl g0 false 1 2 1)] : List (Nat × Instr)),
    decodeTableWord 64 p.1 = some p.2 := by decide +kernel

theorem decodes_float1 : ∀ p ∈ ([
    (0x6000000102030040, .vfadd g0 .f32 1 2 3),
    (0x6100000102030060, .vfsub g0 .h2 1 2 3),
    (0x6200000102030070, .vfmul g0 .bf2 1 2 3),
    (0x6300000A02040650, .vfma g0 .f64 10 2 4 6),
    (0x6400000102030040, .vfmin g0 .f32 1 2 3),
    (0x6500000204060050, .vfmax g0 .f64 2 4 6),
    (0x6600000502040057, .vfcmp g0 .or true 5 2 4),
    (0x6600000502030046, .vfcmp g0 .un false 5 2 3),
    (0x6700000102000050, .vfclass g0 true 1 2),
    (0x680000010200004C, .vfrnd g0 false .rup true 1 2),
    (0x6800000204000052, .vfrnd g0 true .rtz false 2 4),
    (0x6900000102030040, .vfscale g0 false 1 2 3),
    (0x6A00000204000050, .vffrac g0 true 2 4),
    (0x6BF0000102030040, .vfdivs g0 15 false 1 2 3),
    (0x6C10000204000050, .vfsqrts g0 1 true 2 4),
    (0x7010000102000040, .vfrcp g0 1 1 2),
    (0x7120000102000040, .vfrsq g0 2 1 2),
    (0x7230000102000040, .vfexp2 g0 3 1 2),
    (0x7340000102000040, .vflog2 g0 4 1 2),
    (0x7450000102000040, .vfsinp g0 5 1 2),
    (0x7560000102000040, .vfcosp g0 6 1 2),
    (0x7820000204090040, .vsmupd g0 2 2 4 9),
    (0x7900000204000040, .vsmfin g0 0 2 4),
    (0x8000000102000402, .vcvt g0 .i32f32 .rtz 1 2)] : List (Nat × Instr)),
    decodeTableWord 64 p.1 = some p.2 := by decide +kernel

theorem decodes_float2 : ∀ p ∈ ([
    (0x8000000205000153, .vcvt g0 .f64u32 .rdn 2 5),
    (0x8100000104000481, .vpack g0 .e4 .rne 1 4),
    (0x8100000104000008, .vpack g0 .i16 .dyn 1 4),
    (0x8200000401000640, .vunpack g0 .h2 4 1),
    (0x83000001020300A3, .vbxq g0 .x8 3 1 3 2),
    (0x84000001020300C7, .vbxd g0 .x4 7 1 2 3),
    (0x85000001080000C0, .vplane g0 .x4 1 8),
    (0x86000008010000E0, .vunplane g0 .i4 8 1),
    (0x8700000102000D00, .vtag g0 1 2 13)] : List (Nat × Instr)),
    decodeTableWord 64 p.1 = some p.2 := by decide +kernel

theorem decodes_lanes : ∀ p ∈ ([
    (0x9002000301000024, .vballot ⟨2, false⟩ 3 1 0 4),
    (0x9100000805000900, .vvote g0 .all 8 5 0 9),
    (0x9100000805030902, .vvote g0 .eq 8 5 3 9),
    (0x9200000102030423, .vshfl g0 .dn 1 2 3 4),
    (0x9300000708090720, .vshflp g0 7 8 9 7),
    (0x9400000102001F20, .vbcast g0 1 (.lane 2 31)),
    (0x9400000102000021, .vbcast g0 1 (.scal 2)),
    (0x9500000501006500, .vreduce g0 .addI 5 1 5 6),
    (0x9500000501006542, .vreduce g0 .maxF 5 1 5 6),
    (0x960000050100652D, .vscan g0 .xor true 5 1 5 6),
    (0x9700000501006520, .vmatch g0 5 1 5 6),
    (0x9800000102030000, .pand g0 1 2 3),
    (0x9900000102030000, .por g0 1 2 3),
    (0x9A00000102030000, .pxor g0 1 2 3),
    (0x9B00000102000000, .pnot g0 1 2),
    (0x9C00000102000000, .pmov g0 1 2),
    (0x9C0000C802000001, .pmovTov g0 200 2),
    (0x9C000001C8000002, .pmovFrv g0 1 200),
    (0x9C00006402000003, .pmovTos g0 100 2),
    (0x9D00000164000000, .pset g0 1 100),
    (0x9D00000100031F01, .psetRng g0 1 3 31),
    (0x9D000001001F0902, .psetAnd g0 1 31 9),
    (0x9E00006402000000, .pcount g0 100 2),
    (0x9F00006402000000, .pfirst g0 100 2)] : List (Nat × Instr)),
    decodeTableWord 64 p.1 = some p.2 := by decide +kernel

theorem decodes_memory : ∀ p ∈ ([
    (0xA020100502004018, .ld g0 2 (.full .u32) .acq .cl (.so 2 0x40) 5),
    (0xA000070C02001040, .ld g0 0 (.quad .f32) .none .dv (.vo 2 0x10) 12),
    (0xA100200704000820, .st g0 (.full .b32) .rel .dv (.so 4 8) 7),
    (0xA000010502FFF000, .ld g0 0 (.w8 .i32) .none .dv (.so 2 0xFFF0) 5),
    (0xA2300A0502090010, .lds g0 3 (.w16 .u32) .none .dv (.sv 2 9) 5),
    (0xA300000402000450, .sts g0 (.full .f64) .none .dv (.so 2 4) 4),
    (0xA410100502000828, .ldc g0 1 false true .cl 2 8 5),
    (0xA400000502000830, .ldc g0 0 true false .dv 2 8 5),
    (0xA5000A08010200C0, .ldp g0 0 .x4 2 (.sv 1 2) 8),
    (0xA6000003010020D0, .ldt g0 0 13 (.so 1 0x20) 3),
    (0xA700010002000800, .pref g0 true (.so 2 8)),
    (0xA800040002000800, .cwb g0 (.vo 2 8)),
    (0xA900080002030000, .cinv g0 (.sv 2 3)),
    (0xB000040902000400, .atom g0 0 .add false .none .dv (.v 2) 9 4),
    (0xB000200802000491, .atom g0 0 .exch true .rel .dv (.s 2) 8 4),
    (0xB100380A06030C01, .acas g0 0 true .ar .dv (.sv 6 3) 10 12),
    (0xB100300A06000C00, .acas g0 0 false .ar .dv (.s 6) 10 12),
    (0xB2000400020005C8, .red g0 .fadd false .none .cl (.v 2) 5),
    (0xB300080001020608, .vbmin g0 .none .cl (.sv 1 2) 6)] : List (Nat × Instr)),
    decodeTableWord 64 p.1 = some p.2 := by decide +kernel

theorem decodes_sync : ∀ p ∈ ([
    (0xC000040000000008, .fence g0 .sc .cl),
    (0xC100000000000000, .bfence g0),
    (0xC200000100000000, .tbegin g0 1),
    (0xC200010000000000, .tend g0),
    (0xC200020000000700, .tabort g0 7),
    (0xC200030600000000, .ttest g0 6),
    (0xC300000004060008, .osenter g0 true 4 6),
    (0xC300010004000008, .osleave g0 true 4),
    (0xC300020004060000, .osreset g0 false 4 6),
    (0xC340030804000008, .osquery g0 4 true 8 4),
    (0xC400000000000100, .bar g0 1),
    (0xC500000005000701, .phase g0 7 .add 5),
    (0xC50000000000FF00, .phase g0 255 .none 0),
    (0xC600000400000302, .grpq g0 0 .rank 4 3),
    (0xC700000908010000, .mbinit g0 8 0x100 9),
    (0xC700100908010000, .mbexp g0 8 0x100 9),
    (0xC700200008010008, .mbarr g0 .cl 8 0x100),
    (0xC700300308010008, .mbwait g0 .cl 3 8 0x100),
    (0xC700310308010004, .mbwaitCur g0 .wg 3 8 0x100),
    (0xC700400308010008, .mbtest g0 .cl 3 8 0x100),
    (0xC700410308010000, .mbtestSnap g0 3 8 0x100)] : List (Nat × Instr)),
    decodeTableWord 64 p.1 = some p.2 := by decide +kernel

theorem decodes_engines : ∀ p ∈ ([
    (0xD000000008000060, .ckick g0 3 8),
    (0xD1000000020C0000, .enq g0 2 12),
    (0xD250001002000000, .deq g0 5 16 2),
    (0xD300001002000500, .qtry g0 0 16 2 5),
    (0xD4000000040800C0, .tspawn g0 6 4 8),
    (0xD500000002081400, .cont g0 2 8 4 1),
    (0xD600000004080023, .bgemv g0 1 true true 4 8),
    (0xD700000300000002, .bstat g0 0 .rayinv 3),
    (0xD8000000080C140A, .rtrace g0 0 true 2 8 12 20),
    (0xD8000000080C1446, .rtrace g0 2 false 6 8 12 20),
    (0xD920001008050008, .rtquery g0 2 true 16 8 5),
    (0xDA00000001040910, .msvtx g0 16 1 4 9),
    (0xDB00000001020400, .msprim g0 1 2 4),
    (0xDC00000001020000, .msend g0 1 2),
    (0xDD00000007000063, .fsout g0 .h2 3 7),
    (0xDE10001005000000, .gzread g0 1 16 5)] : List (Nat × Instr)),
    decodeTableWord 64 p.1 = some p.2 := by decide +kernel

theorem decodes_matrix : ∀ p ∈ ([
    (0xE000000000000980, .mcfgTy g0 .e4 .e5),
    (0xE000010004050000, .mcfgA g0 4 5),
    (0xE000020004050000, .mcfgB g0 4 5),
    (0xE000030004050000, .mcfgAx g0 4 5),
    (0xE000040004050000, .mcfgBx g0 4 5),
    (0xE000050004000000, .mcfgK g0 4),
    (0xE100000300001000, .mloop g0 3 (.imm 16) false),
    (0xE100000306000003, .mloop g0 3 (.reg 6) true),
    (0xE200000200000000, .mzero g0 .i32 2),
    (0xE300000110000801, .mmova g0 0 .oct 16 1 8),
    (0xE400000104000602, .mmovv g0 .f64 1 4 6),
    (0xE500000008090060, .msta g0 .h2 8 9 0),
    (0xE600000506002901, .mcoop g0 5 6 2 9 1 false),
    (0xE700000F00000000, .mfree g0 15)] : List (Nat × Instr)),
    decodeTableWord 64 p.1 = some p.2 := by decide +kernel

theorem decodes_system : ∀ p ∈ ([
    (0xF030000500001000, .sread g0 3 false 5 .timebase),
    (0xF000010600004800, .sread g0 0 true 6 .vpc),
    (0xF100000005001800, .swrite g0 false 5 .fmode),
    (0xF100010006002300, .swrite g0 true 6 .tvec),
    (0xF200000000BEEF00, .trap g0 0xBEEF),
    (0xF300000000000000, .eret g0),
    (0xF400000000123400, .halt g0 0x1234),
    (0xF500000000000000, .ckpt g0)] : List (Nat × Instr)),
    decodeTableWord 64 p.1 = some p.2 := by decide +kernel

theorem decodes_paired : ∀ p ∈ ([
    (0x0004080DFC000000, .pairedWord (.op .vadd .u32 1 2 3) .nop),
    (0x8824101794281803, .pairedWord (.op .vfmul .f32 9 4 5) (.op .vfrcp .f32 10 6 0)),
    (0xC024101650281802, .pairedWord (.op .vshfl .b32 9 4 5) (.op .vpopc .b32 10 6 0))] : List (Nat × Instr)),
    decodeTableWord 64 p.1 = some p.2 := by decide +kernel

/-! ## Well-formed instructions: one ill-formed term for each check -/

theorem ill_formed_forms : ∀ i ∈ ([
    .vbitdl g0 false 1 4 2, .vbxq g0 .x8 4 8 9 4, .vbxd g0 .x8 4 8 4 9,
    .pairedWord (.op .vadd .f32 8 4 6) .nop, .pairedWord (.op .vadd .i32 8 4 6) (.op .vsub .i32 8 4 6),
    .pairedWord (.op .vfrcp .f32 8 4 0) (.op .vfrsq .f32 9 5 0), .pairedWord (.op .vadd .i32 8 0 4) .nop,
    .ld g0 1 (.w8 .u32) .acq .dv (.so 4 0) 8, .ld g0 1 (.full .u32) .none .cl (.so 4 0) 8, .lds g0 1 (.full .u32) .rel .dv (.so 4 0) 8,
    .st g0 (.full .u32) .acq .dv (.so 4 0) 8, .sts g0 (.quad .f64) .none .dv (.so 4 0) 8, .ldc g0 1 false false .cl 4 0 8,
    .ldt g0 1 15 (.so 4 0) 8, .atom g0 1 .add false .none .dv (.v 4) 0 6, .atom g0 1 .fadd true .none .dv (.v 4) 8 6,
    .acas g0 1 false .none .dv (.v 4) 0 6, .red g0 .fadd true .none .dv (.v 4) 6, .fence g0 .none .dv] : List Instr),
    i.wf = false := by decide +kernel

theorem ill_formed_fields : ∀ i ∈ ([
    .mcfgTy g0 .e4 .f32, .rtrace g0 1 false 7 8 4 16, .msvtx g0 17 4 8 12, .sread g0 1 false 8 .idLane, .swrite g0 false 4 .idWarp,
    .sshl g0 8 4 (.imm 64), .sshr g0 8 4 (.imm 64), .ssra g0 8 4 (.imm 64), .vbitil g0 false 8 4 6 10, .psetRng g0 1 5 4,
    .pairedWord (.op .vnot .b32 8 4 6) .nop, .phase g0 0 .none 1, .mmova g0 1 .oct 8 0 1, .mmovv g0 .oct 0 8 1, .ckick g0 7 4,
    .tspawn g0 7 4 8, .bgemv g0 7 false false 4 8, .cont g0 4 8 13 0, .cont g0 4 8 0 0, .rtrace g0 7 false 0 8 4 0,
    .rtrace g0 1 false 0 8 4 16, .msvtx g0 0 4 8 12] : List Instr), i.wf = false := by decide +kernel

theorem ill_formed_registers : ∀ i ∈ ([
    .sadd g0 128 1 (.reg 2), .sadd g0 1 2 (.reg 128), .pand g0 16 1 2, .vmov g0 true 9 4, .vfadd g0 .f64 8 5 6,
    .ld g0 1 (.quad .f32) .none .dv (.so 4 0) 6, .ld g0 1 (.full .u32) .none .dv (.vo 5 0) 8] : List Instr),
    i.wf = false := by decide +kernel

/-- The words that would stand for ill-formed instructions are refused: PSET with bounds out of order, an odd pair, a shift by 64. -/
theorem ill_formed_words_refused : ∀ i ∈ ([
    .psetRng g0 1 5 4, .vmov g0 true 9 4, .sshl g0 8 4 (.imm 64), .fence g0 .none .dv, .mmova g0 1 .oct 8 0 1] : List Instr),
    ((encode i).bind fun w => decodeTableWord 64 w.toNat) = none := by decide +kernel

/-! ## The hypotheses of the statements can be met: instruction words

`onTurn f` is a machine with one warp in its turn inside a clause of one word, the warp changed by `f`; in `mapped s`, a page at
0x4000_0000 may be read and written, and so may the warp's own scratchpad, at 0xF1 << 48. -/

def mapped (s : State) : State :=
  let m := (s.mem.put64 (imgTable + 8) (at_ 1 52 ||| at_ (0x80000000 / 4096) 12 ||| 0x2F)).put64 (imgRoot + 8 * (0xF1 * 512))
    (at_ ((imgTable + 4096) / 4096) 12 ||| 1)
  let s := s.setMem (m.put64 (imgTable + 4096) 0x10F)
  let who : Who := ⟨1, some 0, some 2⟩
  ((s.translate who 0x40000000 4 Need.read).2.translate who (0xF1 * 2 ^ 48) 4 Need.read).2

def onTurn (f : Warp → Warp := id) : State :=
  let s := State.reset.place 0
  -- an address of the link in place of the constant of the device, so that two states can be compared
  let s := { s with io := { s.io with ports := s.io.ports.map fun (p : Port) => { p with linkLocal := 0 } } }
  match s.issuer with
  | some w => s.setWarp (f w)
  | none => s

def plain (w : Warp) : Bool := !w.huskFull && w.tx.inTx &&& w.performing g0 == 0

/-- The word is ready under its guard, its warp has no pending pipeline result, and `φ` holds. -/
def meetsUnder (g : Guard) (s : State) (i : Instr) (src : List Src) (φ : State → Warp → Bool) : Bool :=
  match s.issuer with
  | some w => i.wf && !s.holds w && !s.pairPass w i (w.performing g) && (w.check i src (w.performing g)).isNone && !w.suspWait i
      && w.performing g != 0 && !(buffered i && s.bufferFull w) && w.pipe.isEmpty && φ s w
  | none => false

abbrev meetsAt (s : State) (i : Instr) (src : List Src) (φ : State → Warp → Bool) : Bool := meetsUnder g0 s i src φ

abbrev meets (i : Instr) (src : List Src := []) (f : Warp → Warp := id) (φ : State → Warp → Bool := fun _ w => plain w) : Bool :=
  meetsAt (onTurn f) i src φ

theorem of_meets {i : Instr} {src : List Src} {φ : State → Warp → Bool} {s : State} {g : Guard}
    (h : meetsUnder g s i src φ = true) : ∃ w : Warp, Ready s w i g src ∧ w.pipe = [] ∧ φ s w = true := by
  unfold meetsUnder at h
  split at h
  · next w e =>
    simp only [Bool.and_eq_true, Bool.not_eq_true', bne_iff_ne, Option.isNone_iff_eq_none, List.isEmpty_iff] at h
    obtain ⟨⟨⟨⟨⟨⟨⟨⟨h1, h2⟩, h3⟩, h4⟩, h5⟩, h6⟩, hb⟩, h7⟩, h8⟩ := h
    exact ⟨w, ⟨h1, e, h2, h3, h4, h5, h6, hb⟩, h7, h8⟩
  · cases h

theorem of_plain {w : Warp} (h : plain w = true) : Plain w g0 := by
  simpa [plain, Plain] using h

def rg (t : List Nat) (l : List R8) (n : Nat := 1) : List Src := l.map fun r => ⟨r, n, t⟩

theorem witness_ScalarInstructions : ∀ i ∈ ([
    .sadd g0 8 4 (.reg 6), .ssub g0 127 4 (.imm 0xFFFFFF), .smul g0 8 4 (.reg 6), .smulh g0 false 8 4 6, .smulh g0 true 8 4 6,
    .sand g0 8 4 (.reg 6), .sor g0 8 4 (.reg 6), .sxor g0 8 4 (.reg 6), .sshl g0 8 4 (.imm 63), .sshr g0 8 4 (.reg 6),
    .ssra g0 8 4 (.reg 6), .smov g0 8 4, .smovi g0 8 1, .ssel g0 8 4 6 10, .sclz g0 8 4, .spopc g0 8 4, .smoviMid g0 8 1,
    .smoviHi g0 8 1] : List Instr), meets i = true := by decide +kernel

theorem witness_PredicateInstructions : ∀ p ∈ ([
    (.scmp g0 .eq 1 4 6, []), (.pand g0 1 4 3, []), (.por g0 1 4 3, []), (.pxor g0 1 4 3, []), (.pnot g0 1 4, []), (.pmov g0 15 4, []),
    (.pset g0 1 4, []), (.psetRng g0 1 0 31, []), (.psetAnd g0 1 3 1, []), (.pmovFrv g0 1 4, rg tRaw [4]),
    (.vcmp g0 .lt .i32 1 4 6, rg tInt [4, 6]), (.vcmp g0 .ge .u32 1 4 6, rg tInt [4, 6]), (.vfcmp g0 .eq false 1 4 6, rg (dblTags false) [4, 6]),
    (.vfcmp g0 .eq true 1 4 6, rg (dblTags true) [4, 6] 2), (.pmovTos g0 8 4, []), (.pcount g0 8 4, []), (.pfirst g0 8 4, []),
    (.pmovTov g0 8 4, [])] : List (Instr × List Src)), meets p.1 p.2 = true := by decide +kernel

theorem witness_VectorIntegerWraps : ∀ pk ∈ [Pack.none, .p8, .p16], ∀ t ∈ [ITy.i32, .u32],
    meets (.vadd g0 t pk 8 4 6) (rg (intTags pk) [4, 6]) = true ∧ meets (.vsub g0 t pk 8 4 6) (rg (intTags pk) [4, 6]) = true ∧
    meets (.vmul g0 t pk 8 4 6) (rg (intTags pk) [4, 6]) = true ∧ meets (.vmin g0 t pk 8 4 6) (rg (intTags pk) [4, 6]) = true ∧
    meets (.vmax g0 t pk 8 4 6) (rg (intTags pk) [4, 6]) = true ∧ meets (.vabs g0 pk 8 4) (rg (intTags pk) [4]) = true ∧
    meets (.vneg g0 pk 8 4) (rg (intTags pk) [4]) = true := by decide +kernel

theorem witness_VectorIntegerSaturates : ∀ pk ∈ [Pack.none, .p8, .p16],
    meets (.vadds g0 .i32 pk 8 4 6) (rg (intTags pk) [4, 6]) = true ∧ meets (.vsubs g0 .u32 pk 8 4 6) (rg (intTags pk) [4, 6]) = true ∧
    meets (.vdot4 g0 8 4 6 10) (rg [0, 12] [4, 6] ++ rg tInt [10]) = true := by decide +kernel

theorem witness_VectorBits : ∀ p ∈ ([
    (.vand g0 8 4 6, [4, 6]), (.vor g0 8 4 6, [4, 6]), (.vxor g0 8 4 6, [4, 6]), (.vnot g0 8 4, [4]), (.vshl g0 8 4 6, [4, 6]),
    (.vshr g0 8 4 6, [4, 6]), (.vsra g0 8 4 6, [4, 6]), (.vrot g0 8 4 6, [4, 6]), (.vfunl g0 8 4 6 10, [4, 6, 10]), (.vclz g0 8 4, [4]),
    (.vpopc g0 8 4, [4]), (.vbrev g0 8 4, [4]), (.vbfe g0 false 8 4 6, [4, 6]), (.vbfe g0 true 8 4 6, [4, 6]),
    (.vbfi g0 8 4 6 10, [4, 6, 10]), (.vbitil g0 false 8 4 6 0, [4, 6]), (.vbitil g0 true 8 4 6 10, [4, 6, 10]),
    (.vbitdl g0 false 8 4 1, [4]), (.vbitdl g0 true 8 4 2, [4])] : List (Instr × List R8)), meets p.1 (rg tRaw p.2) = true := by
  decide +kernel

theorem witness_VectorBits_products : meets (.vmulh g0 .i32 8 4 6) (rg tInt [4, 6]) = true ∧
    meets (.vmad g0 .u32 8 4 6 10) (rg tInt [4, 6, 10]) = true := by decide +kernel

theorem witness_CarryChains : meets (.vaddc g0 .u32 8 4 6 1 1) (rg tInt [4, 6]) = true ∧
    meets (.vsubb g0 .i32 8 4 6 0 0) (rg tInt [4, 6]) = true := by decide +kernel

theorem witness_VectorMoves : ∀ p ∈ ([
    (.vsel g0 8 4 6 1, rg tAny [4, 6]), (.vmov g0 false 8 4, rg tAny [4]), (.vmov g0 true 8 4, rg tAny [4] 2), (.vmovi g0 .i32 8 1, []),
    (.vmoviHi g0 .f32 8 1, []), (.vmoviLo g0 .u32 8 1, rg (movTags .u32) [8]), (.vtag g0 8 4 3, rg tAny [4]),
    (.vbcast g0 8 (.lane 4 31), rg tAny [4]), (.vbcast g0 8 (.scal 4), [])] : List (Instr × List Src)), meets p.1 p.2 = true := by
  decide +kernel

theorem witness_FloatResults : ∀ t ∈ [FTy.f32, .f64, .h2, .bf2],
    let s (l : List R8) := rg (fTags t) l t.regs
    meets (.vfadd g0 t 8 4 6) (s [4, 6]) = true ∧ meets (.vfsub g0 t 8 4 6) (s [4, 6]) = true ∧ meets (.vfmul g0 t 8 4 6) (s [4, 6]) = true ∧
    meets (.vfma g0 t 8 4 6 10) (s [4, 6, 10]) = true ∧ meets (.vfmin g0 t 8 4 6) (s [4, 6]) = true ∧
    meets (.vfmax g0 t 8 4 6) (s [4, 6]) = true := by decide +kernel

theorem witness_FloatResults_unary : ∀ d ∈ [false, true],
    let s := rg (dblTags d) [4] (dblRegs d)
    meets (.vfrnd g0 d .dyn false 8 4) s = true ∧ meets (.vffrac g0 d 8 4) s = true ∧ meets (.vfclass g0 d 8 4) s = true ∧
    meets (.vfscale g0 d 8 4 6) (s ++ rg tInt [6]) = true := by decide +kernel

theorem witness_RoundingAndNans : (F32.value 0x3F800000).isNan = false ∧ (F32.value 0x7FC00000).isNan = true ∧
    (F32.value 0x7F800001).isSig = true ∧ (F16.value 0x3C00).isNan = false := by decide +kernel

/-- Infinities, zeros, products that cancel their addend and products that do not; a value with an inexact root. -/
theorem witness_RoundingAndNans_fma : F32.value 0x7F800000 = .inf false ∧ (∃ e, F32.value 0 = .fin false 0 e) ∧
    (∀ x ∈ [0x40000000, 0x40000001], ∃ m e, F32.value x = .fin false m e ∧ 0 < m) ∧
    (let S (m3 : Nat) : Int := -(6 : Int) * 2 ^ (2 - min 2 1 : Int).toNat + m3 * 2 ^ (1 - min 2 1 : Int).toNat
     S 12 = 0 ∧ S 13 ≠ 0) :=
  ⟨by decide +kernel, ⟨_, rfl⟩, (fun x h => by
    have k : ∀ x ∈ [0x40000000, 0x40000001], (match F32.value x with | .fin false m _ => decide (0 < m) | _ => false) = true := by decide +kernel
    have := k x h
    split at this
    · next m e q => exact ⟨m, e, q, of_decide_eq_true this⟩
    · cases this), by decide +kernel⟩

theorem witness_FloatPipelines : ∀ p ∈ ([
    (.vfdivs g0 1 false 8 4 6, rg tF32 [4, 6]), (.vfdivs g0 1 true 8 4 6, rg tF64 [4, 6] 2), (.vfsqrts g0 1 false 8 4, rg tF32 [4]),
    (.vfsqrts g0 1 true 8 4, rg tF64 [4] 2), (.vfrcp g0 1 8 4, rg tF32 [4]), (.vfrsq g0 1 8 4, rg tF32 [4]),
    (.vfexp2 g0 1 8 4, rg tF32 [4]), (.vflog2 g0 15 8 4, rg tF32 [4]), (.vfsinp g0 1 8 4, rg tF32 [4]), (.vfcosp g0 1 8 4, rg tF32 [4]),
    (.vsmupd g0 1 8 4 6, [⟨8, 2, tF32⟩, ⟨4, 4, tF32⟩, ⟨6, 1, tF32⟩]), (.vsmfin g0 1 8 4, rg tF32 [4] 2)] : List (Instr × List Src)),
    meets p.1 p.2 = true := by decide +kernel

theorem witness_FormatConversions : ∀ p ∈ ([
    (.vcvt g0 .f32i32 .dyn 8 4, [⟨4, dblRegs (Cvt.dblS .f32i32), cvtSrcTags .f32i32⟩]),
    (.vcvt g0 .f64f32 .dyn 8 4, [⟨4, dblRegs (Cvt.dblS .f64f32), cvtSrcTags .f64f32⟩]),
    (.vpack g0 .h2 .dyn 8 4, [⟨4, PackFmt.n .h2, wideTags .h2⟩]), (.vunpack g0 .h2 8 4, [⟨4, 1, [0, (packTag .h2).toNat]⟩]),
    (.vbxq g0 .x8 0 8 9 4, rg tF32 [4]), (.vbxd g0 .x4 7 8 4 9, [⟨4, 1, [0, (bxTag .x4).toNat]⟩, ⟨9, 1, tRaw⟩]),
    (.vplane g0 .x6 8 4, [⟨4, PlFmt.q .x6, tRaw⟩]), (.vunplane g0 .i4 8 4, [⟨4, 1, [0, (plTag .i4).toNat]⟩])] : List (Instr × List Src)),
    meets p.1 p.2 = true := by decide +kernel

theorem witness_LaneCrossing : ∀ p ∈ ([
    (.vballot g0 1 4 31 2, rg tRaw [4]), (.vvote g0 .all 1 2 3 4, []), (.vvote g0 .any 1 2 3 4, []), (.vvote g0 .eq 1 2 3 4, []),
    (.vshfl g0 .idx 8 4 6 1, rg tAny [4] ++ rg tRaw [6]), (.vshfl g0 .dn 8 4 6 1, rg tAny [4] ++ rg tRaw [6]),
    (.vshflp g0 8 4 6 1, rg tAny [4] ++ rg tRaw [6]), (.vmatch g0 8 4 1 2, rg tRaw [4])] : List (Instr × List Src)),
    meets p.1 p.2 = true := by decide +kernel

theorem witness_Reductions : ∀ op ∈ [RedOp.addI, .minI, .and, .addF], meets (.vreduce g0 op 8 4 0 1) (rg (redTags op) [4]) = true ∧
    meets (.vscan g0 op false 8 4 1 0) (rg (redTags op) [4]) = true ∧ meets (.vscan g0 op true 8 4 1 2) (rg (redTags op) [4]) = true := by
  decide +kernel

theorem witness_PairedWords : ∀ p ∈ ([
    (.op .vadd .u32 8 4 6, .nop), (.op .vadd .i32 8 4 6, .op .vfmul .f32 9 5 6), (.op .vfrcp .f32 8 4 0, .op .vshfl .b32 9 5 6),
    (.nop, .nop)] : List (Compact × Compact)), meets (.pairedWord p.1 p.2) (compactSrc p.1 ++ compactSrc p.2) = true := by decide +kernel

def setV (n : Nat) (x : Word32) (w : Warp) : Warp := { w with v := w.v.set n ⟨Lanes.all x, 0⟩ }
def setS (l : List (Nat × Word64)) (w : Warp) : Warp := { w with s := l.foldl (fun s p => s.set p.1 p.2) w.s }
def setTx (m : Mask) (w : Warp) : Warp := { w with tx := { w.tx with inTx := m } }
/-- The warp's sheaf changed by `f`, and its launch by `g`. -/
def withSheaf (s : State) (f : Sheaf → Sheaf) (g : Launch → Launch := id) : State :=
  { s with sheaves := s.sheaves.map f, launches := s.launches.map g }
/-- A group 7 of all workgroups. -/
def grouped (s : State) : State := withSheaf s id fun l => { l with groups := [⟨7, true, [], false, 0, 0, 0, [], [], 0, false⟩] }
/-- The warp's sheaf as the leading copy of a pair whose trailing copy has finished. -/
def paired (s : State) : State :=
  let s := withSheaf s fun h => { h with twin := some 9 }
  { s with sheaves := s.sheaves ++ s.sheaves.map fun h => { h with sid := 9, twin := some 2, trail := true } }

theorem witness_ControlTransfers : ∀ p ∈ ([
    (.nop g0, []), (.bra g0 5, []), (.bra g0 0xFFFFFFFF, []), (.call g0 8 5, []), (.brx g0 4, rg tRaw [4] 2), (.ret g0 4, rg tRaw [4] 2)] :
    List (Instr × List Src)), meets p.1 p.2 id (fun _ w => plain w && (List.range 32).all fun l => (w.ln64 4 l).toNat % 8 == 0) = true := by
  decide +kernel

theorem witness_ControlTransfers_bad : ∀ i ∈ [Instr.brx g0 4, .ret g0 4], ∀ f ∈ [setV 4 4, setV 5 0x01000000],
    meets i (rg tRaw [4] 2) f (fun _ w => has (w.performing g0) 31 &&
      decide ((w.ln64 4 31).toNat % 8 ≠ 0 ∨ 2 ^ 56 ≤ (w.ln64 4 31).toNat)) = true := by decide +kernel

theorem witness_TurnAndSheafEnders : ∀ i ∈ [Instr.yield g0, .wait g0 63, .sleep g0 4, .exit g0, .halt g0 7, .ckpt g0],
    meets i [] id (fun s w => (s.twinOf w).isNone && (s.leadOf w.ident.sid).isNone && (s.sheaf w.ident.sid).isSome) = true := by
  decide +kernel

/-- An EXIT whose guard holds in half of the executing lanes; a HALT in a launch whose packet still runs. -/
theorem witness_TurnAndSheafEnders_lanes : meetsUnder ⟨2, false⟩ (onTurn fun w => { w with p := w.p.set! 2 0xFF }) (.exit ⟨2, false⟩) []
    (fun _ w => has w.exec 9 && !has (w.performing ⟨2, false⟩) 9 && !has w.tx.doomed 9) = true := by decide +kernel

/-- A queue of number q, of context 1, with the packet w at the head of its ring; a command core has it. -/
def ringQueue (q : Nat) : Queue :=
  { q := q, ctx := 1, k := 6, ring := 0x50000000, cring := 0, rkey := 0, logS := 4, qp := 1, port := 0, h := 0, t := 1, recNo := 0,
    running := [], unmapping := false, lock := some 0, lost := false, dqp := 1 }

theorem witness_TurnAndSheafEnders_halt :
    let q : Queue := { ringQueue 0 with h := 1, running := [⟨0, 1, 0, false, 0, 0, .launch 1⟩], lock := none }
    let s := { onTurn with cmd := { onTurn.cmd with queues := [q] } }
    meetsAt s (.halt g0 7) [] (fun s w => (s.twinOf w).isNone && (s.sheaf w.ident.sid).isSome && decide s.evRoom &&
      (s.launch w.ident.lid).any fun l => (s.running l.queue l.packet).isSome && (s.queue l.queue).any (!·.lost)) = true := by decide +kernel

theorem witness_TurnAndSheafEnders_pair :
    meetsAt (paired (onTurn)) (.ckpt g0) [] (fun s w => (s.leadOf w.ident.sid).isSome) = true := by decide +kernel

theorem witness_MemoryInstructionsIssue : ∀ m ∈ [MAddr.so 4 8, .vo 4 8, .sv 4 6], ∀ t ∈ [Ty.u32, .x6],
    meets (.ld g0 1 (.full t) .none .dv m 10) (mSrc m) = true ∧ meets (.lds g0 1 (.full t) .none .dv m 10) (mSrc m) = true ∧
    meets (.ldt g0 1 3 m 10) (mSrc m) = true ∧ meets (.ldp g0 1 .x6 1 m 10) (mSrc m) = true ∧
    meets (.st g0 (.full t) .none .dv m 10) (mSrc m ++ [⟨10, LdW.regs (.full t), 15 :: ldTags (.full t)⟩]) id
      (fun s w => plain w && !s.storesPoison w 10 (LdW.regs (.full t))) = true ∧
    meets (.sts g0 (.full t) .none .dv m 10) (mSrc m ++ [⟨10, LdW.regs (.full t), 15 :: ldTags (.full t)⟩]) id
      (fun s w => plain w && !s.storesPoison w 10 (LdW.regs (.full t))) = true := by decide +kernel

theorem witness_MemoryInstructionsIssue_atomics : ∀ m ∈ [AAddr.s 4, .v 4, .sv 4 6],
    meets (.ldc g0 1 true false .dv 4 8 8) = true ∧ meets (.atom g0 1 .add false .none .dv m 10 12) (aSrc m ++ rg (atomTags .add false) [12]) = true ∧
    meets (.atom g0 1 .smax true .ar .sy m 10 12) (aSrc m ++ rg (atomTags .smax true) [12] 2) = true ∧
    meets (.acas g0 1 false .none .dv m 10 12) (aSrc m ++ (rg tRaw [12] ++ rg tRaw [10])) = true ∧
    meets (.red g0 .add false .none .dv m 12) (aSrc m ++ rg (atomTags .add false) [12]) = true ∧
    meets (.vbmin g0 .none .dv m 12) (aSrc m ++ rg tRaw [12] 2) = true := by decide +kernel

/-- Every lane is in transaction, and names the same line of device memory. -/
theorem witness_MemoryInstructionsIssue_transactions : ∀ m ∈ [MAddr.so 4 8, .vo 4 8, .sv 4 6], ∀ t ∈ [Ty.u32, .x6],
    let φ (s : State) (w : Warp) := !w.huskFull && w.performing g0 &&& ~~~w.tx.inTx == 0 && !s.storesPoison w 10 (LdW.regs (.full t)) &&
      ((List.range 32).all fun l => regionOf (mAt w m l).toNat == some .ordinary) &&
      decide (((List.range 32).map fun l => (mAt w m l).toNat / 128).eraseDups.length ≤ 32) && (w.txSet true w.tx.inTx).isEmpty &&
      (w.txSet false w.tx.inTx).isEmpty
    let f := setTx (BitVec.allOnes 32)
    (∀ i ∈ [Instr.ld g0 1 (.full t) .none .dv m 10, .lds g0 1 (.full t) .acq .dv m 10, .ldt g0 1 3 m 10, .ldp g0 1 .x6 1 m 10],
      meets i (mSrc m) f φ = true) ∧
    ∀ i ∈ [Instr.st g0 (.full t) .none .dv m 10, .sts g0 (.full t) .none .dv m 10],
      meets i (mSrc m ++ [⟨10, LdW.regs (.full t), 15 :: ldTags (.full t)⟩]) f φ = true := by decide +kernel

theorem witness_FencesAndTransactions : ∀ i ∈ [Instr.fence g0 .ar .sy, .bfence g0, .tbegin g0 1, .tabort g0 7, .ttest g0 8],
    meets i = true := by decide +kernel

theorem witness_FencesAndTransactions_tend : meets (.tend g0) [] (setTx 1) (fun _ w => !w.huskFull && w.performing g0 &&& w.tx.inTx != 0)
    = true ∧ (∀ i ∈ [Instr.tabort g0 7, .tbegin g0 1], meets i [] (setTx 1) (fun _ w => w.performing g0 &&& w.tx.inTx != 0) = true) := by
  decide +kernel

theorem witness_SectionsBarriersPhases : ∀ p ∈ ([
    (.osenter g0 false 4 6, rg tRaw [4] 2 ++ rg tRaw [6]), (.osleave g0 true 4, rg tRaw [4] 2),
    (.osreset g0 false 4 6, rg tRaw [4] 2 ++ rg tRaw [6]), (.osquery g0 1 false 8 4, rg tRaw [4] 2), (.bar g0 3, []),
    (.mbinit g0 4 16 8, []), (.mbexp g0 4 0 8, []), (.mbarr g0 .dv 4 0, []), (.mbwait g0 .dv 8 4 0, []), (.mbwaitCur g0 .dv 8 4 0, []),
    (.mbtest g0 .dv 8 4 0, []), (.mbtestSnap g0 8 4 0, [])] : List (Instr × List Src)), meets p.1 p.2 = true := by decide +kernel

theorem witness_SectionsBarriersPhases_groups : ∀ i ∈ [Instr.phase g0 7 .add 5, .grpq g0 1 .phase 8 7],
    meetsAt (grouped onTurn) i [] (fun s w => plain w && (s.groupOf w 7).isSome) = true ∧
    meets i [] id (fun s w => plain w && (s.groupOf w 7).isNone) = true := by decide +kernel

theorem witness_MatrixInstructions : ∀ i ∈ [Instr.mcfgTy g0 .e4 .e5, .mcfgA g0 4 6, .mcfgB g0 4 6, .mcfgAx g0 4 6, .mcfgBx g0 4 6,
    .mcfgK g0 4], meets i = true ∧ meets i [] (setS [(4, 0x0100000000000000)]) = true := by decide +kernel

theorem witness_MatrixInstructions_loops : ∀ i ∈ [Instr.mloop g0 1 (.imm 4) true, .mloop g0 1 (.reg 4) false, .mcoop g0 1 4 0 1 2 false],
    meets i [] id (fun _ w => plain w && (w.accGet 1).tag != 15 && (w.accGet 1).tag == matTag w.cfg.ta && w.cfg.rowsOk) = true := by
  decide +kernel

theorem witness_MatrixInstructions_accumulators : ∀ i ∈ [Instr.mzero g0 .f32 1, .mfree g0 1, .mmova g0 1 .oct 8 1 8, .mmovv g0 .one 1 4 31,
    .msta g0 .f32 4 6 1], meets i [] id (fun _ w => plain w && !w.accBusy 1 && !formBad .oct (w.accGet 1).tag && !formBad .one (w.accGet 1).tag &&
      (w.tagFault [⟨4, MForm.one.regs, movvTags (w.accGet 1).tag⟩]).isNone && (w.accGet 1).tag == mstaTag .f32 &&
      (w.sget 4).toNat % 4 == 0 && (w.sget 6).toNat % 2 ^ 32 % 4 == 0) = true := by decide +kernel

/-- A bank-layout page at 0x8000_0000. -/
def banked (s : State) : State :=
  let s := s.setMem (s.mem.put64 (imgTable + 16) (at_ 1 52 ||| at_ (0xC0000000 / 4096) 12 ||| 0x807))
  (s.translate ⟨1, some 0, some 2⟩ 0x80000000 1 Need.read).2

theorem witness_EnginesIssue : ∀ p ∈ ([
    (.enq g0 4 8, rg tRaw [8] 4), (.deq g0 1 8 4, []), (.qtry g0 1 8 4 1, []), (.bstat g0 1 .busy 8, []),
    (.rtquery g0 1 false 8 16 6, raySrc false 16), (.cont g0 4 8 12 0, rg tRaw [4] 2), (.rtrace g0 1 true 0 16 8 0, raySrc true 16)] :
    List (Instr × List Src)), meets p.1 p.2 id (fun s w => plain w && decide (0 < s.roles w)) = true := by decide +kernel

theorem witness_EnginesIssue_engines :
    meets (.tspawn g0 1 4 8) [] (setS [(4, 0x1000), (5, 1), (6, 9)]) (fun s w => plain w && decide (0 < s.roles w) &&
      decide ((w.sget 5).toNat < (w.sget 6).toNat)) = true ∧
    meets (.ckick g0 6 4) [] (setS [(6, 64)]) (fun s w => plain w && ((Copy.of ((List.range 4).map fun j => w.sget (4 + j))).fault
      ((List.range 4).map fun j => w.sget (4 + j)) 65536).isNone && decide (s.copiesOn (s.coreOf w) < 128)) = true ∧
    meets (.rtrace g0 1 false 2 16 8 20) (raySrc false 16) (setS [(8, 64)]) (fun s w => plain w && decide (0 < s.roles w)) = true := by
  decide +kernel

theorem witness_EnginesIssue_bank : meetsAt (banked (onTurn (setS [(4, 0x80000000), (6, 0xF1000000000000), (7, 16), (8, 4)])))
    (.bgemv g0 1 false true 4 8) [] (fun s w => plain w && regionOf (w.sget 6).toNat == some (.ownScr 0) &&
      !s.stagingFull (s.stackOf w.who 0x80000000) &&
      match State.bankPages w.advance none 5 0x80000000 4 s with
      | (.ok _, t) => t.mem.tlb == s.mem.tlb && t.freeIx == s.freeIx
      | _ => false) = true := by decide +kernel

/-- A view record and a stream on it, for the statements about views. -/
def view0 : View := { cluster := 0, addr := 0, dport := 5001, dmap := 0, tl := 0xBF800000, tr := 0x3F800000, tb := 0xBF800000, tt := 0x3F800000,
                      m := [], eye := [], rot := [] }
def vs0 : VsRec :=
  { nstrip := 2, cwords := 1, nbuf := 2, rband := 0, stop := false, port := 0, udp := 5000, epoch := 1000000, frame := 1000000, sper := 100,
    goff := 100, bound := 5000, guard := 500, nx := 32, ny := 32, dx := 32, dy := 32, ftab := 0x40001000, nftab := 0, hist := 0, ecc := [],
    dens := [0x3F800000], views := [view0], recon := none }
def stream0 : Stream := { Stream.new 1 5 with cur := some vs0, nextF := 0 }
def frame0 : FrameSt := ⟨0, 0, 0, vs0, some 0, [], [], 0, 0, false, 0, 0, 0⟩
/-- A strip of the frame, latched but not begun. -/
def latched0 : StripSt := StripSt.new frame0 1
/-- The strip, begun in its one view and rasterised: its frame has no primitive. -/
def strip0 : StripSt := { latched0 with rast := [some 0] }
def streaming (s : State) (t : Stream) : State := { s with streams := [t] }
/-- The warp as a template's warp of a stream. -/
def viewed (k : WarpKind) (f : Warp → Warp := id) : State :=
  streaming (onTurn fun w => f { w with ident := { w.ident with kind := k } })
    { stream0 with frames := [frame0], strips := [strip0],
                   warps := [{ VWarp.new 2 k 0 with strip := 1, samples := [(3, 4), (5, 6)] }] }

theorem witness_GraphicsEmission : ∀ p ∈ ([
    (.msvtx g0 4 6 8 12, [⟨6, 1, tRaw⟩, ⟨8, 4, tF32⟩, ⟨12, 4, tF32⟩]), (.msprim g0 6 8 10, [⟨6, 1, tRaw⟩, ⟨8, 1, tRaw⟩, ⟨10, 2, tRaw⟩]),
    (.msend g0 4 6, []), (.gzread g0 1 8 4, [])] : List (Instr × List Src)),
    meetsAt (viewed .mesh (setV 6 255)) p.1 p.2 (fun s w => plain w && (s.work w).isSome && has (w.performing g0) 31 &&
      (List.range 32).all fun j => decide ((w.ln 6 j).toNat < 256)) = true := by decide +kernel

theorem witness_GraphicsEmission_fragment : meetsAt (viewed .fragment fun w => { w with vpc := w.vpc.mapIdx fun k x => if k = 0 then x else exited })
    (.fsout g0 .f32 0 8) [⟨8, 1, [0, (tyTag (fsTy .f32)).toNat]⟩] (fun s w => !w.huskFull && (s.work w).isSome && has (w.performing g0) 0 &&
      match s.ownStream w, s.work w with
      | some t, some x => (t.strips.find? fun y => y.key == x.key && y.s == x.strip) == some strip0 && x.samples[0]? == some (3, 4)
      | _, _ => false) = true := by decide +kernel

theorem witness_GraphicsEmission_other_kinds : ∀ p ∈ ([
    (.msvtx g0 4 6 8 12, [⟨6, 1, tRaw⟩, ⟨8, 4, tF32⟩, ⟨12, 4, tF32⟩]), (.msprim g0 6 8 10, [⟨6, 1, tRaw⟩, ⟨8, 1, tRaw⟩, ⟨10, 2, tRaw⟩]),
    (.msend g0 4 6, []), (.fsout g0 .f32 0 8, [⟨8, 1, [0, (tyTag (fsTy .f32)).toNat]⟩])] : List (Instr × List Src)),
    meetsAt (viewed .recon) p.1 p.2 (fun s w => plain w && (s.work w).isSome && has (w.performing g0) 0) = true := by decide +kernel

/-- A warp with one live lane that names a line of the data page in s4, and one of the code page in s8 and s10. -/
def caching : State :=
  let s := mapped (onTurn fun w => { setS [(4, 0x40000080), (8, 0x1000), (10, 1)] w with
    vpc := w.vpc.mapIdx fun k x => if k = 5 then x else exited })
  (s.translate ⟨1, some 0, some 2⟩ 0x1000 8 Need.fetch).2

theorem witness_CacheInstructions : ∀ i ∈ [Instr.ipref g0 false 8 10, .ipin g0 false 8 10, .iunpin g0 false 8 10],
    meetsAt caching i [] (fun s w => !w.huskFull && decide ((w.sget 10).toNat % 2 ^ 24 = 1) && decide (s.mem.pinned0 (s.coreOf w) < 512) &&
      (s.mem.iline (s.coreOf w) w.ident.ctx (w.sget 8).toNat).all (·.pins.isEmpty) && match s.translate w.who (128 * ((w.sget 8).toNat / 128)) 8 Need.fetch with
      | (.ok (.dram _ _), t) => decide (t = s)
      | _ => false) = true := by decide +kernel

theorem witness_CacheInstructions_data : ∀ i ∈ [Instr.pref g0 false (.so 4 0), .cwb g0 (.so 4 0), .cinv g0 (.so 4 0)],
    meetsAt caching i (mSrc (.so 4 0)) (fun s w => !w.huskFull && w.performing g0 == maskOf (· == 5) &&
      match s.translate w.who (mAt w (.so 4 0) 5).toNat 1 Need.read with
      | (.ok (.dram _ pte), t) => pteBit pte 5 && decide (t = s)
      | _ => false) = true := by decide +kernel

theorem witness_SpecialRegisters : ∀ sp ∈ [Special.idLane, .vpc, .idWarp, .idWg, .idSheaf, .idCore, .idCluster, .idDie, .idDevice, .role,
    .timebase, .clock, .lanemap, .fmode, .fflags, .tcause, .taddr, .tlanes, .tvec, .mprog, .rangeLo, .rangeHi, .gazeAz, .gazeEl, .gazeTime,
    .gazeSeq], meets (.sread g0 1 true 8 sp) [] id (fun s w => (s.twinOf w).isNone) = true ∧
    (sp.perLane = false → meets (.sread g0 1 false 8 sp) [] id (fun s w => (s.twinOf w).isNone) = true) ∧
    (sp.rw = true → meets (.swrite g0 false 4 sp) [] id (fun _ w => plain w && w.husk.isEmpty) = true ∧
      meets (.swrite g0 true 4 sp) [⟨4, if sp.wide then 2 else 1, tRaw⟩] = true) := by decide +kernel

def setSpr (f : Spr → Spr) (w : Warp) : Warp := { w with spr := f w.spr }

theorem witness_Traps : ∀ i ∈ [Instr.trap g0 7, .brk g0 7], meets i [] (setSpr fun r => { r with tvec := 0x2001 })
    (fun s w => (s.twinOf w).isNone && w.spr.tvec.getLsbD 0 && !w.trapMode && (s.warp w.vw).isSome) = true := by decide +kernel

theorem witness_Traps_no_handler : ∀ r ∈ [Spr.start, { Spr.start with tvec := 0x2001, tcause := 0x10000 }],
    let s := onTurn (setSpr fun _ => r)
    ∃ w ∈ s.warps, ∃ h ∈ s.sheaves, (s.warp w.vw).isSome = true ∧ h.sid = w.ident.sid ∧ h.state = .resident ∧ w.slot ≠ .finished ∧
      (w.spr.tvec.getLsbD 0 = false ∨ w.trapMode = true) ∧ s.consumes w.ident.sid = false ∧ (s.twinOf w).isNone = true ∧ s.evRoom := by
  decide +kernel

/-- A sheaf pair consumes a poisoned source; an ERET outside trap mode. -/
theorem witness_Traps_consumption : let s := paired onTurn
    ∃ w ∈ s.warps, (s.warp w.vw).isSome = true ∧ (s.sheaf w.ident.sid).any (·.state == .resident) = true ∧ s.consumes w.ident.sid = true := by
  decide +kernel

theorem witness_Traps_eret : meets (.eret g0) [] id (fun s w => !w.trapMode && (s.twinOf w).isNone && decide s.evRoom &&
    (s.sheaf w.ident.sid).any (·.state == .resident) && w.slot != .finished) = true := by decide +kernel

/-- A warp in trap mode that has trapped at the first word of the clause at 0x1000. -/
def trapped : State :=
  let s := onTurn (setSpr fun r => { r with tvec := 0x2001, tcause := 0x10006, taddr := 0x1008, tlanes := 0xFF })
  (s.translate ⟨1, some 0, some 2⟩ 0x1000 8 Need.fetch).2

theorem witness_TrapReturn : meetsAt trapped (.eret g0) [] (fun s w => w.trapMode && w.tx.doomed == 0 && decide (w.nextAddr < 2 ^ 56) &&
    w.spr.tlanes &&& w.live != 0 && match s.fetch w.advance 0x1000 with
      | (.ok _, t) => decide (t.warp w.vw = some w)
      | _ => false) = true := by decide +kernel

/-! ## The hypotheses of the statements can be met: operations reaching their places -/

/-- The machine after a word, and the warp and entry that it left. -/
def after (i : Instr) (s : State) : State := match exec i s with
  | .next t => t
  | _ => State.reset
def engineEntry (s : State) (f : HkEntry → HkEntry) : State :=
  { s with warps := s.warps.map fun w => { w with husk := w.husk.map f } }
def entryMeets (s : State) (φ : Warp → HkEntry → Bool) : Bool := match s.entryOf 3 0 with
  | some (w, e) => decide (w.vw = 3 ∧ e.seq = 0) && φ w e
  | none => false
/-- One live lane, number 5. -/
def lane5 (w : Warp) : Warp := { w with vpc := w.vpc.mapIdx fun k x => if k = 5 then x else exited }
def ownWord : Word64 := 0xF1000000000040
def dataWord : Word64 := 0x40000040

/-- A load and a store of a lane in transaction. -/
theorem witness_LoadLaneReturns_transaction :
    let s := after (.ld g0 1 (.full .u32) .none .dv (.so 4 0) 8) (mapped (onTurn fun w => setTx (BitVec.allOnes 32) (setS [(4, dataWord)] w)))
    entryMeets s (fun w e => e.data.length == 1 && has e.txl 31 && s.mayRun w && s.mayPerform w e (maskOf (· == 31)) &&
      !s.readsAhead w e (s.locsOf w e (maskOf (· == 31))) && (lane64 e.addr 31).toNat % 4 == 0 &&
      match s.translate w.who (lane64 e.addr 31).toNat 4 Need.read with
        | (.ok (.dram pa pte), t) => decide (t = s) && !(Target.dram pa pte).badChunk s.mem &&
            !((s.laid w (.dram pa pte) (s.homeRead w.ident.ctx (.dram pa pte) 4)).2.any id)
        | _ => false) = true := by decide +kernel

theorem witness_StoreLaneWrites_transaction :
    let s := after (.st g0 (.full .u32) .none .dv (.so 4 0) 8) (mapped (onTurn fun w => setTx (BitVec.allOnes 32) (setS [(4, dataWord)] w)))
    entryMeets s (fun w e => has e.txl 0 && s.mayRun w && s.mayPerform w e (maskOf (· == 0)) && s.laneOrder w e (maskOf (· == 0)) &&
      match s.translate w.who (lane64 e.addr 0).toNat 4 Need.write with
        | (.ok (.dram _ _), t) => decide (t = s)
        | _ => false) = true := by decide +kernel

theorem witness_LoadLaneReturns : let s := after (.ld g0 1 (.full .u32) .none .dv (.so 4 0) 8) (mapped (onTurn (setS [(4, ownWord)])))
    entryMeets s (fun w e => e.data.length == 1 && !has e.txl 31 && s.mayRun w && s.mayPerform w e (maskOf (· == 31)) &&
      !s.readsAhead w e (s.locsOf w e (maskOf (· == 31))) && (s.sheaf 2).any (·.stores.isEmpty) && match s.translate w.who (lane64 e.addr 31).toNat 4 Need.read with
        | (.ok (.scr 2 0 0x40 pte), t) => !pteBit pte 6 && decide (t = s)
        | _ => false) = true := by decide +kernel

theorem witness_StoreLaneWrites : ∀ late ∈ [false, true],
    let s0 := after (.st g0 (.full .u32) .none .dv (.so 4 0) 8) (mapped (onTurn (setS [(4, dataWord)])))
    let s := if late then engineEntry (withSheaf s0 fun h => { h with state := .frozen }) fun e => { e with sent := BitVec.allOnes 32 } else s0
    entryMeets s (fun w e => !has e.txl 0 && (s.mayRun w == !late) && s.mayPerform w e (maskOf (· == 0)) &&
      s.laneOrder w e (maskOf (· == 0)) && Memory.wf s.mem && !s.holdsBack w (lane64 e.addr 0).toNat &&
      match s.translate w.who (lane64 e.addr 0).toNat 4 Need.write with
        | (.ok (.dram pa pte), t) => !pteBit pte 6 && !pteBit pte 7 && !s.mem.bad pa && decide (t = s)
        | _ => false) = true := by decide +kernel

theorem witness_AtomicBatch : ∀ p ∈ ([(.atom g0 1 .add false .none .dv (.s 4) 8 10, 2), (.red g0 .add false .none .dv (.s 4) 10, 1)] :
    List (Instr × Nat)), let s := after p.1 (mapped (onTurn fun w => lane5 (setS [(4, ownWord)] w)))
    entryMeets s (fun w e => e.data.length == p.2 && s.atomBatch w e 5 == [5] && s.mayRun w && s.mayPerform w e (maskOf (· == 5)) &&
      (s.sheaf 2).any (fun h => h.stores.isEmpty && h.twin.isNone && !psnGet h.psn 0x40 && h.scr.wf) &&
      match s.translate w.who (lane64 e.addr 5).toNat 4 Need.atomic with
        | (.ok (.scr 2 0 0x40 _), t) => decide (t = s)
        | _ => false) = true := by decide +kernel

theorem witness_DeviceMemoryReadsBack : Memory.wf (mapped onTurn).mem = true := by decide +kernel

theorem witness_CompressionLossless : (List.replicate 128 (7 : Byte)).length = 128 := by decide +kernel

theorem witness_FencesAndTransactions_commit : ∀ stale ∈ [false, true],
    let s := after (.tend g0) (mapped (onTurn fun w => { setTx 1 w with
      tx := { w.tx with inTx := 1, reads := if stale then [(0, 0x40000000, 7)] else [] } }))
    entryMeets s (fun w e => (w.husk.head?).map (·.seq) == some e.seq && s.mayRun w && s.mayPerform w e e.undone &&
      (s.release w e).1.isNone && decide ((s.release w e).2 = s) && e.pend &&& w.tx.inTx == maskOf (· == 0) &&
      (decide (s.validate w 0 = 0) == !stale)) = true := by decide +kernel

theorem witness_MbObjects : ∃ m : MbObj, ∃ b x : Word32, ∃ k : Nat, m.bytes.toInt + b.toInt = x.toInt ∧ m.bytes.toInt - k = (-5 : Word32).toInt ∧
    (MbObj.mk 0 1 1 (BitVec.intMin 32)).bytes.toInt - 1 < -2 ^ 31 ∧
    2 ^ 31 ≤ (MbObj.mk 0 1 1 (BitVec.intMax 32)).bytes.toInt + (1 : Word32).toInt :=
  ⟨⟨0, 1, 1, 2⟩, 3, 5, 7, by decide, by decide, by decide, by decide⟩

/-! ## The hypotheses of the statements can be met: the scheduler and the engines -/

def slotted (sl : Slot) (f : Warp → Warp := id) : State := onTurn fun w => f { w with slot := sl }

theorem witness_SchedulerEvents : ∀ s ∈ [slotted .ready], ∃ w ∈ s.warps, s.warp w.vw = some w ∧ w.slot = .ready ∧ s.mayRun w = true ∧
    ∀ x ∈ s.warps, s.mayRun x = true → s.coreOf x = s.coreOf w → x.wslot % 4 = w.wslot % 4 → x.slot ≠ .turn ∧
      (x.slot = .ready → w.readyAt ≤ x.readyAt) := by decide +kernel

theorem witness_SchedulerEvents_ends :
    (∃ w ∈ (slotted .turn fun w => { w with turnWords := 4096, clause := Clause.none }).warps,
      w.slot = .turn ∧ w.clause.inside = false ∧ 4096 ≤ w.turnWords) ∧
    (∃ w ∈ (slotted .turn fun w => { w with held := some 0 }).warps, w.slot = .turn ∧ w.clause.inside = true ∧ w.held = some 0 ∧
      0 + 256 < (State.reset.cores.clock.getD 0 0).toNat) ∧
    (∃ w ∈ (slotted .waiting fun w => { w with waits := { w.waits with wake := 1840000 } }).warps,
      w.waits.wake ≠ 0 ∧ w.waits.wake.toNat ≤ State.reset.io.time.timebase.toNat) ∧
    (∃ w ∈ (slotted .waiting fun w => { w with waits := { w.waits with ckpt := some 7 } }).warps, w.waits.ckpt = some 7 ∧
      7 ≤ (State.reset.cores.clock.getD 0 0).toNat) := by decide +kernel

/-- A machine whose warp has put an entry of an engine in its husk. -/
def engined (i : Instr) (l : List (Nat × Word64)) (f : State → State := id) : State := after i (f (mapped (onTurn fun w => lane5 (setS l w))))

theorem witness_EngineSteps_matrix :
    let s := after (.mloop g0 1 (.imm 4) false) (mapped (onTurn fun w => { w with
      cfg := { w.cfg with abase := 0x40000000, bbase := 0x40001000, astr := 256, bstr := 256 } }))
    entryMeets s (fun w e => accOf e.instr == some 1 && s.loopReady w e && decide (1 < w.acc.length) && (w.accGet 1).tag != 15 &&
      match s.rowsRead w e e.opA e.cfg.kpos.toNat (matK e.cfg.ta) with
      | (.ok _, t) => match t.rowsRead w e e.opB e.cfg.kpos.toNat (matK e.cfg.ta) with
        | (.ok _, u) => decide (u.warp w.vw = some w)
        | _ => false
      | _ => false) = true := by decide +kernel

theorem witness_EngineSteps_copy : let s := engined (.ckick g0 1 4) [(4, 0x40000000), (5, 0x40000100), (6, 64)]
    entryMeets s (fun w e => s.engineTurn w e && s.mayRun w && !(Copy.of e.scal).mc && !(Copy.of e.scal).named && e.chunks == [(0, 0, 0)] &&
      decide (0 + 4 ≤ (Copy.of e.scal).len) && match s.engineRead w e 0x40000000 with
      | (.ok (l, p), t) => match t.engineWrite w e 0x40000100 l p (chunkIn 0x40000100 64 (0x40000100 / 64)) with
        | (.ok u, _) => decide (u.warp w.vw = some w)
        | _ => false
      | _ => false) = true := by decide +kernel

theorem witness_EngineSteps_ray : let s := engined (.rtrace g0 1 false 0 16 8 0) [(8, 0x40000000)]
    entryMeets s (fun w e => s.engineTurn w e && s.mayRun w && has e.pend 5 &&
      match s.trace w e (.xfer w.vw e.seq) 5 (e.scal.headD 0).toNat (s.rayOf w e false 0 5) with
      | (.ok (ws, p), t) => match t.tillerIn (s.coreOf w / 144) w.ident.lid (rayTiller e false 5 ws (p || e.psn.any id)) with
        | some u => decide (u.warp w.vw = some w) && (s.launch w.ident.lid).all (·.owed.isEmpty)
        | none => false
      | _ => false) = true := by decide +kernel

/-! ## The hypotheses of the statements can be met: sheaves and launches -/

/-- The machine of `onTurn` with its sheaf changed, without its warp when `bare`. -/
def sheafed (bare : Bool) (f : Sheaf → Sheaf) (g : Launch → Launch := id) (k : Warp → Warp := id) : State :=
  let s := withSheaf (onTurn k) f g
  if bare then { s with warps := [], focus := none } else s
def hasSheaf (s : State) (φ : Sheaf → Launch → Bool) : Bool := match s.sheaf 2, s.launch 1 with
  | some h, some l => h.sid == 2 && h.lid == 1 && φ h l
  | _, _ => false

theorem witness_SheafPlacement : let s := sheafed true fun h => { h with state := .unstarted }
    hasSheaf s (fun h _ => h.twin.isNone && h.seed.isEmpty && s.waiting h && s.inTurn h && !s.admitsAhead h && (s.homes h).contains 0 &&
      s.warps.isEmpty) = true := by decide +kernel

theorem witness_SheafPlacement_freeze : let s := { onTurn with cores := { Cores.reset with test := [0] } }
    hasSheaf s (fun h _ => h.state == .resident && s.mustLeave h) = true := by decide +kernel

theorem witness_SheafPlacement_admit :
    let s := sheafed true (fun h => { h with state := .unstarted }) fun l => { l with r := { l.r with atOnce := true }, state := .waiting }
    hasSheaf s (fun _ l => l.r.atOnce && l.state == .waiting && s.mem.defer.isEmpty && s.sheaves.all (·.twin.isNone) &&
      !(s.admitGroup l).isEmpty && s.admitTurn (s.admitGroup l) && s.everFits l.r && (s.planAll (s.admitGroup l)).isSome) = true := by decide +kernel

theorem witness_SheafLifecycle : let s := sheafed false fun h => { h with state := .frozen, why := .evict }
    hasSheaf s (fun h l => !h.trail && (s.together h.sid).all (fun x => (s.sheaf x).all fun y => y.state != .resident) && h.twin.isNone &&
      !l.r.atOnce && !l.held && s.mem.defer.isEmpty && h.cur == 0 && !s.mustLeave h && (s.saveAll (s.together h.sid)).isSome && s.drained h.sid) = true := by decide +kernel

theorem witness_SheafLifecycle_saved : let s := sheafed false fun h => { h with state := .saved, why := .evict }
    hasSheaf s (fun h l => !h.trail && h.twin.isNone && !l.r.atOnce && !l.held && s.mem.defer.isEmpty && (s.badImage h).isNone && l.state == .admitted && s.drained h.sid &&
      s.inTurn h && !s.admitsAhead h && (s.homes h).contains 1) = true := by decide +kernel

theorem witness_SheafLifecycle_over : let s := sheafed false id id fun w => { w with slot := .finished }
    hasSheaf s (fun h l => s.sheafOver h && l.state == .admitted && l.tasks.isEmpty && l.pool.isEmpty && s.cmd.bins.isEmpty && s.streams.isEmpty && h.twin.isNone &&
      s.sheaves.all fun x => x.sid == h.sid) = true := by decide +kernel

/-- Two copies of a pair, each with its warp, that have done the same. -/
def twoCopies (p : PairSt) (retry : Nat) : State :=
  let s := paired (withSheaf onTurn (fun h => { h with pair := p }) fun l => { l with r := { l.r with retry := retry } })
  { s with warps := s.warps ++ s.warps.map fun w => { w with vw := 9, ident := { w.ident with sid := 9 } } }

theorem witness_PairCheckpoints : let s := twoCopies { PairSt.start with want := true } 1
    ∃ l ∈ s.sheaves, ∃ t ∈ s.sheaves, s.pairsOf 1 = [(l, t)] ∧ s.sheaf l.sid = some l ∧ s.sheaf t.sid = some t ∧ l.sid ≠ t.sid ∧
      (s.launch l.lid).isSome = true ∧ l.pair.want = true ∧ l.pair.bad = false ∧ l.state = .resident ∧ t.state = .resident ∧
      l.pair.fwd = [] ∧ (s.twins l).length = 1 ∧ (∀ x ∈ s.twins l, s.aligned x.1 x.2 = true) ∧
      (∀ x ∈ ((s.latch l.sid).latch t.sid).twins l, x.1.imageEq x.2 = true) ∧ l.scr = t.scr ∧ l.psn = t.psn ∧ l.bars = t.bars := by
  decide +kernel

theorem witness_PairCheckpoints_rollback : ∀ retry ∈ [0, 1], let s := twoCopies { PairSt.start with bad := true } retry
    ∃ l ∈ s.sheaves, ∃ t ∈ s.sheaves, ∃ la ∈ s.launches, s.pairsOf 1 = [(l, t)] ∧ s.sheaf l.sid = some l ∧ s.sheaf t.sid = some t ∧
      l.sid ≠ t.sid ∧ l.pair.bad = true ∧ (l.pair.retries < la.r.retry ∨ (la.r.retry ≤ l.pair.retries ∧ la.view = none ∧ la.node = none)) := by
  decide +kernel

theorem witness_LaunchEvents_phase :
    let x : Group := ⟨7, true, [], false, 0, 0, 0, [3], [(0, 0, .add, 5)], 0, false⟩
    let s := withSheaf onTurn id fun l => { l with groups := [x] }
    (s.launch 1).any (fun l => l.groups.find? (·.idx == 7) == some x && s.phaseFull l x) = true := by decide +kernel

theorem witness_LaunchEvents_task :
    let k : Task := ⟨8, 0, 3, 0, 0x1000, 1, 9, 2, 0, [], [], false⟩
    let s := withSheaf (onTurn fun w => { w with slot := .finished }) (fun h => { h with state := .retired }) fun l => { l with tasks := [k] }
    let s := { s with nextId := 10 }
    (s.launch 1).any (fun l => s.launches.findSome? (fun y => (y.tasks.find? (·.id == k.id)).map fun t => (y, t)) == some (l, k) &&
      !l.r.paired && s.mayRequest l k 0 && s.sheaves.all (fun h => h.sid < s.nextId) && s.warps.all fun w => w.vw < s.nextId) = true := by
  decide +kernel

theorem witness_LaunchEvents_bin :
    let b : Bin := ⟨0, 1, 0x1000, 0, [(⟨0x1000, 0, 0, []⟩, 0)], false, none⟩
    let s := { onTurn with cmd := { onTurn.cmd with bins := [b] } }
    (s.cmd.bins.filter (·.die == 0))[0]? = some b ∧ 0 + 2048 ≤ s.dieClock 0 := by decide +kernel

def spillTarget : Target := .dram 0x80000000 (at_ 1 52 ||| at_ (0x80000000 / 4096) 12 ||| 0x2F)
def spilledPage : SpillPage := ⟨0, 1, 0, 0, 3, 3, ((mapped onTurn).readPage 1 spillTarget).1⟩
def spilling : State := withSheaf (mapped onTurn) id fun l => { l with r := { l.r with spill := 0x40000000 }, pages := [spilledPage] }

theorem witness_LaunchEvents_refill : (spilling.launch 1).any (fun l => l.ctx == 1 && (sortBy (·.seq) l.pages).map (·.seq) == [0] &&
    decide (l.atHome 0 < 1024) && match spilling.spillAt l 0 with
      | (some t, u) => t == spillTarget && u.mem == spilling.mem && u.freeIx == spilling.freeIx
      | _ => false) = true := by decide +kernel

theorem witness_LaunchEvents_refill_check : crc32c (spilling.readPage 1 spillTarget).1 = crc32c spilledPage.img ∧
    (spilling.readPage 1 spillTarget).2 = false := by
  have h : spilling.mem = (mapped onTurn).mem := rfl
  refine ⟨by simp only [spilledPage, spillTarget, State.readPage, Target.add, State.readAt, State.via, h], ?_⟩
  decide +kernel

/-! ## The hypotheses of the statements can be met: the device's engines, watches, and requests of the host -/

theorem witness_EngineSteps_bgemv : let s := after (.bgemv g0 1 false true 4 8) (banked (mapped (onTurn fun w => lane5
      (setS [(4, 0x80000000), (6, 0xF1000000000000), (8, 4)] w))))
    entryMeets (engineEntry s fun e => { e with perf := 1 }) (fun w e =>
      let s := engineEntry s fun e => { e with perf := 1 }
      (match e.instr with | .bgemv .. => true | _ => false) && s.engineTurn w e && s.mayRun w && e.sent == 0 && e.perf != 0 && e.chunks == [(0, 0, 0)] &&
      e.scal.length == 6 && e.scal.getD 3 0 == 0 && match s.rowLand w e false 0 with
      | (.ok (u, _), _) => decide (u.warp w.vw = some w)
      | _ => false) = true := by decide +kernel

theorem witness_MachineWatches :
    (let b : Batch := ⟨3, 0, []⟩
     let s : State := { State.reset with cmd := { Cmd.reset with batches := [b], evq := [.queue 5] } }
     s.cmd.batches.find? (·.die == 3) = some b ∧ b.opened + 2000 ≤ s.io.time.timebase.toNat ∧ s.cmd.evq ≠ []) ∧
    (let b : Batch := ⟨3, 0, List.replicate 256 ⟨1, 5, true, false, false, false, 2, 0⟩⟩
     let s : State := { State.reset with cmd := { Cmd.reset with batches := [b] } }
     s.cmd.batches = [b] ∧ b.recs.length = 256) ∧
    State.reset.cores.balanced + 20000 ≤ State.reset.io.time.timebase.toNat ∧ State.reset.cores.bal[47]? = some ⟨0, 0, 24, false⟩ ∧
    State.reset.cores.sampled[3]? = some none := by
  decide +kernel

theorem witness_MachineWatches_deadlock :
    let s := after (.bar g0 3) onTurn
    let s := { s with cmd := { s.cmd with deadSince := [(1, 5)] } }
    s.cmd.deadSince.find? (·.1 == 1) = some (1, 5) ∧ 5 + 1000000 ≤ s.io.time.timebase.toNat ∧ s.deadlocked 1 = true := by decide +kernel

def putWords (m : Mem) (pa : Nat) : List Word64 → Mem
  | [] => m
  | w :: r => let m := putWords m (pa + 8) r
    if w = 0 then m else m.put64 pa w
/-- The link of port 0 is up. -/
def wired (s : State) : State := { s with io := { s.io with ports := s.io.ports.map fun (p : Port) => { p with up := true } } }
def queued (q : Nat) (w : List Word64) (s : State := wired (mapped onTurn)) : State :=
  { s with mem := putWords s.mem 0x50000000 w, cmd := { s.cmd with queues := [ringQueue q] } }
/-- Words of a record at 0x4000_0000. -/
def recorded (w : List Word64) (s : State := mapped onTurn) : State := s.setMem (putWords s.mem 0x80000000 w)

theorem witness_HostWrites : let s := queued 5 []
    ∃ x, s.queue 5 = some x ∧ x.unmapping = false ∧ s.reached x = true ∧ (queued 5 [] onTurn).reached x = false ∧
      (let off (y : Nat) := (y + 2 ^ 20 - x.h) % 2 ^ 20
       off x.t ≤ off 1 ∧ off 1 ≤ off 64 ∧ off 64 ≤ 2 ^ x.k ∧ 2 ^ x.k < off 65 ∧ off 0 < off x.t) := ⟨ringQueue 5, by decide +kernel⟩

theorem witness_HostWrites_rdma : let s := queued 5 []
    Memory.wf s.mem = true ∧ (s.queue 5).any (fun x => x.q == 5 && s.reached x && decide (x.k ≤ 16 ∧ 0 + 1 ≤ 64 * 2 ^ x.k) && (s.mem.badMerge (x.ring + 0) 1).isNone &&
      [Need.read, Need.write].all fun n => match s.translate ⟨x.ctx, none, none⟩ 0x40000FFF 1 n with
        | (.ok (.dram pa pte), t) => !pteBit pte 7 && (s.mem.badMerge pa 1).isNone && !(s.mem.read (s.via x.ctx pte) pa 1).2 && !s.mem.bad pa && decide (t = s)
        | _ => false) = true := by decide +kernel

theorem witness_HostWrites_queue0 : ((queued 0 []).queue 0).any (fun x => x.q == 0 && (queued 0 []).reached x) = true := by decide +kernel

theorem witness_CommandCores : let s := queued 5 []
    let s := { s with cmd := { s.cmd with evq := [.queue 5], queues := [{ ringQueue 5 with lock := none }] } }
    (s.queue 5).any s.reached = true ∧ s.hears 0 = true ∧ s.cmd.fcs[0]? = some ⟨.idle, [], 0, 0⟩ ∧ s.cmd.evq.find? s.takeable = some (.queue 5) ∧
      (s.rate 5).sentAt = none ∧ (s.rate 5).lastAt + 55000 ≤ s.io.time.timebase.toNat := by decide +kernel

theorem witness_CommandCores_hang : ∀ st ∈ [FcState.busy (.queue 5), .reboot], let s := queued 5 []
    ∀ up ∈ [0, 1500000], let f : Fc := ⟨st, [1, 2], up, 0⟩
    let s := { s with cmd := { s.cmd with fcs := [f] } }
    (s.queue 5).isSome = true ∧ s.cmd.fcs[0]? = some f ∧ (f.up + 1000000 ≤ s.io.time.timebase.toNat ↔ up = 0) := by decide +kernel

/-! ## The hypotheses of the statements can be met: packets -/

/-- The words w start a packet of a type at the head of queue q, and `φ` holds of it. -/
def starts (s : State) (q typ : Nat) (w : List Word64) (φ : Queue → Bool := fun _ => true) : Bool := match s.queue q with
  | some x => x.q == q && x.lock.isSome && s.mayStart x && x.running.all (·.n != x.h) && s.packet x x.h == w &&
      fld (w.getD 0 0) 7 0 == typ && mgmt typ == (x.q == 0) && fld (w.getD 0 0) 31 10 == 0 &&
      (bodyBits typ).any (fun m => ((w.drop 1).take 5).zip m |>.all fun p => p.1 &&& ~~~p.2 == 0) &&
      decide ((w.getD 6 0).toNat % 8 = 0 ∧ (w.getD 6 0).toNat < 2 ^ 56) && φ x
  | none => false

theorem of_starts {s : State} {q typ : Nat} {w : List Word64} {φ : Queue → Bool} (h : starts s q typ w φ = true) :
    ∃ x : Queue, x.q = q ∧ Starts s x typ w ∧ φ x = true := by
  unfold starts at h
  split at h
  · next x e =>
    simp only [Bool.and_eq_true, beq_iff_eq, List.all_eq_true, Option.any_eq_true, bne_iff_ne, decide_eq_true_eq] at h
    obtain ⟨⟨⟨⟨⟨⟨⟨⟨⟨⟨h1, h2⟩, h3⟩, h4⟩, h5⟩, h6⟩, h7⟩, h8⟩, ⟨m, h9, h10⟩⟩, h11⟩, h12⟩ := h
    exact ⟨x, h1, ⟨h1 ▸ e, h2, h3, h4, h5, h6, h7, h8, ⟨m, h9, h10⟩, fun _ => h11⟩, h12⟩
  · cases h

/-- A launch of two sheaves of one workgroup, whose one role has one warp, with no argument. -/
def launchWords : List Word64 := [1, 1, 0, 0, 0, 0, 0, 0, 0x1000, at_ 1 40 ||| at_ 8 8 ||| 3, 0, 0] ++ List.replicate 12 0
def launchPacketWords : List Word64 := [1, 0x40000000, 0, 0, 0, 0, 0, 0]

theorem witness_CommandPackets_launch : let s := queued 5 launchPacketWords (recorded launchWords)
    starts s 5 1 launchPacketWords (fun x => match (s.started x launchPacketWords).readRecord x.ctx 0x40000000 false with
      | (.ok v, t) => !t.item11 v.r && !v.r.paired && v.r.nsheaf == 2 && t.queue 5 == (s.started x launchPacketWords).queue 5
      | _ => false) = true := by decide +kernel

def oneNode (st : NState) : Graph :=
  ⟨1, 3, 4, [⟨0, 0, [1], [], none, [], [], 0, 0, .ended⟩, ⟨1, 1, [], [], none, [], [], 0, 0, st⟩], false, none, none⟩
def armWords : List Word64 := [2, 0x40000000, 3, 0, 0, 0, 0, 0]

theorem witness_CommandPackets_arm : let s := queued 5 armWords
    let s := { s with cmd := { s.cmd with graphs := [oneNode .done] } }
    starts s 5 2 armWords (fun x => s.graph x.ctx 3 == some (oneNode .done)) = true := by decide +kernel

def signalWords : List Word64 := [3, 0x40000040, 9, 1, 0, 0, 0, 0]

theorem witness_CommandPackets_signal : let s := queued 5 signalWords
    Memory.wf s.mem = true ∧ starts s 5 3 signalWords (fun x => let s0 := s.started x signalWords
      match s0.translate ⟨x.ctx, none, none⟩ 0x40000040 8 Need.atomic with
      | (.ok (.dram pa pte), t) => !pteBit pte 7 && !s.mem.bad pa && !(s.mem.read (s.via x.ctx pte) pa 8).2 && decide (t = s0)
      | _ => false) = true := by decide +kernel

def waitWords (v : Word64) : List Word64 := [4, 0x40000040, v, 1, 0, 0, 0, 0]

def waitMeets (w : List Word64) : Bool :=
  let s := queued 5 w
  starts s 5 4 w fun x => let s0 := s.started x w
    match s0.translate ⟨x.ctx, none, none⟩ 0x40000040 8 Need.read with
    | (.ok (.dram pa pte), t) => !s.mem.bad pa && !(s.mem.read (s.via x.ctx pte) pa 8).2 && decide (t = s0)
    | _ => false

theorem witness_CommandPackets_wait : waitMeets (waitWords 0) = true ∧ waitMeets (waitWords 1) = true := by decide +kernel

/-- R341: an unsigned ≥ holds where the word equals the value; this one, of an empty word and 0, completes. -/
theorem witness_CommandPackets_wait_at_value : let w : List Word64 := [4, 0x40000040, 0, 0, 0, 0, 0, 0]
    waitMeets w = true ∧ ((after (.waitPacket 5) (queued 5 w)).queue 5).any (fun x => x.running.isEmpty && x.recNo == 1) = true := by
  decide +kernel

def copyWords0 : List Word64 := [5, 0x40000040, 0x40000080, 8, 0, 0, 0, 0]

theorem witness_CommandPackets_copy : let s := queued 5 copyWords0
    starts s 5 5 copyWords0 (fun x => match (s.started x copyWords0).copyWords x.ctx 0x40000040 0x40000080 0x40000080 2 with
      | (.ok _, _) => true
      | _ => false) = true := by decide +kernel

/-- A packet at the head of a ring whose reserved bits make it no packet. -/
def rejectedBy (w : List Word64) (φ : State → Bool := fun _ => true) (f : State → State := id) : Bool :=
  let typ := fld (w.getD 0 0) 7 0
  let q := if mgmt typ then 0 else 5
  let s := f (queued q w)
  (s.queue q).any (fun x => x.q == q && x.lock.isSome && s.mayStart x && x.running.isEmpty && s.packet x x.h == w) &&
    mgmt typ == (q == 0) && φ s && (bodyBits typ).any fun m => decide ((((w.drop 1).take 5).zip m).any (fun p => p.1 &&& ~~~p.2 != 0) = true ∨
      fld (w.getD 0 0) 31 10 ≠ 0 ∨ (mgmt typ = false ∧ fld (w.getD 6 0) 63 56 ≠ 0))

theorem witness_ReservedBitsReject :
    ∀ typ ∈ [1, 2, 3, 4, 5, 6, 7, 8, 0x10, 0x11, 0x12, 0x13, 0x14, 0x15, 0x16, 0x17],
    rejectedBy [BitVec.ofNat 64 typ, 0x8000000000000000, 0, 0x8000000000000000, 0, 0x8000000000000000, 0, 0] = true ∧
    rejectedBy [BitVec.ofNat 64 (typ + 0x400), 0, 0, 0, 0, 0, 0, 0] = true ∧
    rejectedBy [BitVec.ofNat 64 (typ + 0x80000000), 0, 0, 0, 0, 0, 0, 0] = true ∧
    (mgmt typ = false → rejectedBy [BitVec.ofNat 64 typ, 0, 0, 0, 0, 0, 0x100000000000000, 0] = true) := by decide +kernel

theorem witness_ReservedBitsReject_forms :
    rejectedBy [0x402, 0, 3, 0, 0, 0, 0, 0] (fun s => (s.graph 1 3).isNone) = true ∧
    (∀ op : Fin 16, rejectedBy [0x407, BitVec.ofNat 64 op, 0, 0, 0, 0, 0, 0] = true) ∧
    rejectedBy [0x408, 0, 0, 0x40, 0, 0, 0, 0] (fun s => (s.packet (ringQueue 5) 0).getD 3 0 == 0x40) = true ∧
    rejectedBy [0x408, 0, 0, 0x80, 0, 0, 0, 0] = true := by decide +kernel

theorem witness_ReservedBitsReject_stream : rejectedBy [0x406, 0, 0, 0, 0, 0, 0, 0] (fun s => s.io.time.everLocked)
    (fun s => { s with io := { s.io with time := { s.io.time with everLocked := true } } }) = true := by decide +kernel

/-- A packet 0x07 with its record at 0x4000_0000: slot or device 2, and the words that differ. -/
def keyWords (op : Word64) : List Word64 := [7, op, 0x40000000, 0, 0, 0, 0, 0]
def keyed (op : Word64) (r : List Word64) : State :=
  let s := mapped onTurn
  queued 5 (keyWords op) (recorded r { s with mem := { s.mem with slots := s.mem.slots ++ [⟨2, 1, 77⟩] } })
def keyReads (op : Word64) (r : List Word64) (φ : State → List Word64 → Bool) : Bool :=
  starts (keyed op r) 5 7 (keyWords op) fun x => match ((keyed op r).started x (keyWords op)).readDws x.ctx 0x40000000 32 with
    | (.ok r, t) => t.queue 5 == ((keyed op r).started x (keyWords op)).queue 5 && φ t r
    | _ => false

theorem witness_KeyPackets_load_clear : keyReads 0 [3] (fun t r => (r.getD 0 0).toNat % 4096 == 3 && t.mem.slots.all (·.slot != 3)) = true ∧
    keyReads 1 [2] (fun t r => (r.getD 0 0).toNat % 4096 == 2 && (t.mem.slotKey 1 2).isSome) = true := by decide +kernel

theorem witness_KeyPackets_bind : keyReads 2 [2, 0, 0, 0, 0] (fun _ r => fld (r.getD 3 0) 63 48 == 0 && !(r.getD 4 0).getLsbD 0) = true ∧
    keyReads 2 [2, 0, 0, 0, 1] (fun t r => fld (r.getD 3 0) 63 48 == 0 && (r.getD 4 0).getLsbD 0 &&
      decide (t.cmd.peers.length < 4096)) = true := by decide +kernel

/-- The place of the save reserve is a constant of the device: the witness stands for every place clear of its ring. -/
theorem witness_ManagementPackets_mapq (h : Machine.meets 0x60000000 4096 Config.saveReserve.1 Config.saveReserve.2 = false) :
    let w : List Word64 := [0x10, 0x100060007, 0x60000000, 0, 0x400000000, 9, 0, 0]
    let s := queued 0 w
    starts s 0 0x10 w (fun x => let s0 := s.started x w
      (s0.queue 7).isNone && (s0.ctx? 1).any fun c => !c.deleting) = true ∧ s.ringBad 6 0x60000000 = false := by
  refine ⟨by decide +kernel, ?_⟩
  have h' : Machine.meets 0x60000000 (64 * 2 ^ 6) Config.saveReserve.1 Config.saveReserve.2 = false := h
  simp only [State.ringBad, h', Bool.or_false]
  decide +kernel

def ctxPacket (typ : Nat) : List Word64 := [BitVec.ofNat 64 typ, 1, if typ = 0x12 then 0x10000000 else 0, 0, 0, 0, 0, 0]

theorem witness_ManagementPackets_contexts : ∀ typ ∈ [0x12, 0x13],
    starts (queued 0 (ctxPacket typ)) 0 typ (ctxPacket typ) (fun _ => ((queued 0 (ctxPacket typ)).ctx? 1).any fun c => !c.deleting) = true := by
  decide +kernel

def unmapWords : List Word64 := [0x11, 7, 0, 0, 0, 0, 0, 0]
/-- A second queue, of packets that have all completed. -/
def secondQueue (s : State) (f : Queue → Queue := id) : State :=
  { s with cmd := { s.cmd with queues := s.cmd.queues ++ [f { ringQueue 7 with ring := 0x60000000, lock := none, t := 0 }] } }

theorem witness_ManagementPackets_unmap : let s := secondQueue (queued 0 unmapWords)
    starts s 0 0x11 unmapWords (fun _ => (s.queue 7).any fun y => !y.unmapping && decide (y.h < 2 ^ 20 ∧ y.t < 2 ^ 20 ∧
      (y.t + 2 ^ 20 - y.h) % 2 ^ 20 ≤ 65536)) = true := by decide +kernel

def tlbWords : List Word64 := [0x14, 1, 0x40000000, 0x1000, 0, 0, 0, 0]
def resumeWords : List Word64 := [0x15, 0, 0, 0, 0, 0, 0, 0]
def cancelWords : List Word64 := [0x16, at_ 7 0 ||| at_ 9 32, 0, 0, 0, 0, 0, 0]
def balanceWords : List Word64 := [0x17, at_ 63 0 ||| at_ 2 8 ||| at_ 20 16, 0, 0, 0, 0, 0, 0]

theorem witness_ManagementPackets_tlbinv : starts (queued 0 tlbWords) 0 0x14 tlbWords = true := by decide +kernel

theorem witness_ManagementPackets_resume :
    let s := withSheaf (queued 0 resumeWords) (fun h => { h with state := .frozen, why := .quota }) fun l => { l with held := true }
    starts s 0 0x15 resumeWords (fun _ => (s.ofPacket 0 0).any (fun l => l.lid == 1 && s.launch 1 == some l) &&
      s.sheaves.any fun h => h.lid == 1 && h.why.resumes) = true := by decide +kernel

theorem witness_ManagementPackets_cancel :
    let s := secondQueue (queued 0 cancelWords) fun y => { y with running := [⟨9, 1, 0, false, 0, 0, .launch 1⟩] }
    starts s 0 0x16 cancelWords (fun _ => (s.running 7 9).any fun r => r.kind == .launch 1) = true := by decide +kernel

theorem witness_ManagementPackets_balance : let s := queued 0 balanceWords
    starts s 0 0x17 balanceWords (fun _ => (List.range 48).all fun c => decide (s.floor c ≤ 20 ∧ s.admitNeed c + max 2 (s.floor c) ≤ 24))
      = true := by decide +kernel
/-! ## The hypotheses of the statements can be met: graphs, repair, views -/

def graphed (st : NState) : State := { onTurn with cmd := { onTurn.cmd with graphs := [{ oneNode st with armed := some (5, 0) }] } }

theorem witness_GraphEvents : ∀ st ∈ [NState.idle, .running], ((graphed st).graph 1 3).any (fun g => g.ctx == 1 && g.inst == 3 && !g.poisoned &&
    g.armed.isSome && (g.nodes[0]?).any (fun x => x.state == .ended && x.succ == [1]) && (g.nodes[1]?).isSome &&
    ((st == .running) == g.nodes.any (·.state == .running))) = true := by decide +kernel

theorem witness_RepairEvents_fallback : ∀ w ∈ [launchPacketWords, signalWords], let s := queued 5 w
    let s := { s with cmd := { s.cmd with fcs := List.replicate 12 ⟨.out, [], 0, 0⟩, queues := [{ ringQueue 5 with lock := none }] } }
    (s.queue 5).any (fun x => s.fallbackQueues == [x.q] && (fld ((s.packet x x.h).getD 0 0) 7 0 == if w = signalWords then 3 else 1)) = true := by
  decide +kernel

theorem witness_RepairEvents_errors : ((0, 0) ∉ onTurn.cores.banks) ∧ onTurn.mem.tagOf 0x80000040 = 0 ∧
    onTurn.warps.any (fun w => (onTurn.warp w.vw).isSome && decide (7 < w.v.length)) = true := by decide +kernel

/-- A test packet for cores 0 and 1 of cluster 0, and a package with one empty vector. -/
def applyWords : List Word64 := [8, 0x40000000, 128, at_ 3 8, 0x40000100, 0, 0, 0]
def packageWords : List Word64 := [at_ 0x4B544644 0 ||| at_ 1 32, at_ 1 32, 0]

/-- The firmware key is a constant of the device: the witness stands for every device whose key the package's signature fits. -/
theorem witness_RepairEvents_apply (h : packageSigned ((((((queued 5 applyWords (recorded packageWords)).started (ringQueue 5) applyWords).readDws 1
      0x40000000 16).1.toOption.getD []).flatMap fun y => bytesOf 8 y.toNat).take 128) = true) :
    ∃ (s s1 : State) (x : Queue) (p : List Word64), Starts s x 0x08 applyWords ∧
      testCores (applyWords.getD 3 0) = [0, 1] ∧ (s.started x applyWords).readDws x.ctx 0x40000000 16 = (.ok p, s1) ∧
      s1.queue x.q = (s.started x applyWords).queue x.q ∧ packageOk p 128 s1.io.start.version = true ∧
      packageSigned ((p.flatMap fun y => bytesOf 8 y.toNat).take 128) = true ∧ s1.testSkips 0 = false ∧
      s1.resultOk x.ctx (applyWords.getD 4 0).toNat 2 = true := by
  obtain ⟨x, -, hs, hx⟩ := of_starts (s := queued 5 applyWords (recorded packageWords)) (q := 5) (typ := 8) (w := applyWords)
    (φ := fun x => x == ringQueue 5 && match ((queued 5 applyWords (recorded packageWords)).started x applyWords).readDws x.ctx 0x40000000 16 with
      | (.ok p, t) => t.queue x.q == ((queued 5 applyWords (recorded packageWords)).started x applyWords).queue x.q &&
          packageOk p 128 t.io.start.version && !t.testSkips 0 && t.resultOk x.ctx (applyWords.getD 4 0).toNat 2
      | _ => false) (by decide +kernel)
  simp only [Bool.and_eq_true, beq_iff_eq] at hx
  obtain ⟨rfl, hx⟩ := hx
  split at hx
  · next p t e =>
    simp only [Bool.and_eq_true, beq_iff_eq, Bool.not_eq_true'] at hx
    change State.readDws _ 1 _ _ = _ at e
    rw [e] at h
    exact ⟨_, t, _, p, hs, by decide +kernel, e, hx.1.1.1, hx.1.1.2, h, hx.1.2, hx.2⟩
  · cases hx

def reportWords : List Word64 := [8, 0, 0, at_ 1 6 ||| at_ 1 8, 0x40000100, 0, 0, 0]

theorem witness_RepairEvents_report : let s := queued 5 reportWords
    starts s 5 8 reportWords (fun x => testBodyOk ((reportWords.drop 1).take 5) && testCores (reportWords.getD 3 0) == [0] &&
      match ((s.started x reportWords).storeBytes x.ctx 0x40000100
        (quads (((s.started x reportWords).testRecord 0 false false false 0).flatMap fun y => bytesOf 8 y.toNat))).1 with
      | .ok t => t.queue x.q == (s.started x reportWords).queue x.q && (s.started x reportWords).resultOk x.ctx 0x40000100 1
      | _ => false) = true := by decide +kernel

/-- Core 30 has been vacated for a test. -/
def testing : State := let s := queued 5 []
  { s with cmd := { s.cmd with queues := [{ ringQueue 5 with running := [⟨0, 8, 0, false, 0, 0, .test 0 [30] 0 0x40000100 0⟩] }] },
           cores := { s.cores with test := [30] } }

/-- What the test finds is a free choice: the hypotheses do not rest on it. -/
theorem witness_RepairEvents_test : testing.testAt 30 = some (5, 0, 1, 0, [], 0, 0x40000100, 0) ∧ testing.on 30 = [] ∧
    testing.piecesMove 0 30 1 = true ∧ (laneRepair 0 1).2 = false ∧ (laneRepair 0 1).1 ≠ 0 ∧ (laneRepair 0 3).2 = true :=
  ⟨by rfl, by decide +kernel, by decide +kernel, by decide +kernel, by decide +kernel, by decide +kernel⟩

/-- The words of a record of one strip and one view, of 64 by 64 samples and 16 by 16 pixels. -/
def vsWords : List Word64 :=
  [1, 0, at_ 2000000 0 ||| at_ 1000 32, at_ 100 0 ||| at_ 8000 32, at_ 4000 0 ||| at_ 64 32 ||| at_ 64 48, at_ 16 0 ||| at_ 16 16, 0, 0, 0, 0]
    ++ List.replicate 3 0x3F8000003F800000 ++ [0x3F800000] ++ List.replicate 4 0x3F8000003F800000 ++ List.replicate 14 0
    ++ [0, 0, 0, 0, 0, 0x3F800000BF800000, 0x3F800000BF800000] ++ List.replicate 25 0
def configureWords : List Word64 := [6, 0x40000000, 0, 0, 0, 0, 0, 0]

theorem witness_ViewStreams_configure : let s := queued 5 configureWords (recorded vsWords)
    let s := { streaming s (Stream.new 1 0) with io := { s.io with time := { s.io.time with everLocked := true } } }
    s.io.time.everLocked = true ∧ (s.stream (streamId 1 0)).isSome = true ∧ starts s 5 6 configureWords (fun x =>
      match (s.started x configureWords).readVs x.ctx 0x40000000 with
      | (.ok _, t) => t.streams == s.streams && t.io == s.io && t.queue x.q == (s.started x configureWords).queue x.q &&
          (match (t.readDw x.ctx 0x40000000).1 with | .ok n => streamId x.ctx (fld n 39 32) == streamId 1 0 | _ => false)
      | _ => false) = true := by decide +kernel

theorem witness_ViewStreams_frame : let s := streaming (mapped onTurn) stream0
    (s.stream stream0.id).any (fun v => v.cur == some vs0 && v.pend.isEmpty && decide (vs0.frameAt v.nextF ≤ now s) &&
      v.counters.all (· == 0) && (s.readDraws v.ctx vs0 v.nextF).2.streams == s.streams) = true := by decide +kernel

theorem witness_ViewStreams_effect : let p : VsPend := ⟨vs0, 0, 5, 0⟩
    let s := streaming (queued 5 []) { stream0 with cur := none, pend := [p] }
    let s := { s with cmd := { s.cmd with queues := [{ ringQueue 5 with running := [⟨0, 6, 0, false, 0, 0, .config stream0.id⟩] }] } }
    (s.stream stream0.id).isSome = true ∧ p.vs.frameAt p.f0 ≤ now s ∧ (s.running p.q p.n).isSome = true := by decide +kernel

/-- A frame with one draw of one meshlet, in which `n` draws and `m` meshlets have been launched. -/
def drawing (begun : Option Nat) (nd nm : Nat) : FrameSt :=
  { frame0 with begun := begun, nd := nd, nm := nm, lid := 1,
                draws := [⟨0, ⟨{ oneWarp 0x1000 with nsheaf := 2 }, []⟩, ⟨oneWarp 0x1000, []⟩, 1, 0⟩] }

theorem witness_ViewStreams_geometry : ∀ x ∈ [drawing none 0 0, drawing (some 0) 0 1, { frame0 with begun := none }],
    let s := streaming onTurn { stream0 with frames := [x] }
    (s.stream stream0.id).any (fun v => v.frames.find? (fun y => !y.dead && !y.launched) == some x &&
      v.frames.all (fun y => y.key != x.key || y == x) && (v.frames.takeWhile fun y => y.key != x.key).isEmpty &&
      ((x.draws[x.nd]?).isSome || x.draws.isEmpty) && (x.nm == 0 || (s.launch x.lid).isSome)) = true := by decide +kernel

theorem witness_ViewStreams_latch : let s := streaming onTurn { stream0 with frames := [{ frame0 with latched := 1 }] }
    (s.stream stream0.id).any (fun v => v.latchFrame 1 (now s) == some { frame0 with latched := 1 }) = true := by decide +kernel

/-- Port 0 with a link-local address. -/
def port0 : Port := { Port.reset 0 with linkLocal := 5 }
/-- A machine that hears port 0. -/
def heard : State := { onTurn with io := { onTurn.io with ports := [{ port0 with up := true }] } }

/-- A gaze packet for stream 5, view 0, as a port hands it over. -/
def gazeData (seq : Nat) : List Byte :=
  let head := bytesOf 4 0x02015442 ++ bytesOf 4 5 ++ bytesOf 4 seq ++ bytesOf 4 0x3F000000 ++ bytesOf 4 0 ++ bytesOf 4 0
  bytesOf 2 5000 ++ bytesOf 16 0 ++ head ++ bytesOf 4 (crc32c head).toNat ++ bytesOf 4 0

/-- A gaze record of sequence number 6 has been accepted. -/
def gazed : Stream := { stream0 with gaze := [⟨0, 0, 0, 0, 0, 6, false⟩] }
def gazeMeets (seq : Nat) : Bool :=
  let s := streaming heard gazed
  let w := wordsOf 8 ((gazeData seq).drop 18)
  let frame := netBytes 16 5 ++ gazeData seq
  s.hears 0 && frame.length == 66 && s.serves 0 (BitVec.ofNat 128 (addrOf (frame.take 16))) && frame.drop 16 == gazeData seq && s.stream gazed.id == some gazed && ofBytes ((gazeData seq).take 2) == vs0.udp && (gazeData seq).length == 50 && w.getD 0 0 == 0x02015442 &&
    (vs0.views[0]?).map (·.addr) == some (BitVec.ofNat 128 (addrOf (((gazeData seq).drop 2).take 16))) &&
    w.getD 1 0 == BitVec.ofNat 32 gazed.num && w.getD 5 0 == 0 && w.getD 7 0 == 0 && w.getD 6 0 == crc32c (((gazeData seq).drop 18).take 24) &&
    [w.getD 3 0, w.getD 4 0].all (fun a => finite a && flt (fabs a) 0x3FC00000) &&
    (decide (w.getD 2 0 ≠ 6 ∧ (w.getD 2 0 - 6).getLsbD 31 = false) == decide (seq = 7))

theorem witness_ViewStreams_gaze : gazeMeets 6 = true ∧ gazeMeets 7 = true := by decide +kernel

/-- A machine of one stream, with a frame of the primitives `p` and the strip `y`. -/
def stripped (y : StripSt) (p : List Prim := []) (f : Stream → Stream := id) : State :=
  streaming onTurn (f { stream0 with frames := [{ frame0 with prims := p }], strips := [y] })

/-- A strip that is about to begin in its view, and one with a primitive left. -/
theorem witness_StripsAndTiles : let s := stripped latched0
    (s.stream stream0.id).any (fun v => let s0 := s.serve .rasteriser v latched0.vs
      v.nextStrip 1 == some (latched0, frame0, 0, none) && (s0.readMap v.ctx latched0.vs 1 0).2.streams == s0.streams) = true ∧
    ∃ p : Prim, ((stripped strip0 [p]).stream stream0.id).any (fun v =>
      v.nextStrip 1 == some (strip0, { frame0 with prims := [p] }, 0, some 0)) = true :=
  ⟨by decide +kernel, ⟨0, 0, 0, 0, [], 1⟩, by decide +kernel⟩

/-- A strip that has been begun in its view and rasterised to the end, and one that is to be corrected. -/
theorem witness_StripsAndTiles_backEnd :
    ((stripped strip0).stream stream0.id).any (fun v => (v.strips.find? fun z => z.s == 1 && v.shaded z) == some strip0 &&
      (v.strips.find? fun z => z.s == 1 && !z.checked && decide (z.vs.checkAt z.f z.s ≤ now onTurn)) == some strip0) = true ∧
    ∀ x ∈ [(true, 0), (false, vs0.stripTiles)], ∀ bound ∈ [5000, 5000000],
      let z := { strip0 with keysReset := true, lensed := x.1, lens := x.2, vs := { vs0 with bound := bound } }
      let s := stripped z [] fun v => { v with latches := [⟨0, 0, 1, 0, Gaze.none, ⟨[], [], [], []⟩, ⟨[], [], [], []⟩⟩] }
      (s.stream stream0.id).any (fun v => (v.strips.find? fun z => z.s == 1 && v.rebuilt z) == some z &&
        (v.checkDue (now s) == (bound == 5000)) && ((s.serve .backEnd v z.vs).copyNow z).1 == !x.1 && (v.nextTile z).isSome == x.1 && (v.latch z 0).isSome &&
        !(v.cur.any fun r => r.dims != z.vs.dims)) = true := by decide +kernel

theorem witness_StripsAndTiles_depart : ∀ bound ∈ [600, 5000000], let d : DTile := ⟨0, 1, 1, [], false, false, 0, false⟩
    let y := { strip0 with vs := { vs0 with bound := bound }, tiles := [d] }
    { stream0 with strips := [y] }.departing 1 0 3 (now onTurn) = if bound = 600 then [] else [(y, d, view0)] := by decide +kernel

theorem witness_StripsAndTiles_watchdog :
    let x := { frame0 with vs := { vs0 with frame := 100 }, draws := [⟨3, ⟨oneWarp 0x1000, []⟩, ⟨oneWarp 0x1000, []⟩, 1, 0⟩] }
    let v := { stream0 with frames := [x], warps := [{ VWarp.new 2 .mesh 0 with draw := 3 }] }
    let s := streaming (queued 0 []) v
    let s := { s with io := { s.io with start := { s.io.start with configured := true } } }
    s.stream v.id = some v ∧ v.late (now s) = some (0, 3) ∧ v.pend = [] ∧ s.evLink = true ∧ s.evRoom := by decide +kernel

/-! ## The hypotheses of the statements can be met: ports, peers, time, starts -/

def ported (p : Port) : State := { onTurn with io := { onTurn.io with ports := [p], time := { onTurn.io.time with timebase := 3000000000 } } }

theorem witness_Ports : ∀ p ∈ [{ port0 with up := true, changed := true, addr := 9 }, port0], let s := ported p
    s.io.ports[0]? = some p ∧ s.evRoom ∧ p.downAt + 1000000000 ≤ now s ∧ p.reported + 1000000000 ≤ now s ∧ (p.up = true ↔ p.changed = true) ∧
      (p.up = true → p.addr ≠ 0) ∧ s.serves 0 5 = true := by
  decide +kernel

/-- A device with number 7 that has a peer with number 9. -/
def peered (s : State) (cfg : Start → Start := id) : State :=
  let s := wired s
  { s with cmd := { s.cmd with peers := [⟨1, 9, 0, 0, 0, 1, false⟩] }, io := { s.io with start := cfg { s.io.start with device := 7 } } }

/-- A read (kind 0) or a store (kind 1) of eight bytes at offset 0x40 of the slice of core 0. -/
def sysData (kind : Nat) : List Byte := bytesOf 8 (kind + 8 * 2 ^ 8) ++ bytesOf 8 5 ++ bytesOf 8 (0xF8 * 2 ^ 48 + 7 * 2 ^ 31 + 0x40) ++ bytesOf 8 77

theorem witness_PeersAndTime_messages : ∀ kind ∈ [0, 1], let s := peered onTurn
    let m := SysMsg.of (sysData kind)
    (s.cmd.peers[0]?).any (fun p => !p.lost && s.hears p.port) = true ∧ s.evRoom ∧ m.race = false ∧ m.psn = false ∧ m.kind = kind ∧ m.bytes = 8 ∧
      s.sysTarget 1 m.addr m.bytes = some (.scr 2 0 0x40 0) ∧ s.mem.chaff = [] ∧
      (s.sheaf 2).any (fun h => h.twin.isNone && h.scr.wf) = true := by decide +kernel

/-- A group of devices 7 and 9, with number 33. -/
def sysGrouped (sent : Bool) : State :=
  let s := withSheaf onTurn id fun l => { l with groups := [⟨7, true, [], true, 2, 33, 0, [3], [(0, 0, .add, 5)], 0, sent⟩] }
  peered s

/-- The arrival of a device at phase 0 of group 33, which contributes 5 to a sum. -/
def phaseData : List Byte := bytesOf 8 33 ++ bytesOf 8 1 ++ bytesOf 8 5

def deviceOf (dev : BitVec 20) : State :=
  let s := sysGrouped true
  { s with io := { s.io with start := { s.io.start with device := dev } } }
def phaseMeets (dev : BitVec 20) : Bool :=
  let s := deviceOf dev
  let (id, phase, op, v) := phaseFields phaseData
  id == 33 && phase == 0 && op == .add && v == 5 && (match s.sysGroup 1 33 with
    | some (l, x) => s.launch l.lid == some l && l.groups.find? (·.idx == x.idx) == some x && l.ctx == 1 && x.sysid == 33 && x.sent && x.phase == 0
    | none => false)

/-- Which peers carry a group's number is the configuration's: the second witness stands for a configuration in which device 9 does. -/
theorem witness_PeersAndTime_phases : (phaseMeets 7 = true ∧ (deviceOf 7).coordinator 1 33 = 7) ∧
    (Config.peerCarries 1 33 9 = true → phaseMeets 11 = true ∧ (deviceOf 11).coordinator 1 33 = 9) := by
  have e (d : BitVec 20) : (deviceOf d).devices 1 33 = [d.toNat] ++ [9].filter (Config.peerCarries 1 33) := rfl
  refine ⟨⟨by decide +kernel, ?_⟩, fun h => ⟨by decide +kernel, ?_⟩⟩
  · rw [State.coordinator, e, List.filter_cons]
    split <;> rfl
  · rw [State.coordinator, e, List.filter_cons, if_pos h]
    rfl

theorem witness_PeersAndTime_lost : (sysGrouped true).groupLost 1 33 = false ∧ ((sysGrouped true).cmd.peers[0]?).any
    (fun p => (sysGrouped true).hears p.port) = true ∧
    (let s := { sysGrouped true with io := { (sysGrouped true).io with ports := [] } }
     (s.cmd.peers[0]?).any (fun p => !s.hears p.port) = true) := by decide +kernel

/-- A device whose port 0 is up and runs PTP. -/
def timed (f : Time → Time) : State := { onTurn with io := { onTurn.io with
  ports := [{ port0 with up := true }], start := { onTurn.io.start with configured := true, clkord := [0] }, time := f onTurn.io.time } }

theorem witness_PeersAndTime_time : ∀ f ∈ [id, fun t : Time => { t with good := 7 }, fun t : Time => { t with locked := true, bad := 8 }],
    let s := timed f
    s.io.start.configured = true ∧ s.ptpPort = some 0 ∧ s.evRoom ∧ s.io.time.everLocked = false ∧
      (s.io.time.locked = false ∨ 8 ≤ s.io.time.bad) := by decide +kernel

/-- A datagram with a body, as the operator sends it to this device in this start, signed with zeros. -/
def boot (kind : Nat) (body : List Byte) : List Byte :=
  bytesOf 2 0x4253 ++ bytesOf 1 1 ++ bytesOf 1 kind ++ bytesOf 4 (0xB8 + body.length) ++ bytesOf 8 Config.serial.toNat ++ bytesOf 8 1 ++
    bytesOf 32 (Config.startNonce 1).toNat ++ bytesOf 64 0 ++ body ++ bytesOf 64 0
/-- The operator's key is a constant of the device: the witnesses stand for every device for which zeros are a key and its
signature. -/
def Signed (kind : Nat) (body : List Byte) : Prop := Config.sha256 (bytesOf 64 0) = Config.operatorKeyHash ∧
  Config.ecdsaVerify 0 (Config.sha256 ((boot kind body).take (0x78 + body.length))) 0 = true

theorem ofBytes_append (a b : List Byte) : ofBytes (a ++ b) = ofBytes a + 256 ^ a.length * ofBytes b := by
  induction a with
  | nil => simp [ofBytes]
  | cons x r ih => simp only [List.cons_append, ofBytes, ih, List.length_cons, Nat.pow_succ]; rw [Nat.mul_add]; ac_rfl

theorem ofBytes_bytesOf (n : Nat) : ∀ x, ofBytes (bytesOf n x) = x % 2 ^ (8 * n) := by
  induction n with
  | zero => intro x; simp [bytesOf, ofBytes, Nat.mod_one]
  | succ n ih =>
    intro x
    have e : bytesOf (n + 1) x = bytesOf n x ++ [BitVec.ofNat 8 (x / 2 ^ (8 * n))] := by simp [bytesOf, List.range_succ]
    have l : (bytesOf n x).length = n := by simp [bytesOf]
    rw [e, ofBytes_append, ih, l]
    simp only [ofBytes, BitVec.toNat_ofNat, Nat.mul_zero, Nat.add_zero]
    rw [show 8 * (n + 1) = 8 * n + 8 by omega, Nat.pow_add, Nat.mod_mul, show (256 : Nat) ^ n = 2 ^ (8 * n) by
      rw [Nat.pow_mul]]

theorem bytesOf_length (n x : Nat) : (bytesOf n x).length = n := by simp [bytesOf]

theorem field_at (a c : List Byte) (n x o : Nat) (h : o = a.length) : field (a ++ (bytesOf n x ++ c)) o n = x % 2 ^ (8 * n) := by
  subst h
  rw [field, List.drop_left, List.take_left' (bytesOf_length n x), ofBytes_bytesOf]

theorem boot_ok (s : State) (hs : s.io.start = Start.reset) (kind : Nat) (body : List Byte) (hk : kind < 256) (hl : body.length ≤ 8192)
    (h : Signed kind body) : s.bootOk (boot kind body) kind = true ∧ bootBody (boot kind body) = body := by
  have n : (boot kind body).length = 0xB8 + body.length := by simp [boot, bytesOf_length]; omega
  have at_ (a c : List Byte) (k x o : Nat) (e : boot kind body = a ++ (bytesOf k x ++ c)) (ho : o = a.length) :
      field (boot kind body) o k = x % 2 ^ (8 * k) := by rw [e]; exact field_at a c k x o ho
  let tail := body ++ bytesOf 64 0
  let p0 := bytesOf 2 0x4253
  let p1 := p0 ++ bytesOf 1 1
  let p2 := p1 ++ bytesOf 1 kind
  let p3 := p2 ++ bytesOf 4 (0xB8 + body.length)
  let p4 := p3 ++ bytesOf 8 Config.serial.toNat
  let p5 := p4 ++ bytesOf 8 1
  let p6 := p5 ++ bytesOf 32 (Config.startNonce 1).toNat
  let p7 := p6 ++ bytesOf 64 0
  have cut (a c : List Byte) (o k : Nat) (x : List Byte) (e : boot kind body = a ++ (x ++ c)) (ho : o = a.length) (hx : k = x.length) :
      ((boot kind body).drop o).take k = x := by
    subst ho hx; rw [e, List.drop_left, List.take_left']; rfl
  have key := cut p6 tail 0x38 64 (bytesOf 64 0) (by simp [boot, p6, p5, p4, p3, p2, p1, p0, tail]) (by simp [p6, p5, p4, p3, p2, p1, p0, bytesOf_length])
    (by simp [bytesOf_length])
  have bod := cut p7 (bytesOf 64 0) 0x78 body.length body (by simp [boot, p7, p6, p5, p4, p3, p2, p1, p0])
    (by simp [p7, p6, p5, p4, p3, p2, p1, p0, bytesOf_length]) rfl
  have sig : field (boot kind body) (0x78 + body.length) 64 = 0 := by
    rw [at_ (p7 ++ body) [] 64 0 _ (by simp [boot, p7, p6, p5, p4, p3, p2, p1, p0]) (by simp [p7, p6, p5, p4, p3, p2, p1, p0, bytesOf_length]; omega)]
    exact Nat.zero_mod _
  have z : ofBytes (bytesOf 64 0) = 0 := by rw [ofBytes_bytesOf]; exact Nat.zero_mod _
  have f0 := at_ [] (bytesOf 1 1 ++ bytesOf 1 kind ++ bytesOf 4 (0xB8 + body.length) ++ bytesOf 8 Config.serial.toNat ++ bytesOf 8 1 ++
    bytesOf 32 (Config.startNonce 1).toNat ++ bytesOf 64 0 ++ tail) 2 0x4253 0 (by simp [boot, tail]) rfl
  have f1 := at_ p0 (bytesOf 1 kind ++ bytesOf 4 (0xB8 + body.length) ++ bytesOf 8 Config.serial.toNat ++ bytesOf 8 1 ++
    bytesOf 32 (Config.startNonce 1).toNat ++ bytesOf 64 0 ++ tail) 1 1 2 (by simp [boot, p0, tail]) (by simp [p0, bytesOf_length])
  have f2 := at_ p1 (bytesOf 4 (0xB8 + body.length) ++ bytesOf 8 Config.serial.toNat ++ bytesOf 8 1 ++
    bytesOf 32 (Config.startNonce 1).toNat ++ bytesOf 64 0 ++ tail) 1 kind 3 (by simp [boot, p1, p0, tail]) (by simp [p1, p0, bytesOf_length])
  have f3 := at_ p2 (bytesOf 8 Config.serial.toNat ++ bytesOf 8 1 ++ bytesOf 32 (Config.startNonce 1).toNat ++ bytesOf 64 0 ++ tail) 4
    (0xB8 + body.length) 4 (by simp [boot, p2, p1, p0, tail]) (by simp [p2, p1, p0, bytesOf_length])
  have f4 := at_ p3 (bytesOf 8 1 ++ bytesOf 32 (Config.startNonce 1).toNat ++ bytesOf 64 0 ++ tail) 8 Config.serial.toNat 8
    (by simp [boot, p3, p2, p1, p0, tail]) (by simp [p3, p2, p1, p0, bytesOf_length])
  have f5 := at_ p5 (bytesOf 64 0 ++ tail) 32 (Config.startNonce 1).toNat 0x18
    (by simp [boot, p5, p4, p3, p2, p1, p0, tail]) (by simp [p5, p4, p3, p2, p1, p0, bytesOf_length])
  obtain ⟨h1, h2⟩ := h
  have e1 : (184 + body.length) - 64 = 0x78 + body.length := by omega
  constructor
  · simp only [State.bootOk, hs, n, f0, f1, f2, f3, f4, f5, key, e1, sig, z, h1]
    simp [Start.reset, Nat.mod_eq_of_lt hk, Nat.mod_eq_of_lt (show 184 + body.length < 4294967296 by omega),
      Nat.mod_eq_of_lt Config.serial.isLt, Nat.mod_eq_of_lt (Config.startNonce 1).isLt]
    exact h2
  · rw [bootBody, n, show 184 + body.length - 0x78 - 64 = body.length by omega, bod]

def configBody : List Byte := bytesOf 8 7 ++ List.replicate 0x128 0 ++ bytesOf 8 0x406000001 ++ bytesOf 8 0x60000000 ++ bytesOf 16 0
def chunkBody : List Byte := bytesOf 4 64 ++ bytesOf 4 1 ++ [5, 0, 0, 0, 0, 0, 0, 0]

/-- The frame of a datagram reaches port 0 of `heard` and is for it. -/
def Arrives (kind : Nat) (body : List Byte) : Prop := let frame := netBytes 16 5 ++ boot kind body
  heard.hears 0 = true ∧ frame.length ≤ 9166 ∧ frame.drop 16 = boot kind body ∧ heard.serves 0 (BitVec.ofNat 128 (addrOf (frame.take 16))) = true

theorem arrives (kind : Nat) (body : List Byte) (h : body.length ≤ 8192) : Arrives kind body := by
  have n : (netBytes 16 5).length = 16 := by decide +kernel
  have l : (boot kind body).length = 0xB8 + body.length := by simp [boot, bytesOf_length]; omega
  refine ⟨by decide +kernel, ?_, ?_, ?_⟩
  · rw [List.length_append, n, l]; omega
  · exact List.drop_left' n
  · rw [List.take_left' n]; decide +kernel

theorem witness_StartsAndDatagrams_config (h : Signed 1 configBody)
    (hr : Machine.meets 0x60000000 4096 Config.saveReserve.1 Config.saveReserve.2 = false) :
    Arrives 1 configBody ∧ heard.io.start.configured = false ∧ heard.bootOk (boot 1 configBody) 1 = true ∧ heard.configOk (bootBody (boot 1 configBody)) = true := by
  have k := boot_ok heard (by decide +kernel) 1 configBody (by decide) (by decide +kernel) h
  refine ⟨arrives 1 _ (by decide +kernel), by decide +kernel, k.1, ?_⟩
  rw [k.2]
  have hr' : Machine.meets 0x60000000 (64 * 2 ^ 6) Config.saveReserve.1 Config.saveReserve.2 = false := hr
  have e : heard.ringBad 6 0x60000000 = false := by
    simp only [State.ringBad, hr', Bool.or_false]
    decide +kernel
  have e1 : fld (BitVec.ofNat 64 (field configBody 0x130 8)) 28 24 = 6 := by decide +kernel
  have e2 : (BitVec.ofNat 64 (field configBody 0x138 8)).toNat = 0x60000000 := by decide +kernel
  simp only [State.configOk, e1, e2, e]
  decide +kernel

theorem witness_StartsAndDatagrams_images (h2 : Signed 2 chunkBody) (h3 : Signed 3 (bytesOf 8 65)) :
    Arrives 2 chunkBody ∧ Arrives 3 (bytesOf 8 65) ∧ heard.bootOk (boot 2 chunkBody) 2 = true ∧ bootBody (boot 2 chunkBody) = chunkBody ∧ field chunkBody 0 4 = 64 ∧ field chunkBody 4 4 = 1 ∧
    chunkBody.length = 16 ∧ (∀ x ∈ chunkBody.drop 9, x = 0) ∧ heard.bootOk (boot 3 (bytesOf 8 65)) 3 = true ∧
    bootBody (boot 3 (bytesOf 8 65)) = bytesOf 8 65 ∧ (bytesOf 8 65).length = 8 ∧ field (bytesOf 8 65) 4 4 = 0 := by
  have k2 := boot_ok heard (by decide +kernel) 2 chunkBody (by decide) (by decide +kernel) h2
  have k3 := boot_ok heard (by decide +kernel) 3 (bytesOf 8 65) (by decide) (by decide +kernel) h3
  exact ⟨arrives _ _ (by decide +kernel), arrives _ _ (by decide +kernel), k2.1, k2.2, by decide +kernel, by decide +kernel, by decide +kernel, by decide +kernel, k3.1, k3.2, by decide +kernel, by decide +kernel⟩

theorem witness_StartsAndDatagrams_resets (kind : Nat) (hk : kind = 0 ∨ kind = 1) (h : Signed 4 (bytesOf 8 kind)) :
    Arrives 4 (bytesOf 8 kind) ∧ heard.bootOk (boot 4 (bytesOf 8 kind)) 4 = true ∧ bootBody (boot 4 (bytesOf 8 kind)) = bytesOf 8 kind ∧
      (bytesOf 8 kind).length = 8 ∧ field (bytesOf 8 kind) 0 8 = kind := by
  have k := boot_ok heard (by decide +kernel) 4 (bytesOf 8 kind) (by decide) (by simp [bytesOf_length]) h
  refine ⟨arrives _ _ (by simp [bytesOf_length]), k.1, k.2, bytesOf_length 8 kind, ?_⟩
  obtain rfl | rfl := hk <;> decide +kernel

theorem witness_StartsAndDatagrams_others : State.reset.bootOk [] 4 = false ∧ State.reset.io.start.announced = none ∧
    (timed id).io.start.announced = none ∧ ((timed id).io.ports.filter (·.up)).length = 1 ∧ ((timed id).io.ports[0]?).map (·.up) = some true := by
  decide +kernel

/-! ## The hypotheses of the statements can be met: the whole machine -/

theorem witness_WordsRoundTrip : (Instr.vaddc g0 .u32 4 2 3 1 1).wf = true ∧ (Instr.vaddc g0 .u32 4 2 3 1 1).isWord = true := by decide +kernel

theorem witness_WordsHaveOneReading : (decode false 0x3200000402030111).toOption = some (.vaddc g0 .u32 4 2 3 1 1) := by decide +kernel

def fetches (s : State) : Bool := s.warps.any fun w => s.warp w.vw == some w && w.slot == .turn && s.mayRun w && w.clause.inside && !s.holds w &&
  !w.spr.tvec.getLsbD 1 && dbgMatch w.dbg w.issueAddr == 0 && match s.fetch w w.issueAddr with
    | (.ok word, _) => (match decodeSlot w.clause word with | .ok i => i == .nop g0 | .error _ => false)
    | _ => false

theorem witness_StepRunsDecoded : onTurn.agenda = [] ∧ onTurn.focus = some 3 ∧ fetches onTurn = true := by decide +kernel

theorem witness_StepRunsDecoded_word : let s := { onTurn with agenda := [.word 3], focus := none }
    s.agenda = .word 3 :: [] ∧ fetches { s with agenda := [], focus := some 3 } = true := by decide +kernel

theorem witness_StepRunsDecoded_time : State.reset.io.time.half = 0 ∧ State.reset.io.time.rate = 0 ∧ State.reset.io.time.frac = 0 := by
  decide +kernel

theorem witness_StepRunsDecoded_line : ∃ w ∈ trapped.warps, (match trapped.translate w.who 0x1008 8 Need.fetch with
    | (.ok (.dram pa pte), t) => decide (t = trapped) &&
        (List.range 2).all fun k => !(trapped.mem.read (trapped.via w.ident.ctx pte) (pa / 128 * 128 + 4 * (0x1008 % 128 / 4 + k)) 4).2
    | _ => false) = true ∧ trapped.mem.iline (trapped.coreOf w) w.ident.ctx 0x1008 = none := by decide +kernel

def wrongClass (h : Header) (word : Word64) : Bool :=
  !h.pair.getLsbD 0 && (!classAdmits h.cls word || (lastSlotOnly word && decide (0 ≠ h.count)))

theorem witness_StepRunsDecoded_slot : wrongClass ⟨1, 0, 0, 0, 0, 0⟩ 0x1000430301FFFFFB = true ∧
    wrongClass ⟨0, 1, 0, 0, 0, 0⟩ 0x0500000000000000 = true := by decide +kernel

/-- A warp at the header `h` of a clause. -/
def atHeader (h : Word64) (f : Warp → Warp := id) : State :=
  let s := onTurn fun w => f { w with clause := Clause.none, vpc := of64 fun _ => 0x1000 }
  s.setMem (s.mem.put64 (imgPage + imgCode) h)
def headerMeets (h : Word64) (f : Warp → Warp) (φ : Warp → Header → Bool) : Bool :=
  let s := atHeader h f
  s.agenda.isEmpty && s.warps.any fun w => s.warp w.vw == some w && w.slot == .turn && s.mayRun w && s.focus == some w.vw && !w.clause.inside &&
    w.running != 0 && decide (w.turnWords < 4096) && w.mids.isEmpty && w.waits.page.isNone && !s.pairWait w && !w.spr.tvec.getLsbD 1 &&
    dbgMatch (s.dbgOf w.ident.ctx) w.issueAddr == 0 && match s.fetch w w.issueAddr with
    | (.ok word, t) => word == h && t.warp w.vw == some w && t.focus == some w.vw && φ w (Header.ofWord word)
    | _ => false

theorem witness_ClauseHeaders : headerMeets (at_ 5 61) id (fun _ h => h.check == some 0x01) = true ∧
    headerMeets (at_ 1 35) (fun w => { w with dc := w.dc.set 0 1 }) (fun w h => h.check.isNone && h.wait.getLsbD 0 && w.dc[0] != 0) = true ∧
    headerMeets 0 id (fun w h => h.check.isNone && h.wait == 0 && w.wins.isEmpty) = true := by decide +kernel

theorem witness_NothingStops : State.reset.issuer = none ∧ onTurn.issuer.isSome = true ∧ (Instr.exit g0).isWord = true ∧
    Instr.announce.isWord = false := by decide +kernel

theorem witness_MemoryStaysCanonical : Memory.wf onTurn.mem = true ∧ (onTurn.sheaves.all fun h => h.scr.wf && h.pair.img.isNone) = true ∧
    (match step onTurn with | .next _ => true | _ => false) = true := by decide +kernel
/-! ## Results worked out from the manual -/

/-- Vector register n set lane by lane. -/
def lanesV (n : Nat) (t : Tag) (f : Nat → Word32) (w : Warp) : Warp := { w with v := w.v.set n ⟨Lanes.of f, t⟩ }
def allV (n : Nat) (t : Tag) (x : Word32) (w : Warp) : Warp := lanesV n t (fun _ => x) w
def setP (l : List (Nat × Mask)) (w : Warp) : Warp := { w with p := l.foldl (fun p x => p.set! x.1 x.2) w.p }
/-- Lanes 16 to 31 wait elsewhere. -/
def half (w : Warp) : Warp := { w with vpc := w.vpc.mapIdx fun k x => if k < 16 then x else 0x2400 }
/-- The warp after a word. -/
def gives (i : Instr) (f : Warp → Warp) (φ : Warp → Bool) : Bool := ((after i (onTurn f)).warp 3).any φ

/-- R223, R224: results wrap modulo 2^64, an immediate is signed, and SSRA takes its count modulo 64. -/
theorem test_scalar_arithmetic : gives (.sadd g0 3 1 (.imm 0xFFFFFB)) (setS [(1, 3)]) (fun w => w.sget 3 == 0xFFFFFFFFFFFFFFFE) = true ∧
    gives (.smul g0 3 3 (.reg 1)) (setS [(1, 2), (3, 0x8000000000000001)]) (fun w => w.sget 3 == 2) = true ∧
    gives (.ssra g0 3 1 (.reg 2)) (setS [(1, 0x8000000000000000), (2, 65)]) (fun w => w.sget 3 == 0xC000000000000000) = true := by
  decide +kernel

theorem test_scalar_high_products : gives (.smulh g0 true 3 1 2) (setS [(1, 0xFFFFFFFFFFFFFFFF), (2, 2)]) (fun w => w.sget 3 == 1) = true ∧
    gives (.smulh g0 false 3 1 2) (setS [(1, 0xFFFFFFFFFFFFFFFF), (2, 2)]) (fun w => w.sget 3 == 0xFFFFFFFFFFFFFFFF) = true := by decide +kernel

/-- R225: -1 is below 0 as a signed number and above it as an unsigned one. -/
theorem test_scmp : gives (.scmp g0 .lt 3 1 2) (setS [(1, 0xFFFFFFFFFFFFFFFF)]) (fun w => w.pget 3 == 0xFFFFFFFF) = true ∧
    gives (.scmp g0 .ltu 3 1 2) (fun w => setP [(3, 5)] (setS [(1, 0xFFFFFFFFFFFFFFFF)] w)) (fun w => w.pget 3 == 0) = true := by decide +kernel

/-- R255: the masks that the manual gives for `pset.and`; PFIRST of no lane is 32; a write to p0 is discarded. -/
theorem test_predicates : gives (.psetAnd g0 3 1 0) id (fun w => w.pget 3 == 0x55555555) = true ∧
    gives (.psetAnd g0 3 4 0) id (fun w => w.pget 3 == 0x0F0F0F0F) = true ∧ gives (.psetAnd g0 3 31 9) id (fun w => w.pget 3 == 0x200) = true ∧
    gives (.pfirst g0 3 4) id (fun w => w.sget 3 == 32) = true ∧ gives (.psetAnd g0 0 1 0) id (fun w => w.pget 0 == 0xFFFFFFFF) = true := by
  decide +kernel

/-- R226, R227: a carry does not leave its byte; the shift count is the whole source; rotation takes it modulo 32. -/
theorem test_vector_integers :
    gives (.vadd g0 .u32 .p8 5 1 2) (fun w => allV 1 12 0x01FF80FF (allV 2 12 0x01010101 w)) (fun w => w.ln 5 31 == 0x02008100) = true ∧
    gives (.vshl g0 5 1 2) (fun w => allV 1 0 0xFFFFFFFF (allV 2 0 32 w)) (fun w => w.ln 5 0 == 0) = true ∧
    gives (.vsra g0 5 1 2) (fun w => allV 1 0 0x80000000 (allV 2 0 0x80000000 w)) (fun w => w.ln 5 0 == 0xFFFFFFFF) = true ∧
    gives (.vrot g0 5 1 2) (fun w => allV 1 0 0x80000001 (allV 2 0 33 w)) (fun w => w.ln 5 7 == 3) = true := by decide +kernel

/-- R227, R70: the largest number and one saturate and raise SAT. -/
theorem test_vadds_saturates : gives (.vadds g0 .i32 .none 5 1 2) (fun w => allV 1 1 0x7FFFFFFF (allV 2 1 1 w))
    (fun w => w.ln 5 9 == 0x7FFFFFFF && w.tag 5 == 1 && w.spr.fflags == 32) = true := by decide +kernel

/-- R228: 0xFFFFFFFF + 0 + a carry of 1 is 0 with a carry. -/
theorem test_vaddc : gives (.vaddc g0 .u32 5 1 2 3 4) (fun w => setP [(3, 1)] (allV 1 2 0xFFFFFFFF (allV 2 2 0 w)))
    (fun w => w.ln 5 0 == 0 && w.ln 5 1 == 0xFFFFFFFF && w.pget 4 == 1) = true := by decide +kernel

/-- R201, R74: VADD does not take a register tagged binary32; the fault is taken before anything is written. -/
theorem test_tag_fault : gives (.vadd g0 .i32 .none 5 1 2) (fun w => allV 5 1 77 (allV 1 3 0x3F800000 (setSpr (fun r => { r with tvec := 0x2001 }) w)))
    (fun w => w.ln 5 0 == 77 && w.trapMode && w.pcOf 0 == 0x2000) = true := by decide +kernel

/-- IEEE 754: 1 + 1 = 2 exactly; 1 + 2^-24 is a tie that goes to even, inexact; infinity less infinity is invalid (R78, R81). -/
theorem test_vfadd : gives (.vfadd g0 .f32 5 1 2) (fun w => allV 1 3 0x3F800000 (allV 2 3 0x3F800000 w))
      (fun w => w.ln 5 0 == 0x40000000 && w.spr.fflags == 0) = true ∧
    gives (.vfadd g0 .f32 5 1 2) (fun w => allV 1 3 0x3F800000 (allV 2 3 0x33800000 w)) (fun w => w.ln 5 0 == 0x3F800000 && w.spr.fflags == 1)
      = true ∧
    gives (.vfadd g0 .f32 5 1 2) (fun w => allV 1 3 0x7F800000 (allV 2 3 0xFF800000 w)) (fun w => w.ln 5 0 == 0x7FC00000 && w.spr.fflags == 16)
      = true := by decide +kernel

/-- R82, R234: a fused multiply-add rounds once: (1 + 2^-23)^2 - (1 + 2^-22) is 2^-46. -/
theorem test_vfma : gives (.vfma g0 .f32 5 1 1 2) (fun w => allV 1 3 0x3F800001 (allV 2 3 0xBF800002 w))
    (fun w => w.ln 5 0 == 0x28800000 && w.spr.fflags == 0) = true := by decide +kernel

/-- R236: the classes of -0 and of a signalling NaN. -/
theorem test_vfclass : gives (.vfclass g0 false 5 1) (allV 1 3 0x80000000) (fun w => w.ln 5 0 == 8 && w.tag 5 == 2) = true ∧
    gives (.vfclass g0 false 5 1) (allV 1 3 0x7F800001) (fun w => w.ln 5 0 == 256 && w.spr.fflags == 0) = true := by decide +kernel

/-- Table 3.7: the four inputs of the example, packed: 0x79, 0x7E, 0x80, 0x7F in E4M3, with OF and NX; in E5M2, NX alone. -/
theorem test_vpack_fp8 : let f (w : Warp) := allV 4 3 0x43960000 (allV 5 3 0x43FA0000 (allV 6 3 0x80000000 (allV 7 3 0x7FC00000 w)))
    gives (.vpack g0 .e4 .rne 9 4) f (fun w => w.ln 9 3 == 0x7F807E79 && w.spr.fflags == 5) = true ∧
    gives (.vpack g0 .e5 .rne 9 4) f (fun w => w.ln 9 3 == 0x7E80605D && w.spr.fflags == 1) = true := by decide +kernel

/-- Tables 3.10 and 3.12: the block of the example, its planes, its exponents and its flag. -/
theorem test_vbxq_block : gives (.vbxq g0 .x4 0 8 9 4) (lanesV 4 3 fun l => [0x40400000, 0x3FC00000, 0xBED00000, 0x3E000000, 0x3F400000].getD l 0)
    (fun w => w.ln 8 0 == 0x14 && w.ln 8 2 == 4 && w.ln 8 4 == 0x17 && w.ln 8 6 == 0x11 && w.ln 8 1 == 0 && w.ln 9 0 == 0x7E80 &&
      w.tag 8 == 11 && w.tag 9 == 0 && w.spr.fflags == 1) = true := by decide +kernel

/-- The registers of the lane-crossing example (Table 7.14). -/
def crossing (w : Warp) : Warp := half (setP [(2, 0xFF00), (5, 0x1000F)] (lanesV 1 1 (BitVec.ofNat 32) (lanesV 8 1 (fun l => BitVec.ofNat 32 (100 + l))
  (lanesV 9 1 (fun l => BitVec.ofNat 32 (l / 2)) (allV 7 0 0xFFFFFFFF w)))))

theorem test_lane_crossing_example :
    gives (.vballot ⟨2, false⟩ 3 1 0 4) crossing (fun w => w.pget 3 == 0xAA00 && w.pget 4 == 0xFFFF) = true ∧
    gives (.vreduce g0 .addI 5 1 5 6) crossing (fun w => (List.range 32).all (fun l => w.ln 5 l == if l < 16 then 22 else 0) && w.tag 5 == 1 &&
      w.pget 6 == 0xF) = true := by decide +kernel

theorem test_lane_crossing_example_push :
    gives (.vshflp g0 7 8 9 7) crossing (fun w => (List.range 32).all (fun l => w.ln 7 l == if l < 8 then BitVec.ofNat 32 (101 + 2 * l) else 0xFFFFFFFF)
      && w.tag 7 == 1 && w.pget 7 == 0xFF) = true ∧
    gives (.vvote g0 .all 8 5 0 9) crossing (fun w => w.pget 8 == 0 && w.pget 9 == 0xF) = true := by decide +kernel

/-- Table 6.15: the words of the doubling kernel. -/
theorem test_words_of_the_doubling_kernel : ∀ p ∈ ([
    (0xF000010000000000, .sread g0 0 true 0 .idLane), (0x4900010200000002, .vmovi g0 .u32 2 2), (0x4100000100020020, .vshl g0 1 0 2),
    (0xA010080300010040, .ld g0 1 (.full .f32) .none .dv (.sv 0 1) 3), (0x3100000601000000, .vsub g0 .i32 .none 6 1 0),
    (0xA100080401010040, .st g0 (.full .f32) .none .dv (.sv 1 1) 4), (0x0500000000000000, .exit g0)] : List (Nat × Instr)),
    decodeTableWord 64 p.1 = some p.2 := by decide +kernel

theorem test_paired_word_of_the_doubling_kernel :
    (decode true 0x80100C0F00140004).toOption = some (.pairedWord (.op .vfadd .f32 4 3 3) (.op .vadd .i32 5 0 1)) := by decide +kernel

/-- R450, Tables 16.2 to 16.4: TRAP 7 with a handler at 0x2000 writes the cause 0x41, the slot, DONE, MODE and the code. -/
theorem test_trap : gives (.trap g0 7) (setSpr fun r => { r with tvec := 0x2001 }) (fun w => w.spr.tcause == 0x0000000700011041 &&
    w.spr.taddr == 0x1008 && w.spr.tlanes == 0xFFFFFFFF && w.pcOf 31 == 0x2000 && !w.clause.inside) = true := by decide +kernel

/-- Table 4.5: a line of equal 64-bit words is stored as one; zeros take no sector; R138: the CRC-32C of "123456789". -/
theorem test_lines : encodeLine (List.replicate 128 0) = (1, []) ∧
    encodeLine (List.replicate 128 7) = (2, List.replicate 8 7 ++ List.replicate 24 0) ∧
    crc32c [0x31, 0x32, 0x33, 0x34, 0x35, 0x36, 0x37, 0x38, 0x39] = 0xE3069283 := by decide +kernel

/-- The example of Table 4.6: rows of 2,304 bytes of 4,096 elements. -/
theorem test_bank_rows : rowLen 0x02A000240041082F = 4096 ∧ rowBytes 0x02A000240041082F = 2304 ∧ rowStride 0x02A000240041082F = 2304 ∧
    pteFrame 0x02A000240041082F / 2 ^ 21 * 2 ^ 21 + 0x1280 = 0x2400401280 := by decide +kernel

/-- The axis of the example of Table 11.6: its segments, and its centre. -/
def exampleAxis : Segs := segments 0xBF800000 0x3F800000 0 [0x3E000000, 0x3E800000, 0x3F000000, 0x3F400000, 0x40000000, 0x40000000, 0x40000000]
  [0x41000000, 0x40800000, 0x40000000, 0x3F800000, 0x3F000000, 0x3F000000, 0x3F000000, 0x3F000000] 512

theorem test_segments : exampleAxis.s = [0, 51, 102, 154, 358, 410, 461, 512] ∧ exampleAxis.band = [3, 2, 1, 0, 1, 2, 3] ∧
    exampleAxis.k = [102, 204, 416, 816, 416, 204, 102].map fint ∧ exampleAxis.fwd 0 = 0x43800000 := by decide +kernel

end Sys2Proof.Tests
end

section
/-! SUPPORT. Long-latency words of the core's pipelines (R213): what the issue leaves pending, and what PIPELINE_RESULT_WRITE
writes. -/

namespace Sys2Proof.Machine

/-! ## What a ready word has passed (R201, R209) -/

theorem Ready.wf {s : State} {w : Warp} {i : Instr} {g : Guard} {src : List Src} (h : Ready s w i g src) : i.wf = true := by
  obtain ⟨hwf, -⟩ := h
  exact hwf

theorem Ready.performing_ne_zero {s : State} {w : Warp} {i : Instr} {g : Guard} {src : List Src} (h : Ready s w i g src) :
    w.performing g ≠ 0 := by
  obtain ⟨-, -, -, -, -, -, hP, -⟩ := h
  exact hP

/-! ## The frame of a word that writes no register -/

/-- A word that leaves its warp advanced, with lookahead windows and pipelines of its own, changes nothing of it. -/
theorem Warp.only_of_advance {w t : Warp} {wins : List Win} {pipe : List PipeOp}
    (h : Warp.Ended { w.advance with wins := wins, pipe := pipe } t) : w.Only t {} := by
  have hk := w.advance_kept
  exact Warp.only_of h (by simp) rfl hk.ident (fun n _ => w.advance_vget n) (fun n _ => w.advance_sget n)
    (fun n _ => w.advance_pget n) hk.acc hk.dc hk.cfg (by simp) (.inr (by simp)) ⟨hk.husk, hk.nseq⟩

/-! ## Registers and register pairs written (R68) -/

theorem Warp.vget_putV (w : Warp) (d : R8) (P : Mask) (t : Tag) (f : Nat → Word32) (n : Nat) (hd : d.toNat < w.v.length)
    (hP : P ≠ 0) :
    (w.putV d P t f).vget n = if n = d.toNat then ⟨Lanes.merge P (Lanes.of f) (w.lanes d.toNat), t⟩ else w.vget n :=
  w.vget_vset d.toNat n P (Lanes.of f) t hd hP

theorem Warp.vget_putV2 (w : Warp) (d : R8) (P : Mask) (t : Tag) (f : Nat → Word64) (n : Nat)
    (hd : d.toNat + 2 ≤ w.v.length) (hP : P ≠ 0) :
    (w.putV2 d P t f).vget n =
      if n = d.toNat + 1 then
        ⟨Lanes.merge P (Lanes.of fun i => (f i).extractLsb' 32 32) (w.lanes (d.toNat + 1)), t⟩
      else if n = d.toNat then ⟨Lanes.merge P (Lanes.of fun i => (f i).setWidth 32) (w.lanes d.toNat), t⟩
      else w.vget n := by
  have low (k : Nat) :=
    w.vget_vset d.toNat k P (Lanes.of fun i => (f i).setWidth 32) t (by omega) hP
  rw [Warp.putV2, Warp.vget_vset _ _ _ _ _ _ (by rw [Warp.vset_v_length]; omega) hP, low]
  simp only [Warp.lanes, low, if_neg (Nat.succ_ne_self d.toNat)]

@[simp] theorem Warp.putV_s (w : Warp) (d : R8) (P : Mask) (t : Tag) (f : Nat → Word32) : (w.putV d P t f).s = w.s :=
  (w.vset_kept ..).s

@[simp] theorem Warp.putV2_s (w : Warp) (d : R8) (P : Mask) (t : Tag) (f : Nat → Word64) : (w.putV2 d P t f).s = w.s :=
  (Warp.vset_kept ..).s.trans (w.vset_kept ..).s

theorem Warp.write_wbV (w : Warp) (d : R8) (P : Mask) (t : Tag) (f : Nat → Word32) :
    w.write [wbV d P t f] = w.putV d P t f := rfl

theorem Warp.write_wbV2 (w : Warp) (d : R8) (P : Mask) (t : Tag) (f : Nat → Word64) :
    w.write (wbV2 d P t f) = w.putV2 d P t f := rfl

/-- What the write-backs leave in the vector registers depends on the vector registers alone. -/
theorem Warp.write_v_congr (l : List WB) : ∀ {a b : Warp}, a.v = b.v → (a.write l).v = (b.write l).v := by
  induction l with
  | nil => exact id
  | cons x r ih =>
    intro a b h
    refine ih ?_
    cases x with
    | v n m x t => simp only [WB.apply, Warp.vset, Warp.lanes, Warp.vget, h]; split <;> simp only [h]
    | s n x => exact h
    | p n m x => exact ((a.pset_kept n m x).v.trans h).trans (b.pset_kept n m x).v.symm

/-- What the write-backs leave in the scalar registers depends on the scalar registers alone. -/
theorem Warp.write_s_congr (l : List WB) : ∀ {a b : Warp}, a.s = b.s → (a.write l).s = (b.write l).s := by
  induction l with
  | nil => exact id
  | cons x r ih =>
    intro a b h
    refine ih ?_
    cases x with
    | v n m x t => exact ((a.vset_kept n m x t).s.trans h).trans (b.vset_kept n m x t).s.symm
    | s n x => simp only [WB.apply, Warp.sset, h]
    | p n m x => exact ((a.pset_kept n m x).s.trans h).trans (b.pset_kept n m x).s.symm

/-! ## The warp of a modified state -/

@[simp] theorem Warp.write_vw (l : List WB) : ∀ w : Warp, (w.write l).vw = w.vw := by
  induction l with
  | nil => exact fun _ => rfl
  | cons b r ih =>
    intro w
    refine (ih (WB.apply w b)).trans ?_
    cases b with
    | v n m x t => exact (w.vset_kept n m x t).vw
    | s n x => rfl
    | p n m x => exact (w.pset_kept n m x).vw

theorem State.vw_of_warp {s : State} {v : Nat} {w : Warp} (h : s.warp v = some w) : w.vw = v := by
  simpa using List.find?_some h

theorem State.warp_modWarp (s : State) (k v : Nat) (f : Warp → Warp) (hf : ∀ x, (f x).vw = x.vw) :
    (s.modWarp k f).warp v = (s.warp v).map fun x => if x.vw == k then f x else x :=
  find_updIf s.warps fun x => .inl (by rw [hf])

theorem State.warp_modWarp_same {s : State} {k : Nat} {w : Warp} (f : Warp → Warp) (hf : ∀ x, (f x).vw = x.vw)
    (h : s.warp k = some w) : (s.modWarp k f).warp k = some (f w) := by
  simp [State.warp_modWarp s k k f hf, h, State.vw_of_warp h]

theorem State.warp_modWarp_ne (s : State) {k v : Nat} (f : Warp → Warp) (hf : ∀ x, (f x).vw = x.vw) (h : v ≠ k) :
    (s.modWarp k f).warp v = s.warp v := by
  rw [State.warp_modWarp s k v f hf]
  cases e : s.warp v with
  | none => rfl
  | some x => simp [State.vw_of_warp e, h]

theorem State.OnlyWarp.modWarp {s t : State} {k : Nat} (h : s.OnlyWarp t k) (f : Warp → Warp) (hf : ∀ x, (f x).vw = x.vw) :
    s.OnlyWarp (t.modWarp k f) k :=
  ⟨⟨h.mem.bytes, h.mem.scratch, h.mem.rest⟩, fun v hv => (t.warp_modWarp_ne f hf hv).trans (h.others v hv), h.launches,
    h.cmd, h.cores, h.streams, h.io⟩

/-! ## PIPELINE_RESULT_WRITE -/

@[simp] theorem Warp.pipeDone_vw (w : Warp) (id : Nat) : (w.pipeDone id).vw = w.vw := by
  unfold Warp.pipeDone; split
  · rfl
  · exact w.write_vw _

theorem Warp.pipeDone_of_find {w : Warp} {id : Nat} {p : PipeOp} (h : w.pipe.find? (·.id == id) = some p) :
    w.pipeDone id = { w.write p.wb with pipe := (w.pipeDone id).pipe, wins := (w.pipeDone id).wins } := by
  simp only [Warp.pipeDone, h]

/-- The event writes the registers of a pending operation, and changes beyond them the warp's pipelines and windows alone. -/
theorem State.pipelineResultWrite_of_find {s t : State} {w : Warp} {k id : Nat} {p : PipeOp} (hw : t.warp k = some w)
    (hp : w.pipe.find? (·.id == id) = some p) (ho : s.OnlyWarp t k) :
    ∃ u w', exec (.pipelineResultWrite k id) t = .next u ∧ u.warp k = some w' ∧ s.OnlyWarp u k ∧
      w' = { w.write p.wb with pipe := w'.pipe, wins := w'.wins } := by
  refine ⟨_, _, rfl, State.warp_modWarp_same _ (fun x => x.pipeDone_vw id) hw, ho.modWarp _ fun x => x.pipeDone_vw id, ?_⟩
  rw [Warp.pipeDone_of_find hp]

/-- An operation with a fresh identifier is the one found under it. -/
theorem find_pipe_fresh {l : List PipeOp} {n : Nat} (wb : List WB) (h : ∀ x ∈ l, x.id < n) :
    (l ++ [(⟨n, wb⟩ : PipeOp)]).find? (·.id == n) = some ⟨n, wb⟩ := by
  have absent : l.find? (·.id == n) = none := List.find?_eq_none.2 fun x hx => by
    simpa only [beq_iff_eq] using Nat.ne_of_lt (h x hx)
  rw [List.find?_append, absent, Option.none_or]
  exact List.find?_cons_of_pos (beq_self_eq_true n)

/-- A ready word that opens a pipeline operation from warp `x`: it leaves what `x` holds, and the operation's
PIPELINE_RESULT_WRITE then writes the registers `wb`. -/
theorem State.issue_pipe {s : State} {w x : Warp} {i : Instr} {g : Guard} {src : List Src} {la : Nat}
    {regs : List (RegCls × Nat)} {wb : List WB} {f : State → Warp → Mask → Res} {k : Touch}
    (he : exec i s = s.issue i g src f) (h : Ready s w i g src) (hid : ∀ y ∈ w.pipe, y.id < s.nextId)
    (hf : f s w.advance (w.performing g) = .go { s with nextId := s.nextId + 1 } (x.openPipe s.nextId la regs wb) false)
    (hvw : x.vw = w.vw) (hpipe : x.pipe = w.pipe) (hk : ∀ t, (x.openPipe s.nextId la regs wb).Ended t → w.Only t k) :
    ∃ t w1 u w2, exec i s = .next t ∧ t.warp w.vw = some w1 ∧ w.Only w1 k ∧ (x.openPipe s.nextId la regs wb).Ended w1 ∧
      s.OnlyWarp t w.vw ∧ exec (.pipelineResultWrite w.vw s.nextId) t = .next u ∧ u.warp w.vw = some w2 ∧
      s.OnlyWarp u w.vw ∧ w2 = { w1.write wb with pipe := w2.pipe, wins := w2.wins } := by
  obtain ⟨t, w1, hgo, hw1, hframe, honly, hend⟩ := State.issue_leaves he h hf (by simp) hvw hk fun _ hend => hend
  have hfind : w1.pipe.find? (·.id == s.nextId) = some ⟨s.nextId, wb⟩ := by
    rw [hend.pipe, Warp.openPipe_pipe, hpipe]; exact find_pipe_fresh wb hid
  obtain ⟨u, w2, hu, hw2, honly2, hwrite⟩ := State.pipelineResultWrite_of_find hw1 hfind honly
  exact ⟨t, w1, u, w2, hgo, hw1, hframe, hend, honly, hu, hw2, honly2, hwrite⟩

end Sys2Proof.Machine
end

section
/-! SUPPORT. SREAD and SWRITE (R198, R221, Table 6.10). -/

namespace Sys2Proof.Machine

/-! ## Limits on the operands (R198) -/

theorem Instr.scalar_mem_uses_sread (g : Guard) (la : BitVec 4) (d : R8) (sp : Special) :
    RegUse.sw d ∈ (Instr.sread g la false d sp).uses := List.mem_cons_of_mem _ (List.mem_singleton.2 rfl)

theorem Instr.vector_mem_uses_sread (g : Guard) (la : BitVec 4) (d : R8) (sp : Special) :
    RegUse.vw d (spRegs true sp) ∈ (Instr.sread g la true d sp).uses := List.mem_cons_of_mem _ (List.mem_singleton.2 rfl)

theorem Special.rw_iff (sp : Special) : sp.rw = true ↔ sp = .fmode ∨ sp = .fflags ∨ sp = .tvec := by
  cases sp <;> decide

theorem Instr.rw_of_swrite_wf {g : Guard} {vec : Bool} {a : R8} {sp : Special} (h : (Instr.swrite g vec a sp).wf = true) :
    sp.rw = true := by
  simp only [Instr.wf, Bool.and_eq_true] at h
  obtain ⟨⟨hmod, -⟩, -⟩ := h
  exact hmod

/-! ## SREAD -/

/-- The model reads the register after the advance past the word; the value is the one that a warp about to issue reads. -/
theorem State.special_advance (s : State) (w : Warp) (sp : Special) : s.special w.advance sp = s.specialValue w sp := by
  have hid := w.advance_kept.ident
  have hcore : s.coreOf w.advance = s.coreOf w := by simp only [State.coreOf, hid]
  funext l
  cases sp <;> simp only [State.special, State.specialValue, hid, hcore, Warp.advance_spr]
  case vpc => simp only [Warp.advance]

theorem State.twinOf_advance (s : State) (w : Warp) : s.twinOf w.advance = s.twinOf w := by
  simp only [State.twinOf, w.advance_kept.ident]

/-- Outside a sheaf pair every special register is read where it stands (R502). -/
theorem State.readSpecial_unpaired {s : State} {w : Warp} (h : s.twinOf w = none) (sp : Special) (i : Instr) (P : Mask) :
    s.readSpecial w sp i P = (s.special w sp, w) := by
  simp only [State.readSpecial, h, ite_self]

/-- The registers that an SREAD of the values `f` leaves pending. -/
def sreadWrites (vec : Bool) (d : R8) (sp : Special) (P : Mask) (f : Nat → Word64) : List WB :=
  if !vec then [.s d.toNat (f 0)] else if sp.wide then wbV2 d P 0 f else [wbV d P 0 fun i => (f i).setWidth 32]

/-- A ready SREAD outside a sheaf pair leaves its warp as it was, and its registers are written when the pipeline completes
(R213, R221). -/
theorem State.sread_pipe {s : State} {w : Warp} {g : Guard} {la : BitVec 4} {vec : Bool} {d : R8} {sp : Special}
    (htwin : s.twinOf w = none) (h : Ready s w (.sread g la vec d sp) g []) (hid : ∀ x ∈ w.pipe, x.id < s.nextId) :
    ∃ t w1 u w2, exec (.sread g la vec d sp) s = .next t ∧ t.warp w.vw = some w1 ∧ w.Only w1 {} ∧ w1.v = w.v ∧ w1.s = w.s ∧
      s.OnlyWarp t w.vw ∧ exec (.pipelineResultWrite w.vw s.nextId) t = .next u ∧ u.warp w.vw = some w2 ∧
      s.OnlyWarp u w.vw ∧
      w2 = { w1.write (sreadWrites vec d sp (w.performing g) (s.specialValue w sp)) with pipe := w2.pipe, wins := w2.wins } := by
  have hread := State.readSpecial_unpaired ((s.twinOf_advance w).trans htwin) sp (.sread g la vec d sp) (w.performing g)
  have hk := w.advance_kept
  obtain ⟨t, w1, u, w2, hgo, hw1, honly, hend, hwrite⟩ :=
    State.issue_pipe (x := w.advance) (la := la.toNat) (regs := (Instr.sread g la vec d sp).pending)
      (wb := sreadWrites vec d sp (w.performing g) (s.specialValue w sp)) (k := {}) exec_sread h hid
      (by simp only [hread, State.special_advance]; rfl) hk.vw hk.pipe fun _ => Warp.only_of_advance
  exact ⟨t, w1, u, w2, hgo, hw1, honly, hend.v.trans hk.v, hend.s.trans hk.s, hwrite⟩

/-- The scalar register of an SREAD. -/
theorem Warp.sread_scalar {w t : Warp} {d : R8} {sp : Special} {P : Mask} {f : Nat → Word64} (hd : d.toNat < w.s.length)
    (hv : t.v = (w.write (sreadWrites false d sp P f)).v) (hs : t.s = (w.write (sreadWrites false d sp P f)).s) :
    t.sget d.toNat = f 0 ∧ (∀ n, n ≠ d.toNat → t.sget n = w.sget n) ∧ ∀ n, t.vget n = w.vget n := by
  have hset (n : Nat) : t.sget n = if n = d.toNat then f 0 else w.sget n :=
    (Warp.sget_congr hs n).trans (w.sget_sset d.toNat n (f 0) hd)
  exact ⟨by rw [hset, if_pos rfl], fun n hn => by rw [hset, if_neg hn], Warp.vget_congr hv⟩

/-- The vector register of an SREAD of 32 bits. -/
theorem Warp.sread_narrow {w t : Warp} {d : R8} {sp : Special} {P : Mask} {f : Nat → Word64} (hd : d.toNat < w.v.length)
    (hP : P ≠ 0) (hw : sp.wide = false) (hv : t.v = (w.write (sreadWrites true d sp P f)).v) :
    w.LanesAre t d.toNat P 0 (fun l y => y = (f l).extractLsb' 0 32) ∧ ∀ n, n ≠ d.toNat → t.vget n = w.vget n := by
  have hset (n : Nat) := w.vget_putV d P 0 (fun i => (f i).setWidth 32) n hd hP
  simp only [sreadWrites, hw, Bool.not_true, Bool.false_eq_true, if_false, Warp.write_wbV] at hv
  refine ⟨Warp.lanesAre_of ((Warp.vget_congr hv _).trans ((hset _).trans (if_pos rfl))) fun l hl => ?_, fun n hn => ?_⟩
  · rw [get_of _ _ hl, BitVec.setWidth_eq_extractLsb' (by omega)]
  · rw [Warp.vget_congr hv, hset, if_neg hn]

/-- The register pair of an SREAD of 64 bits. -/
theorem Warp.sread_wide {w t : Warp} {d : R8} {sp : Special} {P : Mask} {f : Nat → Word64} (hd : d.toNat + 2 ≤ w.v.length)
    (hP : P ≠ 0) (hw : sp.wide = true) (hv : t.v = (w.write (sreadWrites true d sp P f)).v) :
    w.LanesAre t d.toNat P 0 (fun l y => y = (f l).extractLsb' 0 32) ∧
      w.LanesAre t (d.toNat + 1) P 0 (fun l y => y = (f l).extractLsb' 32 32) ∧
      ∀ n, n ≠ d.toNat → n ≠ d.toNat + 1 → t.vget n = w.vget n := by
  have hset (n : Nat) := w.vget_putV2 d P 0 f n hd hP
  simp only [sreadWrites, hw, Bool.not_true, Bool.false_eq_true, if_false, if_true, Warp.write_wbV2] at hv
  refine ⟨Warp.lanesAre_of (x := Lanes.of fun i => (f i).setWidth 32) ?_ fun l hl => ?_,
    Warp.lanesAre_of (x := Lanes.of fun i => (f i).extractLsb' 32 32) ?_ fun l hl => ?_, fun n hn hn1 => ?_⟩
  · rw [Warp.vget_congr hv, hset, if_neg (Nat.succ_ne_self _).symm, if_pos rfl]
  · rw [get_of _ _ hl, BitVec.setWidth_eq_extractLsb' (by omega)]
  · rw [Warp.vget_congr hv, hset, if_pos rfl]
  · rw [get_of _ _ hl]
  · rw [Warp.vget_congr hv, hset, if_neg hn1, if_neg hn]

/-- An SREAD to a vector register writes no scalar register. -/
theorem Warp.write_sreadWrites_s (w : Warp) (d : R8) (sp : Special) (P : Mask) (f : Nat → Word64) :
    (w.write (sreadWrites true d sp P f)).s = w.s := by
  cases hw : sp.wide <;> simp [sreadWrites, hw, Warp.write_wbV, Warp.write_wbV2]

/-! ## SWRITE -/

theorem Warp.Ended.setSpr {w t : Warp} {r : Spr} (h : Warp.Ended { w with spr := r } t) : w.Ended { t with spr := w.spr } :=
  ⟨h.vw, h.ident, h.v, h.s, h.acc, h.dc, rfl, h.cfg, h.pipe, h.husk, h.nseq, h.waits, h.p, h.pc, h.tx⟩

theorem Warp.Only.touchSpr {w t : Warp} {r : Spr} {k : Touch} (h : w.Only { t with spr := r } k) :
    w.Only t { k with spr := true } :=
  ⟨h.v, h.s, h.p, h.acc, h.dc, h.cfg, .inl rfl, .inl rfl, h.tx, h.husk, h.idle, h.next, h.ident⟩

/-- The frame of a word that wrote special registers alone. -/
theorem Warp.only_of_spr {w t : Warp} {r : Spr} (h : Warp.Ended { w.advance with spr := r } t) :
    w.Only t { spr := true } :=
  Warp.Only.touchSpr (k := {}) (Warp.only_of_advance h.setSpr)

/-- The value that SWRITE takes: a scalar register, or the lane `l` of a vector register or pair (R221). -/
def Warp.swriteValue (w : Warp) (vec : Bool) (a : R8) (sp : Special) (l : Nat) : Word64 :=
  if !vec then w.sget a.toNat else if sp.wide then w.ln64 a l else (w.ln a l).setWidth 64

theorem Warp.swriteValue_advance (w : Warp) : w.advance.swriteValue = w.swriteValue := by
  funext vec a sp l; simp only [Warp.swriteValue, Warp.advance_sget, Warp.advance_ln, Warp.advance_ln64]

/-- A ready SWRITE, of FFLAGS with no BGEMV outstanding, writes its special register and nothing else. -/
theorem State.swrite_leaves {s : State} {w : Warp} {g : Guard} {vec : Bool} {a : R8} {sp : Special} {φ : Warp → Prop}
    (hb : sp = .fflags → ∀ e ∈ w.husk, ∀ g dc acc bf a b, e.instr ≠ .bgemv g dc acc bf a b)
    (h : Ready s w (.swrite g vec a sp) g (if vec then [⟨a, if sp.wide then 2 else 1, tRaw⟩] else []))
    (hφ : ∀ t : Warp, t.spr = (w.writeSpecial sp (w.swriteValue vec a sp (lowest (w.performing g)))).spr → φ t) :
    Leaves s w (.swrite g vec a sp) { spr := true } φ := by
  have hk := w.advance_kept
  refine State.issue_leaves (s1 := s) (stop := false)
    (w1 := w.advance.writeSpecial sp (w.advance.swriteValue vec a sp (lowest (w.performing g))))
    exec_swrite h ?_ (by simp) hk.vw (fun t ht => Warp.only_of_spr ht) fun t ht => hφ t ?_
  · refine if_neg fun hold => ?_
    simp only [Bool.and_eq_true, beq_iff_eq, List.any_eq_true, hk.husk] at hold
    obtain ⟨hsp, e, he, hbg⟩ := hold
    split at hbg
    · next hi => exact hb hsp e he _ _ _ _ _ _ hi
    · contradiction
  · rw [ht.spr, w.swriteValue_advance]; simp only [Warp.writeSpecial, Warp.advance_spr]

/-- Settles O30: an SREAD leaves its value pending in a pipeline operation, which then writes the registers; an SWRITE writes
the fields of its register in its own warp. -/
theorem specialRegisters : Obligations.SpecialRegisters := by
  unfold Obligations.SpecialRegisters
  refine ⟨fun s w g la vec d sp => ?_, fun s w g vec a sp => ?_⟩
  · intro i P val htwin h hid
    obtain ⟨t, w1, u, w2, hgo, hw1, honly, hv1, hs1, hot, hu, hw2, hou, hwrite⟩ := State.sread_pipe htwin h hid
    have hv : w2.v = (w.write (sreadWrites vec d sp P val)).v :=
      (congrArg Warp.v hwrite).trans (Warp.write_v_congr _ hv1)
    have hs : w2.s = (w.write (sreadWrites vec d sp P val)).s :=
      (congrArg Warp.s hwrite).trans (Warp.write_s_congr _ hs1)
    have hP := h.performing_ne_zero
    refine ⟨t, w1, u, w2, hgo, hw1, honly, hot, hu, hw2, hou, ?_⟩
    cases vec with
    | false =>
      have hd : d.toNat + 1 ≤ w.s.length := h.budget (Instr.scalar_mem_uses_sread g la d sp)
      exact Warp.sread_scalar hd hv hs
    | true =>
      have hd : d.toNat + spRegs true sp ≤ w.v.length := h.budget (Instr.vector_mem_uses_sread g la d sp)
      have hscal := fun n => (Warp.sget_congr (hs.trans (w.write_sreadWrites_s d sp P val)) n)
      cases hw : sp.wide with
      | false =>
        obtain ⟨hlow, hrest⟩ := Warp.sread_narrow (by simp [spRegs, hw] at hd; omega) hP hw hv
        exact ⟨hscal, hlow, hrest⟩
      | true =>
        obtain ⟨hlow, hhigh, hrest⟩ := Warp.sread_wide (by simpa [spRegs, hw] using hd) hP hw hv
        exact ⟨hscal, hlow, hhigh, hrest⟩
  · intro i l x hb h
    have hx : x = w.swriteValue vec a sp l := by cases vec <;> rfl
    rw [hx]
    refine State.swrite_leaves hb h fun t ht => ⟨?_, ?_, ?_, ?_⟩
    · rintro rfl; exact ht
    · rintro rfl; exact ht
    · rintro rfl; exact ht
    · exact (Special.rw_iff sp).1 (Instr.rw_of_swrite_wf h.wf)

end Sys2Proof.Machine
end

section
/-! SUPPORT. What a step issues (R31, R180, R182, R201), where a word is fetched from (R136), how time passes (R20, R21), and the
state after reset. -/

namespace Sys2Proof.Machine

/-! ## Words (R180, R182, R201) -/

/-- A warp in its turn inside a clause, which nothing holds back and no debug trap takes, issues the word it fetches. -/
theorem State.nextOf_word {s s1 : State} {w : Warp} {i : Instr} {word : Word64} (hw : s.warp w.vw = some w)
    (hslot : w.slot = .turn) (hrun : s.mayRun w = true) (hin : w.clause.inside = true) (hhold : s.holds w = false)
    (hstep : w.spr.tvec.getLsbD 1 = false) (hdbg : dbgMatch w.dbg w.issueAddr = 0)
    (hfetch : s.fetch w w.issueAddr = (.ok word, s1)) (hdec : decodeSlot w.clause word = .ok i) :
    s.nextOf w.vw = .instr i s1 := by
  have hnext : s.nextOf w.vw = s.nextWord w := by simp [State.nextOf, hw, hslot, hrun, hin]
  have hsteps (inner : Bool) : w.steps inner = false := by rw [Warp.steps, hstep]; rfl
  rw [hnext]
  simp [State.nextWord, hhold, hsteps, hdbg, hfetch, hdec]

/-- What `step` does for the warp it serves, once the warp's next word is known. -/
theorem stepWarp_of_nextOf {s s1 : State} {vw : Nat} {i : Instr} (h : s.nextOf vw = .instr i s1) :
    stepWarp s vw = settled (exec i s1) := by
  simp only [stepWarp, h]

/-- An unpaired slot refuses a word that its class does not take, and a last-slot word in another slot. -/
theorem decodeSlot_refuses {c : Clause} {word : Word64} (hp : c.hdr.pair.getLsbD c.slot = false)
    (h : classAdmits c.hdr.cls word = false ∨ (lastSlotOnly word = true ∧ c.slot ≠ c.hdr.count)) :
    decodeSlot c word = .error 0x01 := by
  rcases h with hc | ⟨hl, hs⟩
  · simp [decodeSlot, hp, hc]
  · simp [decodeSlot, hp, hl, hs]

/-! ## The line that a word is fetched from (R136) -/

/-- The line read from its home: its bytes, and its poisoned words. -/
theorem State.fillLine_line (s : State) (core ctx a pa : Nat) (pte : Word64) :
    (s.fillLine core ctx a pa pte).2.bytes = (s.mem.read (s.via ctx pte) (pa / 128 * 128) 128).1 ∧
    ∀ i, i < 32 → (s.fillLine core ctx a pa pte).2.psn.contains i =
      (s.mem.read (s.via ctx pte) (pa / 128 * 128 + 4 * i) 4).2 := by
  refine ⟨rfl, fun i hi => ?_⟩
  rw [Bool.eq_iff_iff, List.contains_iff_mem]
  simp [State.fillLine, hi]

/-- A fetch of an aligned word of a line that the instruction cache does not hold reads it at its home. -/
theorem State.fetch_of_home {s : State} {w : Warp} {a pa : Nat} {pte : Word64}
    (ht : s.translate w.who a 8 Need.fetch = (.ok (.dram pa pte), s))
    (hpsn : ∀ k, k < 2 → (s.mem.read (s.via w.ident.ctx pte) (pa / 128 * 128 + 4 * (a % 128 / 4 + k)) 4).2 = false)
    (hmiss : s.mem.iline (s.coreOf w) w.ident.ctx a = none) (ha : a % 8 = 0) :
    ∃ t, s.fetch w a = (.ok (BitVec.ofNat 64 (ofBytes
      (((s.mem.read (s.via w.ident.ctx pte) (pa / 128 * 128) 128).1.drop (a % 128)).take 8))), t) := by
  obtain ⟨hbytes, hline⟩ := s.fillLine_line (s.coreOf w) w.ident.ctx a pa pte
  have low := (hline (a % 128 / 4) (by omega)).trans (hpsn 0 (by omega))
  have high := (hline (a % 128 / 4 + 1) (by omega)).trans (hpsn 1 (by omega))
  refine ⟨(s.fillLine (s.coreOf w) w.ident.ctx a pa pte).1, ?_⟩
  simp only [State.fetch, ht, hmiss, low, high, hbytes, Bool.or_self, Bool.false_eq_true, if_false]

/-! ## Time (R20, R21) -/

/-- Uncorrected and on a whole nanosecond, the timebase counts the nanoseconds that pass. -/
theorem Time.advance_timebase {t : Time} (n : Nat) (hhalf : t.half = 0) (hrate : t.rate = 0) (hfrac : t.frac = 0) :
    (t.advance n).timebase = t.timebase + BitVec.ofNat 64 n := by
  have total : (t.frac + min n t.half * 500000 + (n - min n t.half) * (1000000 + t.rate).toNat) / 1000000 = n := by
    rw [hhalf, hrate, hfrac]; simp
  simp only [Time.advance, total]

/-- Settles O56: a step issues the word that the warp in its turn fetches, or performs the event, or lets the time pass, that the
agenda holds next. -/
theorem stepRunsDecoded : Obligations.StepRunsDecoded := by
  unfold Obligations.StepRunsDecoded
  intro Fetches
  have issues {s s1 : State} {w : Warp} {i : Instr} (h : Fetches s w i s1) : stepWarp s w.vw = settled (exec i s1) := by
    obtain ⟨hw, hslot, hrun, hin, hhold, hstep, hdbg, word, hfetch, hdec⟩ := h
    exact stepWarp_of_nextOf (State.nextOf_word hw hslot hrun hin hhold hstep hdbg hfetch hdec)
  refine ⟨fun s s1 w i hag hfoc h => ?_, fun s s1 w i r hag h => ?_, fun s i r hag => ?_,
    fun s n r hag => ⟨?_, rfl, Time.advance_timebase n⟩, fun s w a pa pte => State.fetch_of_home,
    fun c word => decodeSlot_refuses⟩
  · rw [step, hag]; simp only [hfoc]; exact issues h
  · rw [step, hag]; exact issues h
  · rw [step, hag]
  · rw [step, hag]

/-! ## Reset (R26, R437 to R440, Table 10.14) -/

/-- No key slot of a memory without slots holds a key. -/
theorem Mem.slotKey_of_slots_nil {m : Mem} (h : m.slots = []) (ctx slot : Nat) : m.slotKey ctx slot = none := by
  simp [Mem.slotKey, h]

/-- At reset every cluster is in the compute partition, with the limits of Table 10.14. -/
theorem Cores.reset_bal {c : Nat} (h : c < 48) : Cores.reset.bal[c]? = some { g := 0, gmin := 0, gmax := 24, fixed := false } :=
  List.getElem?_replicate_of_lt h

/-- Settles O60: each field of `State.reset`. -/
theorem resetState : Obligations.ResetState := by
  unfold Obligations.ResetState
  refine ⟨rfl, rfl, rfl, rfl, rfl, rfl, rfl, rfl, rfl, rfl, rfl, rfl, rfl, Mem.slotKey_of_slots_nil rfl, fun c => Cores.reset_bal,
    Mem.reset_wf, ?_⟩
  intro h hh
  exact absurd hh List.not_mem_nil

end Sys2Proof.Machine
end

section
/-! SUPPORT. Events that the machine makes (R483): what making one leaves alone, and that it is sent or held. -/

namespace Sys2Proof.Machine

/-! ## Steadiness: what events and faults of entries leave alone -/

/-- From `s` to `t` no byte of device memory and no peer has changed, nor whether events can be sent; what has left the package, and
the events held while none can be sent, are still there. -/
structure State.Steady (s t : State) : Prop where
  peers : t.cmd.peers = s.cmd.peers
  dram : t.mem.dram = s.mem.dram
  link : t.evLink = s.evLink
  out : s.io.out <+: t.io.out
  unsent : s.evLink = false → s.cmd.unsent <+: t.cmd.unsent

theorem State.Steady.refl (s : State) : s.Steady s := ⟨rfl, rfl, rfl, List.prefix_rfl, fun _ => List.prefix_rfl⟩

theorem State.Steady.trans {s t u : State} (h : s.Steady t) (k : t.Steady u) : s.Steady u :=
  ⟨k.peers.trans h.peers, k.dram.trans h.dram, k.link.trans h.link, h.out.trans k.out,
    fun hl => (h.unsent hl).trans (k.unsent (h.link.trans hl))⟩

theorem State.evLink_congr {s t : State} (hc : t.cmd = s.cmd) (hs : t.io.start = s.io.start) : t.evLink = s.evLink := by
  simp only [State.evLink, State.fallbackServes, hc, hs]

/-- What is equal to a list starts with it. -/
theorem prefix_of_eq {α : Type} {a b : List α} (h : b = a) : a <+: b := h ▸ List.prefix_rfl

/-- A change outside the command side, the ports and device memory is steady. -/
theorem State.Steady.of_eq {s t : State} (hc : t.cmd = s.cmd) (hio : t.io = s.io) (hd : t.mem.dram = s.mem.dram) : s.Steady t :=
  ⟨congrArg Cmd.peers hc, hd, State.evLink_congr hc (congrArg Io.start hio), prefix_of_eq (congrArg Io.out hio),
    fun _ => prefix_of_eq (congrArg Cmd.unsent hc)⟩

theorem State.steady_foldl {α : Type} {f : State → α → State} (hf : ∀ (s : State) x, s.Steady (f s x)) (l : List α) (s : State) :
    s.Steady (l.foldl f s) :=
  List.foldlRecOn (motive := s.Steady) l f (.refl s) fun t h x _ => h.trans (hf t x)

/-! ## One event -/

/-- From `s` to `t` events have been sent or are held, and nothing else has changed. -/
structure State.Told (s t : State) : Prop where
  eq : t = { s with
    io := { s.io with out := t.io.out }
    cmd := { s.cmd with unsent := t.cmd.unsent, evSeq := t.cmd.evSeq, evLost := t.cmd.evLost } }
  out : s.io.out <+: t.io.out

theorem State.Told.refl (s : State) : s.Told s := ⟨rfl, List.prefix_rfl⟩

theorem State.Told.trans {s t u : State} (h : s.Told t) (k : t.Told u) : s.Told u := by
  refine ⟨?_, h.out.trans k.out⟩
  rw [k.eq, h.eq]

theorem State.Told.sheaves {s t : State} (h : s.Told t) : t.sheaves = s.sheaves := by rw [h.eq]
theorem State.Told.launches {s t : State} (h : s.Told t) : t.launches = s.launches := by rw [h.eq]
theorem State.Told.time {s t : State} (h : s.Told t) : t.io.time = s.io.time := by rw [h.eq]

theorem State.Told.steady {s t : State} (h : s.Told t) (hu : s.evLink = false → s.cmd.unsent <+: t.cmd.unsent) : s.Steady t :=
  ⟨by rw [h.eq], by rw [h.eq], by rw [h.eq]; rfl, h.out, hu⟩

/-- The oldest event that is held leaves the package. -/
def State.sendEvent (s : State) (e : Ev) : State :=
  { s with
    io := { s.io with out := s.io.out ++ [.event (e.words s.cmd.evSeq s.cmd.evLost)] }
    cmd := { s.cmd with evSeq := s.cmd.evSeq + 1, evLost := 0 } }

theorem State.flushEvents_of_link {s : State} (h : s.evLink = true) :
    s.flushEvents = s.cmd.unsent.foldl State.sendEvent { s with cmd := { s.cmd with unsent := [] } } := if_pos h

theorem State.flushEvents_of_no_link {s : State} (h : s.evLink = false) : s.flushEvents = s :=
  if_neg (by rw [h]; exact Bool.false_ne_true)

theorem State.sendEvent_told (s : State) (e : Ev) : s.Told (s.sendEvent e) := ⟨rfl, List.prefix_append _ _⟩

theorem State.sendEvents_told (l : List Ev) (s : State) : s.Told (l.foldl State.sendEvent s) :=
  List.foldlRecOn (motive := s.Told) l _ (.refl s) fun t h e _ => h.trans (t.sendEvent_told e)

/-- Each event of a list that is sent leaves the package. -/
theorem State.sendEvents_out {l : List Ev} {e : Ev} (he : e ∈ l) (s : State) :
    ∃ n lost, .event (e.words n lost) ∈ (l.foldl State.sendEvent s).io.out := by
  induction l generalizing s with
  | nil => cases he
  | cons x r ih =>
    rcases List.mem_cons.1 he with rfl | he
    · exact ⟨_, _, (State.sendEvents_told r (s.sendEvent e)).out.subset (List.mem_append_right _ (List.mem_singleton_self _))⟩
    · exact ih he _

/-- The machine with one more event held. -/
def State.withHeld (s : State) (e : Ev) : State := { s with cmd := { s.cmd with unsent := s.cmd.unsent ++ [e] } }

theorem State.event_of_room {s : State} (e : Ev) (h : s.evRoom) :
    s.event e = (s.withHeld { e with time := s.io.time.timebase }).flushEvents := if_pos h

theorem State.event_of_full {s : State} (e : Ev) (h : ¬ s.evRoom) :
    s.event e = { s with cmd := { s.cmd with evLost := s.cmd.evLost + 1 } } := if_neg h

theorem State.flushEvents_told (s : State) : s.Told s.flushEvents := by
  cases hl : s.evLink with
  | true =>
    rw [State.flushEvents_of_link hl]
    exact .trans (t := { s with cmd := { s.cmd with unsent := [] } }) ⟨rfl, List.prefix_rfl⟩ (State.sendEvents_told _ _)
  | false => rw [State.flushEvents_of_no_link hl]; exact .refl s

theorem State.event_told (s : State) (e : Ev) : s.Told (s.event e) := by
  by_cases h : s.evRoom
  · rw [State.event_of_room e h]
    exact .trans (t := s.withHeld _) ⟨rfl, List.prefix_rfl⟩ (State.flushEvents_told _)
  · rw [State.event_of_full e h]; exact ⟨rfl, List.prefix_rfl⟩

/-- An event made while none can be sent goes behind those held, or is lost. -/
theorem State.event_steady (s : State) (e : Ev) : s.Steady (s.event e) := by
  refine (s.event_told e).steady fun hl => ?_
  by_cases h : s.evRoom
  · rw [State.event_of_room e h, State.flushEvents_of_no_link (s := s.withHeld _) hl]
    exact List.prefix_append _ _
  · have full := congrArg (fun t : State => t.cmd.unsent) (State.event_of_full e h)
    exact prefix_of_eq full

/-- With room for it, an event that is made is reported. -/
theorem State.event_reports {s : State} (e : Ev) (h : s.evRoom) : Reports s (s.event e) e := by
  rw [State.event_of_room e h, Reports]
  split
  · next hl =>
    rw [State.flushEvents_of_link (s := s.withHeld _) hl]
    exact State.sendEvents_out (List.mem_append_right _ (List.mem_singleton_self _)) _
  · next hl =>
    rw [State.flushEvents_of_no_link (s := s.withHeld _) (Bool.eq_false_iff.2 hl)]
    exact List.mem_append_right _ (List.mem_singleton_self _)

/-- What has been reported stays so over a steady change. -/
theorem Reports.steady {s t u : State} {e : Ev} (h : Reports s t e) (hl : t.evLink = s.evLink) (k : t.Steady u) : Reports s u e := by
  unfold Reports at *
  split at h <;> rename_i link
  · obtain ⟨n, lost, hm⟩ := h
    rw [if_pos link]; exact ⟨n, lost, k.out.subset hm⟩
  · rw [if_neg link]; exact (k.unsent (hl.trans (Bool.eq_false_iff.2 link))).subset h

/-- A report is the same from any machine with the same time that can or cannot send it alike. -/
theorem Reports.congr {s s' t : State} {e : Ev} (h : Reports s' t e) (hl : s'.evLink = s.evLink)
    (ht : s'.io.time.timebase = s.io.time.timebase) : Reports s t e := by
  unfold Reports at *
  rwa [← hl, ← ht]

end Sys2Proof.Machine
end

section
/-! SUPPORT. The watches of the machine: fault batches (R463), power (R24), the balance step (R364, R365) and deadlock (R477). -/

namespace Sys2Proof.Machine

/-! ## Fault batches (R463) -/

/-- A batch that is 2 µs old, behind other events, joins them and is a batch no longer. -/
theorem State.faultBatchClose_queues {s : State} {die : Nat} {b : Batch} (hb : s.cmd.batches.find? (·.die == die) = some b)
    (hold : b.opened + 2000 ≤ s.io.time.timebase.toNat) (hev : s.cmd.evq ≠ []) :
    exec (.faultBatchClose die) s = .next { s with cmd := { s.cmd with
      batches := s.cmd.batches.filter (·.die != die), evq := s.cmd.evq ++ [.batch die (s.batchRecs b.recs)] } } := by
  have he : s.cmd.evq.isEmpty = false := by simpa using hev
  simp only [exec_faultBatchClose, execFaultBatchClose, hb, he, Bool.false_and, Bool.false_eq_true, if_false,
    if_neg (Nat.not_lt.2 hold)]

/-- The only batch, full to its 256th record, is handed on. -/
theorem State.fullBatches_of_full {s : State} {b : Batch} (hb : s.cmd.batches = [b]) (hn : b.recs.length = 256) :
    s.fullBatches = { s with cmd := { s.cmd with
      batches := [], evq := s.cmd.evq ++ [.batch b.die (s.batchRecs b.recs)] } } := by
  have htake : b.recs.take 256 = b.recs := List.take_of_length_le (Nat.le_of_eq hn)
  simp [State.fullBatches, hb, hn, htake]

/-! ## Power (R24) -/

/-- A sample is too soon when the die's last one is less than 10 µs old. -/
theorem State.powerSample_soon {s : State} {die mw k : Nat} (hk : s.cores.sampled[die]? = some (some k))
    (h : s.io.time.timebase.toNat < k + 10000) : exec (.powerSample die mw) s = .next s := by
  simp only [exec_powerSample, execPowerSample, hk, Machine.now, h, decide_true, if_true]

/-- A sample that is due throttles its die one measure further, or not at all. -/
theorem State.powerSample_due {s : State} {die mw : Nat} {u : Option Nat} (hu : s.cores.sampled[die]? = some u)
    (hdue : ∀ k, u = some k → k + 10000 ≤ s.io.time.timebase.toNat) :
    exec (.powerSample die mw) s = .next { s with cores := { s.cores with
      throttle := s.cores.throttle.modify die fun n => if 280000 < mw then min 2 (n + 1) else 0
      sampled := s.cores.sampled.set die (some s.io.time.timebase.toNat) } } := by
  rw [exec_powerSample]
  cases u with
  | none => simp only [execPowerSample, hu, Bool.false_eq_true, if_false]; rfl
  | some k =>
    have hk : ¬ Machine.now s < k + 10000 := Nat.not_lt.2 (hdue k rfl)
    simp only [execPowerSample, hu, hk, decide_false, Bool.false_eq_true, if_false]; rfl

/-! ## The balance step (R364, R365) -/

theorem State.setG_bal (s : State) (cl g k : Nat) :
    (s.setG cl g).cores.bal[k]? = (s.cores.bal[k]?).map fun b => if cl = k then { b with g := g } else b := by
  simp only [State.setG, List.getElem?_modify]; split <;> simp

/-- Where G of a cluster with stream floor `floor` may stand after a step: within one core of where it stood, and one more when it
was below the minimum. -/
def Bal.Steps (b : Bal) (floor g : Nat) : Prop :=
  g ≤ b.g + 1 ∧ b.g ≤ g + 1 ∧ (b.g < max b.gmin floor → g = b.g + 1)

/-- From `s` to `t` the clusters of `l` have stepped, and nothing else that a balance step reads or may change has moved. -/
structure State.Balanced (s t : State) (l : List Nat) : Prop where
  warps : t.warps = s.warps
  sheaves : t.sheaves = s.sheaves
  streams : t.streams = s.streams
  balanced : t.cores.balanced = s.cores.balanced
  g : ∀ c b, s.cores.bal[c]? = some b →
    ∃ g, t.cores.bal[c]? = some { b with g := g } ∧ if c ∈ l then b.Steps (s.floor c) g else g = b.g

theorem State.Balanced.refl (s : State) : s.Balanced s [] :=
  ⟨rfl, rfl, rfl, rfl, fun _ b hb => ⟨b.g, hb, rfl⟩⟩

theorem State.setG_balanced {s : State} {cl g : Nat} (h : ∀ b, s.cores.bal[cl]? = some b → b.Steps (s.floor cl) g) :
    s.Balanced (s.setG cl g) [cl] := by
  refine ⟨rfl, rfl, rfl, rfl, fun c b hb => ?_⟩
  by_cases e : c = cl
  · subst e; exact ⟨g, by simp [State.setG_bal, hb], by simpa using h b hb⟩
  · exact ⟨b.g, by simp [State.setG_bal, hb, Ne.symm e], by simp [e]⟩

/-- A cluster that is not below its minimum may stay where it is. -/
theorem State.balanced_self {s : State} {cl : Nat}
    (h : ∀ b, s.cores.bal[cl]? = some b → max b.gmin (s.floor cl) ≤ b.g) : s.Balanced s [cl] := by
  refine ⟨rfl, rfl, rfl, rfl, fun c b hb => ⟨b.g, hb, ?_⟩⟩
  by_cases e : c = cl
  · subst e
    have := h b hb
    simp only [List.mem_singleton, if_true]
    exact ⟨by omega, by omega, fun low => by omega⟩
  · simp [e]

theorem State.balanceOne_balanced (s : State) (cl : Nat) : s.Balanced (s.balanceOne cl) [cl] := by
  cases hb : s.cores.bal[cl]? with
  | none => simpa only [State.balanceOne, hb] using State.balanced_self (by simp [hb])
  | some b =>
    have moves (g : Nat) (h : b.Steps (s.floor cl) g) : s.Balanced (s.setG cl g) [cl] :=
      State.setG_balanced fun b' hb' => by rw [hb] at hb'; cases hb'; exact h
    have stays (h : max b.gmin (s.floor cl) ≤ b.g) : s.Balanced s [cl] :=
      State.balanced_self fun b' hb' => by rw [hb] at hb'; cases hb'; exact h
    simp only [State.balanceOne, hb]
    have grows : s.Balanced (s.setG cl (b.g + 1)) [cl] := moves _ ⟨by omega, by omega, fun _ => rfl⟩
    by_cases low : b.g < max b.gmin (s.floor cl)
    · rw [if_pos low]; exact grows
    · have stays := stays (by omega)
      have shrinks : s.Balanced (s.setG cl (b.g - 1)) [cl] := moves _ ⟨by omega, by omega, fun h => absurd h low⟩
      rw [if_neg low]
      split
      · split
        · exact shrinks
        · exact stays
      · split
        · exact grows
        · split
          · exact shrinks
          · exact stays

theorem State.Balanced.cons {s t u : State} {c : Nat} {l : List Nat} (h : s.Balanced t [c]) (k : t.Balanced u l) (hc : c ∉ l) :
    s.Balanced u (c :: l) := by
  refine ⟨k.warps.trans h.warps, k.sheaves.trans h.sheaves, k.streams.trans h.streams, k.balanced.trans h.balanced,
    fun i b hb => ?_⟩
  obtain ⟨g, hg, hstep⟩ := h.g i b hb
  obtain ⟨g', hg', hstep'⟩ := k.g i _ hg
  refine ⟨g', hg', ?_⟩
  have floor : t.floor i = s.floor i := by simp only [State.floor, h.streams]
  by_cases e : i = c
  · subst e
    simp only [hc, if_false] at hstep'
    simpa [hstep'] using hstep
  · simp only [List.mem_singleton, e, if_false] at hstep
    subst hstep
    simpa [e, floor] using hstep'

theorem State.balanceAll_balanced {l : List Nat} (hl : l.Nodup) : ∀ s : State, s.Balanced (l.foldl State.balanceOne s) l := by
  induction l with
  | nil => exact State.Balanced.refl
  | cons c r ih =>
    obtain ⟨hc, hr⟩ := List.nodup_cons.1 hl
    exact fun s => (s.balanceOne_balanced c).cons (ih hr _) hc

/-- A balance step that is due notes its time and steps every cluster. -/
theorem State.balanceStep_due {s : State} (h : s.cores.balanced + 20000 ≤ s.io.time.timebase.toNat) :
    Goes s .balanceStep fun t =>
      State.Balanced { s with cores := { s.cores with balanced := s.io.time.timebase.toNat } } t (List.range 48) :=
  ⟨_, if_neg (Nat.not_lt.2 h), State.balanceAll_balanced List.nodup_range _⟩

/-! ## Deadlock (R477) -/

/-- A warp's freeze draws free values, and puts the warp back. -/
theorem State.freezeWarp_eq (s : State) (w : Warp) : ∃ n x, s.freezeWarp w = State.setWarp { s with freeIx := n } x := by
  have draws (l : List HkEntry) (a : List HkEntry) (u : State) : ∃ n, (l.foldl (fun ((l, s) : List HkEntry × State) e =>
      let (x, s) := s.drawWord
      (l ++ [e.latch (x.setWidth 32)], s)) (a, u)).2 = { u with freeIx := n } :=
    List.foldlRecOn (motive := fun x : List HkEntry × State => ∃ n, x.2 = { u with freeIx := n }) l _ ⟨_, rfl⟩
      fun x ⟨n, hn⟩ _ _ => ⟨n + 1, by dsimp only [State.drawWord]; rw [hn]⟩
  obtain ⟨n, hn⟩ := draws w.freeze.husk [] s
  exact ⟨n, _, congrArg (fun u : State => u.setWarp _) hn⟩

theorem State.freezeWarp_sheaves (s : State) (w : Warp) : (s.freezeWarp w).sheaves = s.sheaves := by
  obtain ⟨n, x, h⟩ := s.freezeWarp_eq w
  rw [h]; rfl

theorem State.freezeWarps_sheaves (l : List Warp) (s : State) : (l.foldl State.freezeWarp s).sheaves = s.sheaves :=
  List.foldlRecOn (motive := fun t : State => t.sheaves = s.sheaves) l _ rfl fun t h w _ => (t.freezeWarp_sheaves w).trans h

/-- What a freeze makes of the sheaf that it names. -/
def Sheaf.freezes (h : Sheaf) (why : Why) (time : Nat) : Sheaf :=
  if h.state == .resident then { h with state := .frozen, why := why, frozenAt := time }
  else if h.why == .evict || h.why == .none then { h with why := why } else h

theorem State.sid_of_sheaf {s : State} {v : Nat} {h : Sheaf} (e : s.sheaf v = some h) : h.sid = v := by
  simpa using List.find?_some e

/-- A freeze changes sheaves of the number that it names alone, and freezes the first of that number. -/
theorem State.freezeSheaf_sheaves (s : State) (k : Nat) (why : Why) : ∃ f : Sheaf → Sheaf, (∀ x, (f x).sid = x.sid) ∧
    (∀ h, s.sheaf k = some h → f h = h.freezes why s.io.time.timebase.toNat) ∧
    (s.freezeSheaf k why).sheaves = updIf (·.sid == k) f s.sheaves := by
  unfold State.freezeSheaf
  cases hk : s.sheaf k with
  | none => exact ⟨id, fun _ => rfl, by simp, by simp [updIf]⟩
  | some h =>
    by_cases hr : h.state == .resident
    · refine ⟨fun x => { x with state := .frozen, why := why, frozenAt := s.io.time.timebase.toNat }, fun _ => rfl, ?_, ?_⟩
      · rintro _ ⟨⟩; rw [Sheaf.freezes, if_pos hr]
      · simp only [hr, if_true]; exact State.freezeWarps_sheaves _ _
    · refine ⟨fun x => if x.why == .evict || x.why == .none then { x with why := why } else x,
        fun x => by dsimp only; split <;> rfl, ?_, ?_⟩
      · rintro _ ⟨⟩; rw [Sheaf.freezes, if_neg hr]
      · simp only [hr]; rfl

/-- A freeze reaches the sheaf that it names, and no other. -/
theorem State.sheaf_freezeSheaf (s : State) (k v : Nat) (why : Why) : (s.freezeSheaf k why).sheaf v =
    (s.sheaf v).map fun h => if v = k then h.freezes why s.io.time.timebase.toNat else h := by
  obtain ⟨f, hf, named, e⟩ := s.freezeSheaf_sheaves k why
  rw [State.sheaf, e, find_updIf s.sheaves fun x => .inl (by rw [hf])]
  refine Option.map_congr fun h hh => ?_
  have hid : h.sid = v := State.sid_of_sheaf hh
  by_cases hv : v = k
  · subst hv; simp [hid, named h hh]
  · simp [hid, hv]

/-- The sheaf `sid` of launch `lid` has frozen for the deadlock, or runs and is still to be reached: `done` says that it has been. -/
def State.Halting (s : State) (lid sid : Nat) (done : Prop) : Prop :=
  ∃ h, s.sheaf sid = some h ∧ h.lid = lid ∧ (h.state = .frozen ∧ h.why = .deadlock ∨ h.state = .resident ∧ ¬ done)

theorem State.Halting.freezeSheaf {s : State} {lid sid : Nat} {done : Prop} (h : s.Halting lid sid done) (k : Nat) :
    (s.freezeSheaf k .deadlock).Halting lid sid (done ∨ sid = k) := by
  obtain ⟨x, hx, hl, hst⟩ := h
  rw [State.Halting, State.sheaf_freezeSheaf, hx]
  refine ⟨_, rfl, ?_⟩
  by_cases e : sid = k
  · rcases hst with ⟨hf, hw⟩ | ⟨hr, -⟩
    · simp [e, hl, Sheaf.freezes, hf, hw]
    · simp [e, hl, Sheaf.freezes, hr]
  · simpa [e, hl] using hst

theorem State.Halting.freezeSheaves {lid sid : Nat} (l : List Nat) : ∀ {s : State} {done : Prop}, s.Halting lid sid done →
    (l.foldl (fun s k => s.freezeSheaf k .deadlock) s).Halting lid sid (done ∨ sid ∈ l) := by
  induction l with
  | nil => intro s done h; simpa using h
  | cons k r ih =>
    intro s done h
    simpa [or_assoc] using ih (h.freezeSheaf k)

theorem State.Halting.freezeLaunch {s : State} {lid sid : Nat} {done : Prop} (h : s.Halting lid sid done) (k : Nat) :
    (s.freezeLaunch k .deadlock).Halting lid sid (done ∨ lid = k) := by
  obtain ⟨x, hx, hl, -⟩ := id h
  have reached : lid = k → sid ∈ (s.sheaves.filter (·.lid == k)).map (·.sid) := fun e =>
    List.mem_map.2 ⟨x, List.mem_filter.2 ⟨List.mem_of_find?_eq_some hx, by simp [hl, e]⟩, State.sid_of_sheaf hx⟩
  obtain ⟨y, hy, hly, hst⟩ := h.freezeSheaves ((s.sheaves.filter (·.lid == k)).map (·.sid))
  exact ⟨y, hy, hly, hst.imp_right fun ⟨hr, hn⟩ => ⟨hr, fun hd => hn (hd.imp_right reached)⟩⟩

theorem State.Halting.freezeLaunches {lid sid : Nat} (l : List Nat) : ∀ {s : State} {done : Prop}, s.Halting lid sid done →
    (l.foldl (fun s k => s.freezeLaunch k .deadlock) s).Halting lid sid (done ∨ lid ∈ l) := by
  induction l with
  | nil => intro s done h; simpa using h
  | cons k r ih =>
    intro s done h
    simpa [or_assoc] using ih (h.freezeLaunch k)

/-- A deadlock that has stood for 1 ms is reported, and then every launch of the context freezes. -/
theorem State.deadlockDetect_due {s : State} {ctx : Nat} {d : Nat × Nat} (hd : s.cmd.deadSince.find? (·.1 == ctx) = some d)
    (hold : d.2 + 1000000 ≤ s.io.time.timebase.toNat) (hdead : s.deadlocked ctx = true) :
    ∃ u : State, u.sheaves = s.sheaves ∧ exec (.deadlockDetect ctx) s =
      .next (((u.launches.filter (·.ctx == ctx)).map (·.lid)).foldl (fun s lid => s.freezeLaunch lid .deadlock) u) ∧
      u.launches = s.launches := by
  obtain ⟨e, run⟩ : ∃ e, exec (.deadlockDetect ctx) s = .next
      ((((s.drawWord.2.event e).launches.filter (·.ctx == ctx)).map (·.lid)).foldl
        (fun s lid => s.freezeLaunch lid .deadlock) (s.drawWord.2.event e)) := by
    simp only [exec_deadlockDetect, execDeadlockDetect, hd, Nat.not_lt.2 hold, hdead, decide_false, Bool.not_true, Bool.or_self,
      Bool.false_eq_true, if_false]
    exact ⟨_, rfl⟩
  have told := s.drawWord.2.event_told e
  exact ⟨_, told.sheaves, run, told.launches⟩

/-- Settles O39: each watch of the machine, when it is due. -/
theorem machineWatches : Obligations.MachineWatches := by
  unfold Obligations.MachineWatches
  intro s die mw ctx
  refine ⟨fun b hb hold hev => ?_, fun b hb hn => ?_, fun u hu hdue => ?_, fun k hk h => State.powerSample_soon hk h,
    fun h => ?_, fun d hd hold hdead => ?_⟩
  · exact ⟨_, State.faultBatchClose_queues hb hold hev, rfl, by simp, rfl, rfl⟩
  · rw [State.fullBatches_of_full hb hn]; exact ⟨rfl, rfl, rfl⟩
  · refine ⟨_, State.powerSample_due hu hdue, ⟨rfl, rfl, rfl, rfl, rfl, rfl⟩, fun k => ?_⟩
    simp only [List.getElem?_modify, eq_comm (a := die)]
    split <;> simp
  · obtain ⟨t, run, steps⟩ := State.balanceStep_due h
    refine ⟨t, run, steps.balanced, steps.warps, steps.sheaves, fun c b hc hb => ?_⟩
    obtain ⟨g, hg, hstep⟩ := steps.g c b hb
    rw [if_pos (List.mem_range.2 hc)] at hstep
    exact ⟨g, hg, hstep⟩
  · obtain ⟨u, hsheaves, run, hlaunches⟩ := State.deadlockDetect_due hd hold hdead
    refine ⟨_, run, fun l h hl hctx hh hlid hres => ?_⟩
    have start : u.Halting l.lid h.sid False := ⟨h, by rw [State.sheaf, hsheaves]; exact hh, hlid, .inr ⟨hres, id⟩⟩
    have named : l.lid ∈ (u.launches.filter (·.ctx == ctx)).map (·.lid) :=
      List.mem_map.2 ⟨l, List.mem_filter.2 ⟨hlaunches ▸ hl, by simp [hctx]⟩, rfl⟩
    obtain ⟨y, hy, -, ⟨hf, hw⟩ | ⟨-, hn⟩⟩ := start.freezeLaunches ((u.launches.filter (·.ctx == ctx)).map (·.lid))
    · exact ⟨y, hy, hf, hw⟩
    · exact absurd (.inr named) hn

end Sys2Proof.Machine
end

section
/-! SUPPORT. Peers (R431, R432, R497), system phases (R360) and PTP (R436, R498). -/

namespace Sys2Proof.Machine

/-! ## Loss of a peer (R497): the faults of what was outstanding are steady -/

theorem State.freezeWarp_steady (s : State) (w : Warp) : s.Steady (s.freezeWarp w) := by
  obtain ⟨n, x, h⟩ := s.freezeWarp_eq w
  rw [h]; exact .of_eq rfl rfl rfl

theorem State.freezeSheaf_steady (s : State) (sid : Nat) (why : Why) : s.Steady (s.freezeSheaf sid why) := by
  unfold State.freezeSheaf
  split
  · exact .refl s
  · split
    · have begun : s.Steady (s.modSheaf sid fun h =>
          { h with state := .frozen, why := why, frozenAt := s.io.time.timebase.toNat }) := .of_eq rfl rfl rfl
      exact begun.trans ((State.steady_foldl State.freezeWarp_steady _ _).trans (.of_eq rfl rfl rfl))
    · exact .of_eq rfl rfl rfl

theorem State.mismatch_steady (s : State) (sid : Nat) : s.Steady (s.mismatch sid) := by
  unfold State.mismatch
  split
  · exact .refl s
  · exact .of_eq rfl rfl rfl

theorem State.consume_steady (s : State) (sid : Nat) : s.Steady (s.consume sid) := by
  unfold State.consume
  split
  · exact .refl s
  · split
    · exact s.mismatch_steady sid
    · exact .of_eq rfl rfl rfl

theorem State.pageFault_steady (s : State) (die ctx va : Nat) (need : Need) (hint : Bool) (level : Nat) :
    s.Steady (s.pageFault die ctx va need hint level) :=
  ⟨rfl, rfl, rfl, List.prefix_rfl, fun _ => List.prefix_rfl⟩

theorem State.markFault_steady (s : State) (w : Warp) (seq : BitVec 16) (fl : List LFault) (need : Need) :
    s.Steady (s.markFault w seq fl need) := by
  unfold State.markFault
  split
  · exact .refl s
  · exact (State.steady_foldl (fun s f => s.pageFault_steady _ _ _ _ _ _) _ s).trans (.of_eq rfl rfl rfl)

theorem State.faultEntries_steady (s : State) (w : Warp) (l : List (BitVec 16 × List LFault)) (need : Need) (src : Nat) :
    s.Steady (s.faultEntries w l need src) := by
  have marked := State.steady_foldl (fun (s : State) (x : BitVec 16 × List LFault) => s.markFault_steady w x.1 x.2 need) l s
  unfold State.faultEntries
  dsimp only
  split
  · exact marked
  · split
    · exact marked.trans (State.consume_steady _ _)
    · exact marked.trans ((State.event_steady _ _).trans (State.freezeSheaf_steady _ _ _))

theorem State.faultPeer_steady (s : State) (ctx dev : Nat) : s.Steady (s.faultPeer ctx dev) :=
  State.steady_foldl (fun s w => s.faultEntries_steady w _ _ _) _ s

/-- The machine once peer `k` is marked as lost. -/
def State.markLost (s : State) (k : Nat) : State :=
  { s with cmd := { s.cmd with peers := s.cmd.peers.modify k fun p => { p with lost := true } } }

theorem State.markLost_peer {s : State} {k : Nat} {p : Peer} (hp : s.cmd.peers[k]? = some p) :
    (s.markLost k).cmd.peers[k]? = some { p with lost := true } := by
  simp [State.markLost, hp]

/-- A peer that is lost is marked, its loss is reported, and its context's requests to it fault. -/
theorem State.peerLost_goes {s : State} {k : Nat} {p : Peer} (hp : s.cmd.peers[k]? = some p) (hlost : p.lost = false)
    (room : s.evRoom) : Goes s (.peerLost k) fun t => t.cmd.peers[k]? = some { p with lost := true } ∧ t.mem.dram = s.mem.dram ∧
      Reports s t ⟨0x0F, p.ctx, 0, 0, 0, 0, [at_ p.dev 0 ||| at_ p.ctx 20], []⟩ := by
  have run : exec (.peerLost k) s = .next (((s.markLost k).event ⟨0x0F, p.ctx, 0, 0, 0, 0, [at_ p.dev 0 ||| at_ p.ctx 20], []⟩).faultPeer
      p.ctx p.dev) := by
    simp only [exec_peerLost, execPeerLost, State.losePeer, hp, hlost]
    rfl
  have told := (s.markLost k).event_steady ⟨0x0F, p.ctx, 0, 0, 0, 0, [at_ p.dev 0 ||| at_ p.ctx 20], []⟩
  have faults := State.faultPeer_steady ((s.markLost k).event ⟨0x0F, p.ctx, 0, 0, 0, 0, [at_ p.dev 0 ||| at_ p.ctx 20], []⟩)
    p.ctx p.dev
  have report := State.event_reports (s := s.markLost k) ⟨0x0F, p.ctx, 0, 0, 0, 0, [at_ p.dev 0 ||| at_ p.ctx 20], []⟩ room
  refine ⟨_, run, ?_, (told.trans faults).dram, (report.steady told.link faults).congr rfl rfl⟩
  rw [(told.trans faults).peers]
  exact State.markLost_peer hp

/-! ## Messages of peers (R28, R432) -/

/-- A peer's load or store of a slice, not race-checked, reaches the target that its address names. -/
theorem State.sysMessageReceive_run {s : State} {k : Nat} {p : Peer} {data : List Byte} (hp : s.cmd.peers[k]? = some p)
    (hlost : p.lost = false) (hears : s.hears p.port = true) :
    exec (.sysMessageReceive k data) s = .next (s.sysPerform p (SysMsg.of data)) := by
  simp only [exec_sysMessageReceive, execSysMessageReceive, hp, hlost, hears]; rfl

/-- Nothing of a peer arrives at a port whose link is down. -/
theorem State.deaf_stays {s : State} {k : Nat} {p : Peer} (hp : s.cmd.peers[k]? = some p) (deaf : s.hears p.port = false)
    (data : List Byte) : exec (.sysMessageReceive k data) s = .next s ∧ exec (.sysPhaseArrival k data) s = .next s ∧
      exec (.sysPhaseCompletion k data) s = .next s := by
  refine ⟨?_, ?_, ?_⟩
  · simp [exec_sysMessageReceive, execSysMessageReceive, hp, deaf]
  · simp [exec_sysPhaseArrival, execSysPhaseArrival, hp, deaf]
  · rw [exec_sysPhaseCompletion, execSysPhaseCompletion, hp]
    dsimp only
    split <;> simp [deaf]

/-- The machine once the chaff records that a peer's message acknowledges are gone, and the sheaf whose slice it names is committed
(R404, R513). -/
def State.sysReady (s : State) (p : Peer) (m : SysMsg) (t : Target) : State :=
  (s.setMem { s.mem with chaff := s.mem.chaff.filter fun c =>
    !(c.ctx == p.ctx && c.vw == 2 ^ 48 * (p.dev + 1) + m.vw && below c.seq m.mark) }).touch 0 t

/-- A load of a peer that is not race-checked is answered with what stands at its target. -/
theorem State.sysPerform_load {s : State} {p : Peer} {m : SysMsg} {t : Target} (hk : m.kind = 0) (hr : m.race = false)
    (ht : s.sysTarget p.ctx m.addr m.bytes = some t) : s.sysPerform p m = (s.sysReady p m t).sysReply p m 0
      [BitVec.ofNat 64 (ofBytes (s.readAt p.ctx t m.bytes).1), at_ (b2n (s.readAt p.ctx t m.bytes).2) 0] := by
  simp only [State.sysPerform, hk, hr, ht]
  rfl

/-- A store of a peer that is not race-checked is performed at its target, and answered. -/
theorem State.sysPerform_store {s : State} {p : Peer} {m : SysMsg} {t : Target} (hk : m.kind = 1) (hr : m.race = false)
    (ht : s.sysTarget p.ctx m.addr m.bytes = some t) : s.sysPerform p m = ((s.sysReady p m t).putBytes ⟨p.ctx, none, none⟩ none t
      (bytesOf m.bytes (m.data.getD 0 0).toNat) m.psn).sysReply p m 0 [] := by
  simp only [State.sysPerform, hk, hr, ht]
  rfl

/-- An answer without a cause: the words of the request it answers, and what was read. -/
theorem State.sysReply_ok (s : State) (p : Peer) (m : SysMsg) (data : List Word64) : s.sysReply p m 0 data =
    s.send (.sys p.ctx p.dev ([at_ (0x80 + m.kind) 0, at_ m.vw 0 ||| at_ m.seq.toNat 48] ++ data)) := by
  have noCause : at_ (0 : Code8).toNat 8 = 0#64 := rfl
  rw [State.sysReply, noCause, BitVec.or_zero]

/-! ## A slice reached by a peer (R431, R432) -/

theorem State.sheaf_modSheaf {s : State} {k v : Nat} {h : Sheaf} (f : Sheaf → Sheaf) (hf : ∀ x, (f x).sid = x.sid)
    (hv : s.sheaf v = some h) : (s.modSheaf k f).sheaf v = some (if v = k then f h else h) := by
  have find := find_updIf (p := (·.sid == k)) (q := (·.sid == v)) (f := f) s.sheaves fun x => .inl (by rw [hf])
  refine find.trans ?_
  rw [show s.sheaves.find? (·.sid == v) = some h from hv]
  simp [State.sid_of_sheaf hv]

theorem State.sheaf_modSheaf_ne (s : State) {k v : Nat} (f : Sheaf → Sheaf) (hf : ∀ x, (f x).sid = x.sid) (hne : v ≠ k) :
    (s.modSheaf k f).sheaf v = s.sheaf v := by
  have find := find_updIf (p := (·.sid == k)) (q := (·.sid == v)) (f := f) s.sheaves fun x => .inl (by rw [hf])
  cases hv : s.sheaf v with
  | none => exact find.trans (by rw [show s.sheaves.find? (·.sid == v) = none from hv]; rfl)
  | some h => rw [State.sheaf_modSheaf f hf hv, if_neg hne]

/-- The sheaf whose slice a message names is committed. -/
theorem State.sysReady_scr (s : State) (p : Peer) (m : SysMsg) {sid : Nat} (c o : Nat) (pte : Word64) (hs : sid ≠ 0) :
    s.sysReady p m (.scr sid c o pte) = (s.setMem { s.mem with chaff := s.mem.chaff.filter fun c =>
      !(c.ctx == p.ctx && c.vw == 2 ^ 48 * (p.dev + 1) + m.vw && below c.seq m.mark) }).modSheaf sid
        fun h => { h with clean := false } := if_neg hs

theorem State.sysReady_sheaf {s : State} {sid : Nat} {h : Sheaf} (hs : sid ≠ 0) (hh : s.sheaf sid = some h) (p : Peer) (m : SysMsg)
    (c o : Nat) (pte : Word64) : (s.sysReady p m (.scr sid c o pte)).sheaf sid = some { h with clean := false } := by
  rw [State.sysReady_scr _ _ _ _ _ _ hs]
  exact (State.sheaf_modSheaf (s := s.setMem _) (fun h => { h with clean := false }) (fun _ => rfl) hh).trans
    (congrArg some (if_pos rfl))

theorem State.sysReady_sheaf_ne (s : State) {sid v : Nat} (hs : sid ≠ 0) (hv : v ≠ sid) (p : Peer) (m : SysMsg) (c o : Nat)
    (pte : Word64) : (s.sysReady p m (.scr sid c o pte)).sheaf v = s.sheaf v := by
  rw [State.sysReady_scr _ _ _ _ _ _ hs]
  exact (s.setMem _).sheaf_modSheaf_ne (fun h => { h with clean := false }) (fun _ => rfl) hv

/-- No byte of device memory, no warp, and nothing that has left the package changes. -/
theorem State.sysReady_frame (s : State) (p : Peer) (m : SysMsg) {sid : Nat} (c o : Nat) (pte : Word64) (hs : sid ≠ 0) :
    (s.sysReady p m (.scr sid c o pte)).mem.dram = s.mem.dram ∧ (s.sysReady p m (.scr sid c o pte)).warps = s.warps ∧
      (s.sysReady p m (.scr sid c o pte)).io = s.io := by
  rw [State.sysReady_scr _ _ _ _ _ _ hs]
  exact ⟨rfl, rfl, rfl⟩

/-- Bytes put in a slice of a sheaf that has no twin. -/
theorem State.putBytes_scr {s : State} {sid : Nat} {h : Sheaf} (hh : s.sheaf sid = some h) (tw : h.twin = none) (who : Who)
    (core : Option Nat) (c o : Nat) (pte : Word64) (l : List Byte) (psn : Bool) :
    s.putBytes who core (.scr sid c o pte) l psn = (s.modSheaf sid (·.put (c * 2 ^ 20 + o) l psn)).setMem
      { s.mem with touched := .scr sid c (o / 128) :: s.mem.touched } := by
  simp only [State.putBytes, State.noteStale, State.writeAt, hh, tw]
  rfl

/-- A peer's load of a slice is answered with its bytes and their poison. -/
theorem State.sysLoad_goes {s : State} {k : Nat} {p : Peer} {data : List Byte} {m : SysMsg} {sid c o : Nat} {pte : Word64} {h : Sheaf}
    (hp : s.cmd.peers[k]? = some p) (hlost : p.lost = false) (hears : s.hears p.port = true) (hm : SysMsg.of data = m)
    (hk : m.kind = 0) (hr : m.race = false) (hs : sid ≠ 0) (ht : s.sysTarget p.ctx m.addr m.bytes = some (.scr sid c o pte))
    (hh : s.sheaf sid = some h) :
    Goes s (.sysMessageReceive k data) fun t => t.mem.dram = s.mem.dram ∧ t.warps = s.warps ∧
      t.sheaf sid = some { h with clean := false } ∧
      t.io.out = s.io.out ++ [.sys p.ctx p.dev ([at_ (0x80 + m.kind) 0, at_ m.vw 0 ||| at_ m.seq.toNat 48] ++
        [BitVec.ofNat 64 (ofBytes (h.scr.getN (c * 2 ^ 20 + o) m.bytes)), at_ (b2n ((List.range ((m.bytes + 3) / 4)).any fun i =>
          psnGet h.psn (c * 2 ^ 20 + o + 4 * i))) 0])] := by
  refine ⟨_, State.sysMessageReceive_run hp hlost hears, ?_⟩
  obtain ⟨hdram, hwarps, hio⟩ := s.sysReady_frame p m c o pte hs
  rw [hm, State.sysPerform_load hk hr ht, State.sysReply_ok, State.readAt, hh]
  exact ⟨hdram, hwarps, State.sysReady_sheaf hs hh p m c o pte, congrArg (fun io : Io => io.out ++ [_]) hio⟩

/-- A peer's store to a slice writes its bytes there, and no others, and is answered. -/
theorem State.sysStore_goes {s : State} {k : Nat} {p : Peer} {data : List Byte} {m : SysMsg} {sid c o : Nat} {pte : Word64} {h : Sheaf}
    (hp : s.cmd.peers[k]? = some p) (hlost : p.lost = false) (hears : s.hears p.port = true) (hm : SysMsg.of data = m)
    (hk : m.kind = 1) (hr : m.race = false) (hs : sid ≠ 0) (ht : s.sysTarget p.ctx m.addr m.bytes = some (.scr sid c o pte))
    (hh : s.sheaf sid = some h) (tw : h.twin = none) (wf : h.scr.wf = true) :
    Goes s (.sysMessageReceive k data) fun t => t.mem.dram = s.mem.dram ∧ t.warps = s.warps ∧
      t.io.out = s.io.out ++ [.sys p.ctx p.dev ([at_ (0x80 + m.kind) 0, at_ m.vw 0 ||| at_ m.seq.toNat 48] ++ [])] ∧
      (∀ v, v ≠ sid → t.sheaf v = s.sheaf v) ∧ ∃ h', t.sheaf sid = some h' ∧
      h'.scr.getN (c * 2 ^ 20 + o) m.bytes = bytesOf m.bytes (m.data.getD 0 0).toNat ∧
      ∀ n, n < c * 2 ^ 20 + o ∨ c * 2 ^ 20 + o + m.bytes ≤ n → h'.scr.get n = h.scr.get n := by
  refine ⟨_, State.sysMessageReceive_run hp hlost hears, ?_⟩
  obtain ⟨hdram, hwarps, hio⟩ := s.sysReady_frame p m c o pte hs
  have hready := State.sysReady_sheaf hs hh p m c o pte
  have hothers (v : Nat) (hv : v ≠ sid) := s.sysReady_sheaf_ne hs hv p m c o pte
  rw [hm, State.sysPerform_store hk hr ht, State.sysReply_ok, State.putBytes_scr hready tw]
  generalize s.sysReady p m (.scr sid c o pte) = u at hdram hwarps hio hready hothers ⊢
  generalize hl : bytesOf m.bytes (m.data.getD 0 0).toNat = l
  have hlen : l.length = m.bytes := by rw [← hl]; simp [bytesOf]
  refine ⟨hdram, hwarps, congrArg (fun io : Io => io.out ++ [_]) hio, fun n hn => ?_,
    Sheaf.put { h with clean := false } (c * 2 ^ 20 + o) l m.psn, ?_, ?_, fun n hn => ?_⟩
  · exact (u.sheaf_modSheaf_ne (·.put (c * 2 ^ 20 + o) l m.psn) (fun _ => rfl) hn).trans (hothers n hn)
  · exact (State.sheaf_modSheaf (s := u) (·.put (c * 2 ^ 20 + o) l m.psn) (fun _ => rfl) hready).trans (congrArg some (if_pos rfl))
  · rw [← hlen]; exact Bytes.getN_putN h.scr (c * 2 ^ 20 + o) l wf
  · refine (Bytes.get_putN l h.scr (c * 2 ^ 20 + o) n wf).trans (if_neg ?_)
    omega

/-! ## System phases (R360) -/

theorem State.lid_of_launch {s : State} {v : Nat} {l : Launch} (h : s.launch v = some l) : l.lid = v := by
  simpa using List.find?_some h

theorem State.launch_modLaunch {s : State} {k : Nat} {l : Launch} (f : Launch → Launch) (hf : ∀ x, (f x).lid = x.lid)
    (h : s.launch k = some l) : (s.modLaunch k f).launch k = some (f l) := by
  have find := find_updIf (p := (·.lid == k)) (q := (·.lid == k)) (f := f) s.launches fun x => .inl (by rw [hf])
  refine find.trans ?_
  rw [show s.launches.find? (·.lid == k) = some l from h]
  simp [State.lid_of_launch h]

/-- A group once its phase has completed with value `v` (R49). -/
def Group.completed (x : Group) (v : Word64) : Group :=
  { x with phase := x.phase + 1, arrived := [], contrib := [], last := v, sent := false }

/-- A launch's group `g` stands as `x`, in a state with the device memory of `s`. -/
def State.GroupIs (s t : State) (lid g : Nat) (x : Group) : Prop :=
  t.mem.dram = s.mem.dram ∧ ∃ l, t.launch lid = some l ∧ l.groups.find? (·.idx == g) = some x

theorem State.GroupIs.of {s t u : State} {lid g : Nat} {x : Group} (h : t.GroupIs u lid g x) (hm : t.mem = s.mem) :
    s.GroupIs u lid g x := by
  obtain ⟨hd, hl⟩ := h
  exact ⟨by rw [hd, hm], hl⟩

/-- A phase that completes makes the group the completed one, and changes no byte of device memory. -/
theorem State.phaseDone_group {s : State} {lid g : Nat} {l : Launch} {x : Group} (hl : s.launch lid = some l)
    (hx : l.groups.find? (·.idx == g) = some x) (v : Word64) : s.GroupIs (s.phaseDone lid g v) lid g (x.completed v) := by
  have hid : x.idx = g := by simpa using List.find?_some hx
  simp only [State.phaseDone, hl, hx]
  generalize hu : List.foldl _ s x.arrived = u
  have kept : u.launches = s.launches ∧ u.mem = s.mem := by
    rw [← hu]
    refine List.foldlRecOn (motive := fun t : State => t.launches = s.launches ∧ t.mem = s.mem) _ _ ⟨rfl, rfl⟩
      fun t h vw _ => ?_
    split
    · exact h
    · split <;> exact h
  obtain ⟨hlaunches, hmem⟩ := kept
  refine ⟨congrArg Mem.dram hmem, _, State.launch_modLaunch _ (fun _ => rfl) (l := l) ?_, ?_⟩
  · rw [State.launch, hlaunches]; exact hl
  · refine (find_updIf (p := (·.idx == g)) (q := (·.idx == g)) (f := (·.completed v)) l.groups fun _ => .inl rfl).trans ?_
    simp [hx, hid]

theorem State.sends_kept (f : Nat → Out) (l : List Nat) (s : State) :
    (l.foldl (fun s d => s.send (f d)) s).launches = s.launches ∧ (l.foldl (fun s d => s.send (f d)) s).mem = s.mem :=
  List.foldlRecOn (motive := fun t : State => t.launches = s.launches ∧ t.mem = s.mem) l _ ⟨rfl, rfl⟩ fun _ h _ _ => h

/-- What the contributions of arrivals combine to. -/
def arrivedValue (l : List SysArr) : Word64 := combine ((l.filter (·.op != .none)).map fun a => (a.dev, 0, a.op, a.value))

/-- The coordinator completes a phase that has ended here once it holds every device's arrival. -/
theorem State.sysPhaseDone_group {s : State} {l : Launch} {x : Group} {mine : List SysArr} (hl : s.launch l.lid = some l)
    (hx : l.groups.find? (·.idx == x.idx) = some x) (hsent : x.sent = true) (hlost : s.groupLost l.ctx x.sysid = false)
    (hmine : s.cmd.sysArr.filter (fun a => a.ctx == l.ctx && a.sysid == x.sysid && a.phase == x.phase) = mine) :
    s.GroupIs (s.sysPhaseDone l.lid x.idx) l.lid x.idx
      (if (mine.map (·.dev)).eraseDups.length < x.ndev then x else x.completed (arrivedValue mine)) := by
  simp only [State.sysPhaseDone, hl, hx, hmine, hsent, hlost, Bool.not_true, Bool.false_or, Bool.or_false, decide_eq_true_eq]
  split
  · exact ⟨rfl, l, hl, hx⟩
  · generalize hu : List.foldl _ _ _ = u
    obtain ⟨hlaunches, hmem⟩ : u.launches = s.launches ∧ u.mem = s.mem := by rw [← hu]; exact State.sends_kept _ _ _
    have hl' : u.launch l.lid = some l := by rw [State.launch, hlaunches]; exact hl
    exact (State.phaseDone_group hl' hx _).of hmem

/-- The machine once it holds a device's arrival, and has acknowledged it to peer `p`. -/
def State.tookArrival (s : State) (p : Peer) (a : SysArr) : State :=
  State.send { s with cmd := { s.cmd with sysArr := s.cmd.sysArr ++ [a] } } (.sys p.ctx p.dev [0x84])

/-- A device's arrival is held by the coordinator, which completes the phase when it was the last. -/
theorem State.sysPhaseArrival_goes {s : State} {k : Nat} {p : Peer} {data : List Byte} {l : Launch} {x : Group} {op : POp}
    {val : Word64} (hp : s.cmd.peers[k]? = some p) (hplost : p.lost = false) (hears : s.hears p.port = true)
    (hf : phaseFields data = (x.sysid, x.phase, op, val)) (hlost : s.groupLost l.ctx x.sysid = false) (hctx : l.ctx = p.ctx)
    (hg : s.sysGroup p.ctx x.sysid = some (l, x)) (hl : s.launch l.lid = some l) (hx : l.groups.find? (·.idx == x.idx) = some x)
    (hco : s.coordinator p.ctx x.sysid = s.io.start.device.toNat) (hsent : x.sent = true) :
    Goes s (.sysPhaseArrival k data) fun t =>
      let mine := (s.cmd.sysArr ++ [SysArr.mk p.ctx x.sysid p.dev x.phase op val]).filter fun a =>
        a.ctx == p.ctx && a.sysid == x.sysid && a.phase == x.phase
      s.GroupIs t l.lid x.idx (if (mine.map (·.dev)).eraseDups.length < x.ndev then x else x.completed (arrivedValue mine)) := by
  have hco' : s.coordinates p.ctx x.sysid = true := by simp [State.coordinates, hco]
  have hg' (a : SysArr) : (s.tookArrival p a).sysGroup p.ctx x.sysid = some (l, x) := hg
  have run : exec (.sysPhaseArrival k data) s =
      .next ((s.tookArrival p ⟨p.ctx, x.sysid, p.dev, x.phase, op, val⟩).sysPhaseDone l.lid x.idx) := by
    simp only [State.tookArrival] at hg'
    simp only [exec_sysPhaseArrival, execSysPhaseArrival, hp, hf, hplost, hears, hco', Bool.not_true, Bool.or_self,
      Bool.false_eq_true, if_false, hg', State.tookArrival]
  exact ⟨_, run, (State.sysPhaseDone_group (s := s.tookArrival p _) hl hx hsent hlost (hctx ▸ rfl)).of rfl⟩

/-- The coordinator's completion message completes the phase here. -/
theorem State.sysPhaseCompletion_goes {s : State} {k : Nat} {p : Peer} {data : List Byte} {l : Launch} {x : Group} {op : POp}
    {val : Word64} (hp : s.cmd.peers[k]? = some p) (hplost : p.lost = false) (hears : s.hears p.port = true)
    (hf : phaseFields data = (x.sysid, x.phase, op, val)) (hlost : s.groupLost p.ctx x.sysid = false)
    (hg : s.sysGroup p.ctx x.sysid = some (l, x)) (hl : s.launch l.lid = some l) (hx : l.groups.find? (·.idx == x.idx) = some x)
    (hco : p.dev = s.coordinator p.ctx x.sysid) (hsent : x.sent = true) :
    Goes s (.sysPhaseCompletion k data) fun t => s.GroupIs t l.lid x.idx (x.completed val) := by
  have run : exec (.sysPhaseCompletion k data) s =
      .next ((s.send (.sys p.ctx p.dev [0x84])).phaseDone l.lid x.idx val) := by
    simp [exec_sysPhaseCompletion, execSysPhaseCompletion, hp, hf, hg, hplost, hears, hlost, ← hco, hsent]
  exact ⟨_, run, (State.phaseDone_group (s := s.send (.sys p.ctx p.dev [0x84])) hl hx val).of rfl⟩

/-! ## PTP (R436, R498) -/

/-- From `s` to `t` the clock has been corrected, perhaps with a free value drawn: its lock and its counts stand. -/
structure State.Corrected (s t : State) : Prop where
  eq : t = { s with freeIx := t.freeIx, io := { s.io with time := t.io.time } }
  locked : t.io.time.locked = s.io.time.locked
  good : t.io.time.good = s.io.time.good

theorem State.correct_corrected (s : State) (o : Int) : s.Corrected (s.correct o) := by
  unfold State.correct
  dsimp only
  split
  · exact ⟨rfl, rfl, rfl⟩
  · split <;> exact ⟨rfl, rfl, rfl⟩

/-- Before the first lock a clock that is behind steps forward. -/
theorem State.correct_behind {s : State} {o : Int} (h : s.io.time.everLocked = false) (ho : o < 0) : (s.correct o).io.time =
    { s.io.time with timebase := s.io.time.timebase + BitVec.ofNat 64 o.natAbs, half := 0 } := by
  simp [State.correct, h, ho]

/-- Before the first lock a clock that is ahead slows down. -/
theorem State.correct_ahead {s : State} {o : Int} (h : s.io.time.everLocked = false) (ho : 0 ≤ o) : (s.correct o).io.time =
    { s.io.time with half := 2 * o.natAbs } := by
  simp [State.correct, h, Int.not_lt.2 ho]

/-- The machine after one exchange, before a lock that it may give. -/
def State.exchanged (s : State) (port : Nat) (o : Int) : State :=
  let u := (s.send (.delayReq port s.io.start.domain s.io.time.timebase)).correct o
  { u with io := { u.io with time := { u.io.time.count o with lastSync := u.io.time.timebase.toNat } } }

/-- The machine once its clock locks. -/
def State.locks (s : State) : State :=
  { s with io := { s.io with time := { s.io.time with locked := true, everLocked := true, bad := 0, half := 0 } } }

/-- The machine once its clock has lost its lock. -/
def State.unlocks (s : State) : State :=
  { s with io := { s.io with time := { s.io.time with locked := false, good := 0, bad := 0 } } }

theorem State.lockEvent_time (s : State) (gained : Bool) : (s.lockEvent gained).io.time = s.io.time :=
  (s.event_told _).time

theorem State.lockEvent_reports {s : State} (gained : Bool) (h : s.evRoom) : Reports s (s.lockEvent gained)
    ⟨0x0E, 0, 0, 0, 0, 0, [at_ (b2n gained) 0, BitVec.ofInt 64 s.io.time.offset], []⟩ :=
  State.event_reports _ h

/-- An exchange locks a clock without lock when it is the eighth good one in a row. -/
theorem State.ptpSync_run {s : State} {port : Nat} (hc : s.io.start.configured = true) (hp : s.ptpPort = some port) (o : Int) :
    exec (.ptpSync o) s = .next (if (s.exchanged port o).io.time.locked = false ∧ 8 ≤ (s.exchanged port o).io.time.good
      then (s.exchanged port o).locks.lockEvent true else s.exchanged port o) := by
  simp only [exec_ptpSync, execPtpSync, hc, hp, Bool.not_true, Bool.false_eq_true, if_false, Bool.and_eq_true, Bool.not_eq_true',
    decide_eq_true_eq]
  exact (apply_ite Host.Outcome.next _ _ _).symm

/-- An exchange sends its Delay_Req, and changes the clock alone. -/
theorem State.exchanged_eq (s : State) (port : Nat) (o : Int) : ∃ n t, s.exchanged port o = { s with freeIx := n, io := { s.io with
    time := t, out := s.io.out ++ [.delayReq port s.io.start.domain s.io.time.timebase] } } := by
  have h := ((s.send (.delayReq port s.io.start.domain s.io.time.timebase)).correct_corrected o).eq
  exact ⟨_, _, by rw [State.exchanged, h]; rfl⟩

theorem State.exchanged_out (s : State) (port : Nat) (o : Int) :
    .delayReq port s.io.start.domain s.io.time.timebase ∈ (s.exchanged port o).io.out := by
  obtain ⟨n, t, h⟩ := s.exchanged_eq port o
  rw [h]; exact List.mem_append_right _ (List.mem_singleton_self _)

theorem State.exchanged_cmd (s : State) (port : Nat) (o : Int) : (s.exchanged port o).cmd = s.cmd := by
  obtain ⟨n, t, h⟩ := s.exchanged_eq port o
  rw [h]

theorem State.exchanged_evLink (s : State) (port : Nat) (o : Int) : (s.exchanged port o).evLink = s.evLink := by
  obtain ⟨n, t, h⟩ := s.exchanged_eq port o
  rw [h]; exact State.evLink_congr rfl rfl

theorem State.exchanged_locked (s : State) (port : Nat) (o : Int) : (s.exchanged port o).io.time.locked = s.io.time.locked :=
  ((s.send _).correct_corrected o).locked

theorem State.exchanged_good (s : State) (port : Nat) (o : Int) :
    (s.exchanged port o).io.time.good = if o.natAbs < 100 then s.io.time.good + 1 else 0 := by
  have h := ((s.send (.delayReq port s.io.start.domain s.io.time.timebase)).correct_corrected o).good
  rw [State.exchanged]
  simp only [Time.count, h, State.send_io]

/-- Before the first lock, an exchange that finds the clock behind steps it. -/
theorem State.exchanged_behind {s : State} {o : Int} (port : Nat) (h : s.io.time.everLocked = false) (ho : o < 0) :
    (s.exchanged port o).io.time.timebase = s.io.time.timebase + BitVec.ofNat 64 o.natAbs ∧ (s.exchanged port o).io.time.half = 0 := by
  have hc := State.correct_behind (s := s.send (.delayReq port s.io.start.domain s.io.time.timebase)) h ho
  rw [State.exchanged, hc]
  exact ⟨rfl, rfl⟩

/-- Before the first lock, an exchange that finds the clock ahead leaves it at its time. -/
theorem State.exchanged_ahead {s : State} {o : Int} (port : Nat) (h : s.io.time.everLocked = false) (ho : 0 ≤ o) :
    (s.exchanged port o).io.time.timebase = s.io.time.timebase ∧ (s.exchanged port o).io.time.offset = o := by
  have hc := State.correct_ahead (s := s.send (.delayReq port s.io.start.domain s.io.time.timebase)) h ho
  rw [State.exchanged, hc]
  exact ⟨rfl, rfl⟩

/-- An exchange that does not lock the clock. -/
theorem State.ptpSync_unlocked {s : State} {port : Nat} (hc : s.io.start.configured = true) (hp : s.ptpPort = some port) {o : Int}
    (h : (s.exchanged port o).io.time.good < 8) : exec (.ptpSync o) s = .next (s.exchanged port o) := by
  rw [State.ptpSync_run hc hp, if_neg fun ⟨_, eight⟩ => absurd h (Nat.not_lt.2 eight)]

/-- Whatever comes of an exchange, its Delay_Req has left the package. -/
theorem State.ptpSync_sends {s : State} {port : Nat} (hc : s.io.start.configured = true) (hp : s.ptpPort = some port) (o : Int) :
    Goes s (.ptpSync o) fun t => .delayReq port s.io.start.domain s.io.time.timebase ∈ t.io.out := by
  refine ⟨_, State.ptpSync_run hc hp o, ?_⟩
  split
  · exact ((s.exchanged port o).locks.event_told _).out.subset (s.exchanged_out port o)
  · exact s.exchanged_out port o

/-- The eighth good exchange in a row before the first lock declares it. -/
theorem State.ptpSync_locks {s : State} {port : Nat} (hc : s.io.start.configured = true) (hp : s.ptpPort = some port) {o : Int}
    (hever : s.io.time.everLocked = false) (hlock : s.io.time.locked = false) (h0 : 0 ≤ o) (h100 : o < 100)
    (hgood : 7 ≤ s.io.time.good) (room : s.evRoom) : Goes s (.ptpSync o) fun t =>
      t.io.time.locked = true ∧ t.io.time.everLocked = true ∧ t.io.time.timebase = s.io.time.timebase ∧
      Reports s t ⟨0x0E, 0, 0, 0, 0, 0, [1, BitVec.ofInt 64 o], []⟩ := by
  have small : o.natAbs < 100 := by omega
  have eighth : 8 ≤ (s.exchanged port o).io.time.good := by rw [s.exchanged_good, if_pos small]; omega
  have run : exec (.ptpSync o) s = .next ((s.exchanged port o).locks.lockEvent true) := by
    rw [State.ptpSync_run hc hp, if_pos ⟨(s.exchanged_locked port o).trans hlock, eighth⟩]
  obtain ⟨htime, hoff⟩ := State.exchanged_ahead port hever h0
  have hroom : (s.exchanged port o).evRoom := (congrArg (fun c : Cmd => c.unsent.length < 4096) (s.exchanged_cmd port o)).mpr room
  have hlink := s.exchanged_evLink port o
  generalize s.exchanged port o = u at htime hoff hroom hlink run
  have time : (u.locks.lockEvent true).io.time = u.locks.io.time := u.locks.lockEvent_time true
  have report := State.lockEvent_reports (s := u.locks) true hroom
  rw [show u.locks.io.time.offset = o from hoff] at report
  exact ⟨_, run, congrArg Time.locked time, congrArg Time.everLocked time, (congrArg Time.timebase time).trans htime,
    report.congr hlink htime⟩

/-- Silence, or bad exchanges, take the lock back; the clock runs on. -/
theorem State.ptpLockLoss_goes {s : State} (hlock : s.io.time.locked = true)
    (h : s.io.time.lastSync + 4000000000 ≤ s.io.time.timebase.toNat ∨ 8 ≤ s.io.time.bad) (room : s.evRoom) :
    Goes s .ptpLockLoss fun t => t.io.time = { s.io.time with locked := false, good := 0, bad := 0 } ∧
      Reports s t ⟨0x0E, 0, 0, 0, 0, 0, [0, BitVec.ofInt 64 s.io.time.offset], []⟩ := by
  have run : exec .ptpLockLoss s = .next (s.unlocks.lockEvent false) := by
    refine if_pos ?_
    simpa [hlock] using h
  exact ⟨_, run, s.unlocks.lockEvent_time false, (State.lockEvent_reports (s := s.unlocks) false room).congr rfl rfl⟩

/-- Settles O51: a lost peer, the messages of a peer, system phases, and PTP. -/
theorem peersAndTime : Obligations.PeersAndTime := by
  unfold Obligations.PeersAndTime
  intro s k p hp hlost
  refine ⟨State.peerLost_goes hp hlost, ?_, ?_, State.deaf_stays hp, ?_⟩
  · intro m data sid c o pte h hm hr hears hs ht hh tw wf _
    exact ⟨fun hk => State.sysLoad_goes hp hlost hears hm hk hr hs ht hh,
      fun hk _ => State.sysStore_goes hp hlost hears hm hk hr hs ht hh tw wf⟩
  · intro data l x sysid phase op val hf hears hgl hg hl hx hctx hid
    subst hid
    refine ⟨fun hco hsent hphase => ?_, fun hco hsent hphase => ?_⟩ <;> subst hphase
    · exact State.sysPhaseArrival_goes hp hlost hears hf (hctx ▸ hgl) hctx hg hl hx hco hsent
    · exact State.sysPhaseCompletion_goes hp hlost hears hf hgl hg hl hx hco hsent
  · intro o port hc hport
    have good := s.exchanged_good port o
    refine ⟨State.ptpSync_sends hc hport o, fun hever hlock h0 h100 hgood => ?_,
      State.ptpSync_locks hc hport, fun hbad => ?_, State.ptpLockLoss_goes⟩
    · rw [if_pos (by omega)] at good
      obtain ⟨htime, hhalf⟩ := State.exchanged_behind port hever h0
      exact ⟨_, State.ptpSync_unlocked hc hport (by omega), htime, hhalf, good, (s.exchanged_locked port o).trans hlock⟩
    · rw [if_neg (by omega)] at good
      exact ⟨_, State.ptpSync_unlocked hc hport (by omega), good, s.exchanged_locked port o⟩

end Sys2Proof.Machine
end
